-- ==== Sys2Proof/Word.lean ====
section
/-! DEFINITION. The word types of the device: register words, bytes, and the sparse table that holds keyed state in
one canonical form (keys strictly rising, no entry equal to its default). -/

namespace Sys2Proof

/-- A 32-bit register word (R64). -/
abbrev Word := BitVec 32

/-- A byte of memory (R11). -/
abbrev Byte := BitVec 8

/-- A sparse table: key and value pairs. What an unlisted key reads as is named where the table is read. -/
abbrev Table (α : Type) := List (Nat × α)

end Sys2Proof
end

