-- ==== Sys2Proof/Syntax.lean ====
section
/-! DEFINITION. The commands and events the block takes (one constructor per row of spec/opcode_table.json) and the
operands they carry: what the host, the board, a partner on a link or a sensor supplies with the event. -/

namespace Sys2Proof

/-- Dies: 0 to 3 for H0 to H3, 4 for S0, 5 for S1 (R85). -/
abbrev Die := Fin 6
abbrev Hoop := Fin 4
abbrev Shuttle := Fin 2
/-- Arrays: 2h for H(h).A, 2h + 1 for H(h).B (R112). -/
abbrev ArrayId := Fin 8
/-- Nirid ports L00 to L17. -/
abbrev Port := Fin 18
/-- HBM3 stacks M00 to M23. -/
abbrev Stack := Fin 24
/-- Host ring pairs (R321). -/
abbrev RingId := Fin 64
/-- Bobbin of a die (R82). -/
abbrev BobbinId := Fin 32

/-- One 64-byte ordered set as it arrives, byte 0 lowest (R264). -/
abbrev OrdSet := BitVec 512

/-- One 256-byte control flit as it arrives, byte 0 lowest (R261). -/
abbrev CtlFlit := BitVec 2048

/-- How a host-memory access ends (R327 ADDRESS, HST_HOST_ERR codes 0x1 to 0x4 of R346). -/
inductive HostErr where
  | timeout | unsupported | abort | poisoned
deriving DecidableEq, Repr

/-- How a copy of the host port comes to its end (R238, R333): every byte moved; a write that host memory refused; or the
offset at which the copy's own read came back uncorrectable. -/
inductive CopyEnd where
  | whole
  | hostErr (err : HostErr)
  | media (off : BitVec 26)
deriving DecidableEq, Repr

/-- What a device read of host memory brings. -/
inductive HostRead where
  | ok (bytes : List Byte)
  | fail (e : HostErr)
deriving DecidableEq, Repr

/-- A submission entry after its OPCODE (R324): FLAGS, CID, the reserved word and the 56 bytes of PARAMS as one
little-endian number, byte 8 of the entry lowest. -/
structure Sqe where
  flags : BitVec 8
  cid : BitVec 16
  rsv : BitVec 32
  params : BitVec 448
deriving DecidableEq, Repr

/-- A host register access: bytes 1, 2, 4 or 8 (R64). -/
inductive Width where
  | b1 | b2 | b4 | b8
deriving DecidableEq, Repr

/-- What a control cluster projects, in global time (48.16): the completion of a pending slot (R48); or, of the LINK_RECV slot
of a receiver, when the buffer slot that its next arrival fills will be free (R218). -/
structure Projection where
  die : Die
  slot : Nat
  done : Nat
  receiver : Bool
deriving DecidableEq, Repr

/-- The descriptor of a transfer: a STREAM entry of the pricking, or the address of a host-armed one (R212, R223). -/
inductive ArmId where
  | stream (index : BitVec 17)
  | host (va : BitVec 48)
deriving DecidableEq, Repr

/-- A transfer of a bobbin: its descriptor, and the generation of the arm (R211). -/
structure ArmRef where
  desc : ArmId
  gen : BitVec 8
deriving DecidableEq, Repr

/-- What stops a transfer at a beat (R220, R222): a lookup of its source or of its destination, an uncorrectable read, or
the parity of the transfer state that the bobbin itself holds. -/
inductive BeatCause where
  | lookup (write : Bool)
  | media
  | state
deriving DecidableEq, Repr

/-- What a read of SRAM or a bridge transfer meets (R22, R243). -/
inductive ReadFate where
  | clean
  | corrected
  | uncorrectable
deriving DecidableEq, Repr

/-- What a read of the slow tier brings (R240, R241): the data as the package delivers it, after the link code has corrected
it or not, with the bits that neither code notices; or an error that the link code only detects. -/
inductive SlowRead where
  | good (corrected : Bool) (wrong : List (Fin 64 × Byte))
  | uncorrectable
deriving DecidableEq, Repr

/-- Who asked for the word of memory that comes back (R230, R231, R238): a transfer of a bobbin or another unit of a die, by
its code of R82, each for itself or as the read half of a partial write; or a copy of the host port. -/
inductive Reader where
  | bobbin (die : Die) (n : BobbinId) (desc : ArmId) (gen : BitVec 8) (write : Bool)
  | unit (die : Die) (unit : BitVec 8) (write : Bool)
  | host
deriving DecidableEq, Repr

/-- What a reduction or update engine meets while it works (R247, R295, R318): a parity error of its datapath, an end of
another slot than the one dispatched, or a lookup of an address that fails its TLB entry's parity. -/
inductive EngineFault where
  | parity
  | mismatch
  | lookup (va : BitVec 48)
deriving DecidableEq, Repr

/-- The end of a slot's work on a unit, by its code of R82: the work is done, or the unit meets an error instead. -/
structure UnitEnd where
  unit : BitVec 8
  fault : Option EngineFault := none
deriving DecidableEq, Repr

/-- A read of a word of SRAM that comes back (R243): the scrubber's next word, or a unit's own read of the word at an
offset. -/
inductive SramRead where
  | scrub (fate : ReadFate)
  | unit (off : BitVec 28) (unit : BitVec 8) (fate : ReadFate)
deriving DecidableEq, Repr

/-- What an HBM3 read meets (R229, R230): the die's severity report, and the symbols of the 67-symbol codeword that come
back changed, each with the bits that differ. -/
structure PairRead where
  dieReport : Bool
  errs : List (Fin 67 × Byte)
deriving DecidableEq, Repr

/-- Error sources of an array (R134). -/
inductive ArrayFault where
  | drainSingle | drainDouble | stationaryParity | portParity | drainMismatch
deriving DecidableEq, Repr

/-- Error sources of the transposing buffers and the vector unit (R201). -/
inductive VecFault where
  | xpbParity (buffer : Bool) | xpbHeld (buffer : Bool) | vecParity | vecMismatch
deriving DecidableEq, Repr

/-- A received frame (R253, R255, R260, R270): its SLOT_CHECK, the data positions as they arrive, and the symbols that the line
changed, codeword by codeword and in each how many on each lane. -/
structure RxFrame where
  check : OrdSet
  flits : List (List Byte)
  lines : List (List Nat)
deriving DecidableEq, Repr

/-- One reading of the module's input: voltage in mV, current in units of 10 mA (R348). -/
structure PowerReading where
  vinMv : BitVec 16
  iin10mA : BitVec 16
deriving DecidableEq, Repr

inductive Instr where
  -- supply, reset and start-up
  | inputPowerUp
  | supplyUv (mv : BitVec 16)
  | supplyOv (mv : BitVec 16)
  | regFault (domain : Fin 36)
  | inputLoss
  | perstRelease (diesReady : Bool) (rom : List (Die × BitVec 16 × Word))
  | perstAssert
  | hbmTrainingDone
  | hbmZeroDone (stack : Stack)
  | slowTierTrained
  | calibrationDone (fixedW : BitVec 12)
  | functionLevelReset
  | refclkLoss
  | pwrbrakeAssert
  | pwrbrakeRelease
  | clsRead (code : BitVec 3)
  -- time grid
  | gridJoin (ring : RingId) (e : Sqe)
  | beaconListenTimeout
  | beaconSend
  | beaconReceive (port : Port) (os : OrdSet) (rx : BitVec 64)
  | lockTimeout
  | beaconLoss
  | holdoverExpiry
  | backupRootTakeover
  | delayReqSend (port : Port)
  | delayReqReceive (port : Port) (os : OrdSet) (rx : BitVec 64)
  | delayRespReceive (port : Port) (os : OrdSet) (rx : BitVec 64)
  | joinReport (port : Port) (flit : CtlFlit)
  | gridsyncEdge (at_ : BitVec 64)
  | gridsyncEdgeMissing
  | knotEvent (late : List Projection) (fail : Option (Die × BitVec 8))
  | localTick
  | snagReprojection (late : List Projection)
  | snagForward (port : Port) (os : OrdSet)
  | snagRootReceive (port : Port) (os : OrdSet)
  | gridLeave (ring : RingId) (e : Sqe)
  -- registers and events
  | cfgApplyGo (block : BitVec 10)
  | modeRequest (value : Word)
  | configScrub (bad : Option (BitVec 26))
  | registerWrite (ext : Bool) (addr : BitVec 26) (width : Width) (value : BitVec 64)
  | registerReadLatch (addr : BitVec 26) (bytes : BitVec 8)
  | evtTailWrite (value : Word)
  | eventWriteFail
  -- host rings and commands
  | kick (offset : BitVec 12) (value : Word)
  | sweepFetch (kickSweep : Bool) (page : HostRead)
  | reservedOpcode (ring : RingId) (opcode : BitVec 8) (e : Sqe)
  | identify (ring : RingId) (e : Sqe) (write : Option HostErr)
  | ringCreate (ring : RingId) (e : Sqe)
  | ringDelete (ring : RingId) (e : Sqe)
  | map (ring : RingId) (e : Sqe) (data : HostRead)
  | unmap (ring : RingId) (e : Sqe)
  | memRead (ring : RingId) (e : Sqe)
  | memWrite (ring : RingId) (e : Sqe) (data : HostRead)
  | hostCopyDone (ring : RingId) (fin : CopyEnd)
  | trainPorts (ring : RingId) (e : Sqe)
  | admitPricking (ring : RingId) (e : Sqe)
  | startStep (ring : RingId) (e : Sqe) (lens : HostRead)
  | abortStep (ring : RingId) (e : Sqe)
  | preempt (ring : RingId) (e : Sqe)
  | resume (ring : RingId) (e : Sqe)
  | setPowerCap (ring : RingId) (e : Sqe)
  | extensionCommand (ring : RingId) (opcode : BitVec 8) (e : Sqe)
  | completionDeferredPost (ring : RingId)
  | completionWriteFail (ring : RingId) (err : HostErr)
  | preemptSaveDone
  | resumeRestoreDone
  -- slots and units
  | slotDispatch (die : Die)
  | slotDeadlineCheck (die : Die) (slot : BitVec 17)
  | headPassDeferredStart (array : ArrayId)
  | vector0Entry (array : ArrayId) (present : Bool)
  | arrayFreezeLimit (array : ArrayId) (drain : Bool)
  | passComplete (array : ArrayId) (freezeFeed freezeDrain hold : BitVec 32)
  | statWriteRelease (array : ArrayId)
  | arrayError (array : ArrayId) (fault : ArrayFault)
  | xpbLoadRelease (hoop : Hoop) (buffer : Bool) (held : BitVec 32)
  | xpbLoadComplete (hoop : Hoop) (buffer : Bool)
  | vecOpError (hoop : Hoop) (fault : VecFault)
  | scaleTableApply
  | pendingArmEffect (die : Die) (bobbin : BobbinId)
  | bufferSlotFree (die : Die) (bobbin : BobbinId) (arm : ArmRef)
  | releaseReceive (port : Port) (flit : CtlFlit)
  | transferComplete (die : Die) (bobbin : BobbinId) (arm : ArmRef)
  | beatFault (die : Die) (bobbin : BobbinId) (arm : ArmRef) (row : BitVec 24) (beat : BitVec 14) (cause : BeatCause)
  | hostArm (die : Die)
  -- memories
  | hbmReadReturn (stack : Stack) (dpa : BitVec 48) (read : PairRead) (reader : Reader)
  | strReadReturn (shuttle : Shuttle) (dpa : BitVec 48) (read : SlowRead) (reader : Reader)
  | hbmScrub (stack : Stack) (read : PairRead)
  | hbmTempRead (stack : Stack) (reading : Option (BitVec 8))
  | strMr4Read (shuttle : Shuttle) (mr4 : BitVec 64)
  | sramScrub (die : Die) (read : SramRead)
  -- Nirid ports
  | nirTrainGo (port : Port)
  | nirStop (port : Port)
  | trainReceive (port : Port) (lane : Fin 8) (os : OrdSet)
  | trainSignalDetect (port : Port)
  | trainDetectTimeout (port : Port)
  | trainCapsDone (port : Port)
  | trainCapsTimeout (port : Port)
  | trainEqDone (port : Port)
  | trainEqTimeout (port : Port)
  | trainAlignDone (port : Port) (framed : Bool) (skew : BitVec 16)
  | trainAlignTimeout (port : Port)
  | trainDelayDone (port : Port) (delay : BitVec 24)
  | laneLockLoss (port : Port) (lane : Fin 8)
  | deskewLoss (port : Port)
  | fecErrorLimit (port : Port) (lane : Option (Fin 8))
  | portDownReceive (port : Port) (os : OrdSet)
  | frameTransmit (port : Port) (slot : BitVec 16)
  | frameReceive (port : Port) (frame : RxFrame)
  | slotCheckTimeout (port : Port) (slot : BitVec 16)
  | controlFlitReceive (port : Port) (flit : CtlFlit)
  | faultReceive (port : Port) (os : OrdSet)
  | bridgeFlitReceive (die : Die) (bridge : Fin 3) (fate : ReadFate)
  | bridgeTimeout (die : Die) (bridge : Fin 3)
  -- power and thermal
  | powerSample (reading : PowerReading)
  | slowLoop
  | opChangeComplete (array : ArrayId)
  | droopTrip (array : ArrayId)
  | droopRecovery (array : ArrayId)
  | regulatorCurrentLimit (hoop : Hoop)
  | hoopTempRead (t : Vector (BitVec 8) 4)
  | hoopThermalStep (hoop : Hoop)
  | shuttleTempRead (t : Vector (BitVec 8) 2)
  | controlWatchdog (die : Die)
  -- interrupts and counters
  | irqLineFiltered (die : Die) (source : BitVec 8) (level : Bool)
  | irqAck (die : Die) (core : Fin 4) (source : BitVec 8)
  | irqDone (die : Die) (core : Fin 4) (source : BitVec 8)
  | pmuSetClear (die : Die) (set : Fin 17)
  | pmuWindowEnd (die : Die) (set : Fin 17)
  | pmuCounterWrap (die : Die) (set : Fin 17)
  | pmuSampleSelect (hoop : Hoop) (index : BitVec 12)
  | pmuSampleTailWrite (hoop : Hoop) (index : BitVec 12)
  -- management: sensors, I3C, MCTP, PLDM
  | sensorRefresh
  | enec (direct : Bool) (events : BitVec 8)
  | disec (direct : Bool) (events : BitVec 8)
  | rstdaa
  | entdaa (address : BitVec 7)
  | setdasa (address : BitVec 7)
  | setnewda (address : BitVec 7)
  | setmwl (len : BitVec 16)
  | setmrl (len : BitVec 16) (ibiLen : BitVec 8)
  | getmwl
  | getmrl
  | getpid
  | getbcr
  | getdcr
  | getstatus
  | rstact (action : BitVec 8)
  | setEndpointId (pcie : Bool) (op : BitVec 2) (eid : BitVec 8)
  | getEndpointId (pcie : Bool)
  | getMctpVersionSupport (pcie : Bool) (msgType : BitVec 8)
  | getMessageTypeSupport (pcie : Bool)
  | getVendorDefinedMessageSupport (pcie : Bool) (selector : BitVec 8)
  | getTid (pcie : Bool)
  | setTid (pcie : Bool) (tid : BitVec 8)
  | getPldmVersion (pcie : Bool) (type : BitVec 8)
  | getPldmTypes (pcie : Bool)
  | getPldmCommands (pcie : Bool) (type : BitVec 8)
  | getPdrRepositoryInfo (pcie : Bool)
  | getPdr (pcie : Bool) (handle : BitVec 32) (offset : BitVec 32) (count : BitVec 16)
  | getSensorReading (pcie : Bool) (sensor : BitVec 16) (rearm : Bool)
  | getStateSensorReadings (pcie : Bool) (sensor : BitVec 16)
  | getNumericEffecterValue (pcie : Bool) (effecter : BitVec 16)
  | setNumericEffecterValue (pcie : Bool) (effecter : BitVec 16) (value : BitVec 16)
  | setEventReceiver (pcie : Bool) (enable : BitVec 8) (eid : BitVec 8)
  | eventMessageSupported (pcie : Bool)
  | eventMessageBufferSize (pcie : Bool) (size : BitVec 16)
  | pollForPlatformEventMessage (pcie : Bool) (ack : BitVec 16)
  -- SPDM and extensions
  | getVersion (pcie : Bool) (eid : BitVec 8)
  | getCapabilities (pcie : Bool) (eid : BitVec 8) (body : List Byte)
  | negotiateAlgorithms (pcie : Bool) (eid : BitVec 8) (offers : Bool) (body : List Byte)
  | getDigests (pcie : Bool) (eid : BitVec 8)
  | getCertificate (pcie : Bool) (eid : BitVec 8) (slot : BitVec 8) (offset : BitVec 16) (len : BitVec 16)
  | challenge (pcie : Bool) (eid : BitVec 8) (slot : BitVec 8) (body : List Byte)
  | getMeasurements (pcie : Bool) (eid : BitVec 8) (op : BitVec 8) (sign : Bool) (body : List Byte)
  | extBegin (pcie : Bool) (slot : BitVec 8)
  | extData (pcie : Bool) (offset : BitVec 32) (bytes : List Byte)
  | extEnd (pcie : Bool)
  | extStatus (pcie : Bool)
  | extSequenceTimeout
  -- test port
  | bypass
  | idcode
  | samplePreload (cells : List Bool)
  | extest
  | clamp
  | highz
  | debugUnlockToken (token : List Byte)
  | debugPrivateInstruction (code : BitVec 8)
  -- completions added by the table
  | admissionComplete (timeUs : BitVec 17) (media : Option (BitVec 40))
  | unitSlotComplete (die : Die) (work : UnitEnd)
  | pcieLinkChange (gen : BitVec 3) (width : BitVec 5)
  | startUpBoundExpiry (hbm : Bool) (detail : BitVec 8)
deriving DecidableEq, Repr

end Sys2Proof
end

