-- ==== Sys2Proof/Decode.lean ====
section
/-! DEFINITION. The command that a word spells by the table's bits. No row of spec/opcode_table.json gives bits: the
device takes no instruction words, so every word is refused. -/

namespace Sys2Proof

/-- No row of the table has bits, so no word spells a command.
Readings: log entry 45, DEDUCED. -/
def decodeTableWord (_nbits _w : Nat) : Option Instr := none

end Sys2Proof
end

