-- ==== Sys2Proof/Config.lean ====
section
/-! DEFINITION. What the spec leaves open, as constants without a body: nothing in Lean can evaluate them, so a claim
holds whatever they are. Each is named in the assumption log. -/

namespace Sys2Proof

/-- The n-th free value the device draws (log entry 1, DESIGN CHOICE). -/
opaque Config.free : Nat → Nat

/-- Does index `idx` of the work of a descriptor lie beyond the actual length of its micro-batch (R93)? The spec says
that such work is skipped, but no descriptor says which of its rows or columns belong to which token (log entry 12, DESIGN CHOICE). -/
opaque Config.beyond : (desc : List Byte) → (len maxLen idx : Nat) → Bool

/-- Pure ML-DSA-65 verification of FIPS 204: public key, message, context string, signature (R396, R397, R412; log
entry 30). -/
opaque Config.mldsaVerify : (key msg ctx sig : List Byte) → Bool

/-- The public key of ML-DSA.KeyGen_internal from its seed ξ (R402; log entry 30, DESIGN CHOICE). -/
opaque Config.mldsaPublic : (seed : List Byte) → List Byte

/-- The signature of the key that a seed gives over a message with a context string; `n` tells apart the signatures made (R402,
R404; log entry 30, DESIGN CHOICE). -/
opaque Config.mldsaSign : (seed : List Byte) → (n : Nat) → (msg ctx : List Byte) → List Byte

/-- The public key and the subject's serialNumber that a DER certificate holds (R403; log entry 30, DESIGN CHOICE). -/
opaque Config.certKey : (cert : List Byte) → List Byte

/-- The check digest over the values of the OTP, whose algorithm the spec does not name (R401; log entry 30, DESIGN CHOICE). -/
opaque Config.otpCheck : (values : List Byte) → List Byte

/-- Celholt's root public keys and the debug public key, as the ROM holds them (R396, R412; log entry 30, DESIGN CHOICE). -/
opaque Config.rootKey : Nat → List Byte
opaque Config.debugKey : List Byte

/-- SHAKE256 of the ROM (R392, R413; log entry 30, DESIGN CHOICE). -/
opaque Config.romDigest : List Byte

/-- Numbers that other bodies give: Celholt's MIPI manufacturer ID and JEP106 code, its PCI vendor ID, and the MIPI code of an
MCTP endpoint (R407, R408, R412; log entry 33, PRESUMED). -/
opaque Config.mipiId : Nat
opaque Config.jep106 : Nat
opaque Config.vendorId : Nat
opaque Config.mctpDcr : Byte

/-- The platform descriptor record of a handle, 1 to 23 (R409; log entry 33, PRESUMED). -/
opaque Config.pdr : Nat → List Byte

end Sys2Proof
end

