-- ==== Sys2Proof/Machine/Float.lean ====
section
/-! DEFINITION. Number formats, rounding and FP32 arithmetic of "Number Formats and Arithmetic"
(R136 to R138, R144, R146, R148, R150 to R156): every value is decoded to an exact dyadic number, computed exactly,
and rounded once. -/

namespace Sys2Proof.Machine

/-! ### Formats (R136) -/

/-- The float formats of R136 as numbers: exponent bias, mantissa bits, code of the largest finite magnitude, sign bit
position, and whether the format has infinities. -/
structure Fmt where
  bias : Nat
  mb : Nat
  maxFin : Nat
  sbit : Nat
  inf : Bool
  nan : Nat
deriving DecidableEq, Repr

def fmtE4M3 : Fmt := ⟨7, 3, 0x7E, 7, false, 0x7F⟩
def fmtE5M2 : Fmt := ⟨15, 2, 0x7B, 7, true, 0x7F⟩
def fmtE2M1 : Fmt := ⟨1, 1, 7, 3, false, 0⟩
def fmtBF16 : Fmt := ⟨127, 7, 0x7F7F, 15, true, 0x7FC0⟩
def fmtFP16 : Fmt := ⟨15, 10, 0x7BFF, 15, true, 0x7E00⟩
def fmtFP32 : Fmt := ⟨127, 23, 0x7F7FFFFF, 31, true, 0x7FC00000⟩

/-- A decoded operand: NaN, an infinity, or the exact number (−1)^neg · m · 2^e. Every NaN code is the same NaN (R137). -/
inductive FVal where
  | nan
  | inf (neg : Bool)
  | fin (neg : Bool) (m : Nat) (e : Int)
deriving DecidableEq, Repr

/-- The value of a code (R136, R137). -/
def fdec (f : Fmt) (x : Nat) : FVal :=
  let neg := x >>> f.sbit % 2 == 1
  let mag := x % 2 ^ f.sbit
  if mag > f.maxFin then
    if f.inf && mag == f.maxFin + 1 then .inf neg else .nan
  else
    let ex := mag >>> f.mb
    let fr := mag % 2 ^ f.mb
    if ex = 0 then .fin neg fr (1 - (f.bias : Int) - f.mb)
    else .fin neg (2 ^ f.mb + fr) ((ex : Int) - f.bias - f.mb)

def fsign (f : Fmt) (neg : Bool) : Nat := if neg then 2 ^ f.sbit else 0

def finf (f : Fmt) (neg : Bool) : Nat := fsign f neg + f.maxFin + 1

/-- The exponent of the rounding quantum of a non-zero magnitude m · 2^e. -/
def fquantum (f : Fmt) (m : Nat) (e : Int) : Int :=
  let top := (Nat.log2 m : Int) + e
  (if top < 1 - (f.bias : Int) then 1 - (f.bias : Int) else top) - f.mb

/-- Magnitude code whose quantum is `q` and whose significand is `r` (a carry out of `r` raises the exponent). -/
def fcode (f : Fmt) (q : Int) (r : Nat) : Nat := ((q + f.mb + f.bias - 1).toNat <<< f.mb) + r

/-- m · 2^e as a multiple of 2^q, rounded down, with the remainder and its scale. -/
def ftrunc (m : Nat) (e q : Int) : Nat × Nat × Nat :=
  if q ≤ e then (m <<< (e - q).toNat, 0, 1)
  else
    let sh := (q - e).toNat
    (m >>> sh, m % 2 ^ sh, 2 ^ sh)

/-- Round to nearest, ties to even, of the truncated quotient r with remainder rem out of den. -/
def rne (r rem den : Nat) : Nat :=
  if 2 * rem > den || (2 * rem == den && r % 2 == 1) then r + 1 else r

/-- What a magnitude beyond the largest finite becomes: infinity where the format has one and does not saturate,
the largest finite otherwise (R144, R151). E5M2 saturates finite values although it has an infinity. -/
def foverflow (f : Fmt) : Nat :=
  if f.sbit > 7 then f.maxFin + 1 else f.maxFin

/-- (−1)^neg · m · 2^e rounded to the format, to nearest, ties to even (R144, R146, R151). -/
def fround (f : Fmt) (neg : Bool) (m : Nat) (e : Int) : Nat :=
  if m = 0 then fsign f neg else
  let q := fquantum f m e
  let (r, rem, den) := ftrunc m e q
  let c := fcode f q (rne r rem den)
  fsign f neg + (if c > f.maxFin then foverflow f else c)

/-- Stochastic rounding with the generator word w (R152). -/
def froundSR (f : Fmt) (w : Nat) (neg : Bool) (m : Nat) (e : Int) : Nat :=
  if m = 0 then fsign f neg else
  let q := fquantum f m e
  let (r, rem, den) := ftrunc m e q
  let lo := fcode f q r
  if lo ≥ f.maxFin then fsign f neg + f.maxFin else
  let frac := rem * 2 ^ 32 / den
  fsign f neg + (if frac + w ≥ 2 ^ 32 then lo + 1 else lo)

/-- A decoded value rounded to a format, NaN canonical; an infinity entering a format without one becomes its NaN
(R138, R151). -/
def fenc (f : Fmt) : FVal → Nat
  | .nan => f.nan
  | .inf neg => if f.inf then finf f neg else f.nan
  | .fin neg m e => fround f neg m e

/-! ### Exact dyadic arithmetic -/

/-- m · 2^e with a signed significand. -/
def sgn (neg : Bool) (m : Nat) : Int := if neg then -(m : Int) else m

/-- The exact sum of two finite values; the zero-sum sign is + unless both addends are negative (round to nearest). -/
def faddV : FVal → FVal → FVal
  | .nan, _ => .nan
  | _, .nan => .nan
  | .inf a, .inf b => if a == b then .inf a else .nan
  | .inf a, _ => .inf a
  | _, .inf b => .inf b
  | .fin sa ma ea, .fin sb mb eb =>
    let e := if ea ≤ eb then ea else eb
    let x := sgn sa (ma <<< (ea - e).toNat) + sgn sb (mb <<< (eb - e).toNat)
    if x = 0 then .fin (sa && sb) 0 0 else .fin (decide (x < 0)) x.natAbs e

def fmulV : FVal → FVal → FVal
  | .nan, _ => .nan
  | _, .nan => .nan
  | .inf a, .inf b => .inf (a != b)
  | .inf a, .fin b m _ => if m = 0 then .nan else .inf (a != b)
  | .fin a m _, .inf b => if m = 0 then .nan else .inf (a != b)
  | .fin sa ma ea, .fin sb mb eb => .fin (sa != sb) (ma * mb) (ea + eb)

def fnegV : FVal → FVal
  | .nan => .nan
  | .inf a => .inf (!a)
  | .fin s m e => .fin (!s) m e

def fabsV : FVal → FVal
  | .nan => .nan
  | .inf _ => .inf false
  | .fin _ m e => .fin false m e

/-- a ≤ b on magnitudes of finite values. -/
def fleMag (ma : Nat) (ea : Int) (mb : Nat) (eb : Int) : Bool :=
  let e := if ea ≤ eb then ea else eb
  decide (ma <<< (ea - e).toNat ≤ mb <<< (eb - e).toNat)

/-! ### The arithmetic environment: native, or Viltum T2 emulation (R156) -/

/-- Is the format's magnitude code below its smallest normal? -/
def isSubnormal (f : Fmt) (x : Nat) : Bool := x % 2 ^ f.sbit < 2 ^ f.mb

/-- Flush a subnormal code to zero of its sign (R156). -/
def flush (f : Fmt) (x : Nat) : Nat := if isSubnormal f x then x - x % 2 ^ f.sbit else x

/-- NaN code under the mode in force (R138, R156). -/
def nanOf (t2 : Bool) (f : Fmt) : Nat :=
  if t2 then (if f.sbit = 7 then 0x7F else 2 ^ f.sbit - 1) else f.nan

/-- An operand as the unit takes it: FP8 inputs keep their subnormals in either mode (R137, R156). -/
def fin32 (t2 : Bool) (x : Nat) : FVal := fdec fmtFP32 (if t2 then flush fmtFP32 x else x)

/-- A result as the unit writes it. -/
def fout (t2 : Bool) (f : Fmt) : FVal → Nat
  | .nan => nanOf t2 f
  | v => let c := fenc f v
         if t2 && f.sbit > 7 then flush f c else c

/-- RN(a + b) (R146). -/
def fadd (t2 : Bool) (a b : Nat) : Nat := fout t2 fmtFP32 (faddV (fin32 t2 a) (fin32 t2 b))
def fsub (t2 : Bool) (a b : Nat) : Nat := fout t2 fmtFP32 (faddV (fin32 t2 a) (fnegV (fin32 t2 b)))
def fmul (t2 : Bool) (a b : Nat) : Nat := fout t2 fmtFP32 (fmulV (fin32 t2 a) (fin32 t2 b))
/-- Fused multiply-add, rounded once (R148). -/
def ffma (t2 : Bool) (a b c : Nat) : Nat :=
  fout t2 fmtFP32 (faddV (fmulV (fin32 t2 a) (fin32 t2 b)) (fin32 t2 c))

def fneg (x : Nat) : Nat := if x ≥ 2 ^ 31 then x - 2 ^ 31 else x + 2 ^ 31

def fisNaN (x : Nat) : Bool := x % 2 ^ 31 > 0x7F800000
def fisFinite (x : Nat) : Bool := x % 2 ^ 31 < 0x7F800000

/-- Total order key of a non-NaN FP32 pattern: −0 and +0 compare equal. -/
def fkey (x : Nat) : Int := if x ≥ 2 ^ 31 then -((x - 2 ^ 31 : Nat) : Int) else x

/-- a < b on FP32 patterns, false with a NaN. -/
def flt (a b : Nat) : Bool := !fisNaN a && !fisNaN b && decide (fkey a < fkey b)

/-- MAX of R191: NaN if either is, +0 for +0 and −0, else the larger. -/
def fmax (t2 : Bool) (a b : Nat) : Nat :=
  let a := if t2 then flush fmtFP32 a else a
  let b := if t2 then flush fmtFP32 b else b
  if fisNaN a || fisNaN b then nanOf t2 fmtFP32
  else if fkey a = 0 && fkey b = 0 then (if a = 0 || b = 0 then 0 else a)
  else if fkey a < fkey b then b else a

/-! ### Row reductions (R150) -/

/-- One level of the binary tree: neighbours combined, an odd last value passed up. -/
def treeLevel (f : Nat → Nat → Nat) : List Nat → List Nat
  | [] => []
  | [x] => [x]
  | x :: y :: r => f x y :: treeLevel f r

def treeFold (f : Nat → Nat → Nat) : Nat → List Nat → List Nat
  | 0, l => l
  | n + 1, l => match l with
    | [] => []
    | [x] => [x]
    | l => treeFold f n (treeLevel f l)

/-- The tree value of a row; +0 for an empty row. -/
def treeReduce (f : Nat → Nat → Nat) (l : List Nat) : Nat := ((treeFold f 64 l).head?).getD 0

/-! ### Philox-4×32-10 (R153, R154) -/

def philoxRounds : Nat → Nat × Nat × Nat × Nat → Nat → Nat → Nat × Nat × Nat × Nat
  | 0, x, _, _ => x
  | n + 1, (x0, x1, x2, x3), k0, k1 =>
    let a := 0xD2511F53 * x0
    let b := 0xCD9E8D57 * x2
    philoxRounds n
      (Nat.xor (Nat.xor (b / 2 ^ 32) x1) k0, b % 2 ^ 32, Nat.xor (Nat.xor (a / 2 ^ 32) x3) k1, a % 2 ^ 32)
      ((k0 + 0x9E3779B9) % 2 ^ 32) ((k1 + 0xBB67AE85) % 2 ^ 32)

def philox (c0 c1 c2 c3 k0 k1 : Nat) : Nat × Nat × Nat × Nat := philoxRounds 10 (c0, c1, c2, c3) k0 k1

def philoxPick (o : Nat × Nat × Nat × Nat) (i : Nat) : Nat :=
  if i % 4 = 0 then o.1 else if i % 4 = 1 then o.2.1 else if i % 4 = 2 then o.2.2.1 else o.2.2.2

/-- The stochastic-rounding word of element e of a tensor (R154, purpose 0x00). -/
def srWord (seed tensorId step e : Nat) : Nat :=
  philoxPick (philox (e / 4 % 2 ^ 32) (e / 2 ^ 34 % 2 ^ 16) (tensorId % 2 ^ 32) (step % 2 ^ 32)
    (seed % 2 ^ 32) (seed / 2 ^ 32 % 2 ^ 32)) e

/-- The drop-out word of element e (R199, purpose 0x01). -/
def dropWord (seed layer step mbIdx e : Nat) : Nat :=
  philoxPick (philox (e / 4 % 2 ^ 32) (mbIdx % 2 ^ 11 + 0x01000000) (layer % 2 ^ 32) (step % 2 ^ 32)
    (seed % 2 ^ 32) (seed / 2 ^ 32 % 2 ^ 32)) e

/-! ### Integer square root and correctly rounded division and roots -/

/-- Newton iteration from above for the integer square root. -/
def isqrtLoop (n : Nat) : Nat → Nat → Nat
  | 0, x => x
  | k + 1, x =>
    let y := (x + n / x) / 2
    if y < x then isqrtLoop n k y else x

def isqrt (n : Nat) : Nat := if n = 0 then 0 else isqrtLoop n 2200 (2 ^ (Nat.log2 n / 2 + 1))

/-- A positive ratio as a significand with sticky bit: (num / den) · 2^e, good to 80 bits. -/
def ratioV (neg : Bool) (num den : Nat) (e : Int) : FVal :=
  if num = 0 then .fin neg 0 0 else
  let sh := Nat.log2 den + 80
  let a := num <<< sh
  .fin neg (2 * (a / den) + (if a % den = 0 then 0 else 1)) (e - sh - 1)

def fdivV : FVal → FVal → FVal
  | .nan, _ => .nan
  | _, .nan => .nan
  | .inf _, .inf _ => .nan
  | .inf a, .fin b _ _ => .inf (a != b)
  | .fin a _ _, .inf b => .fin (a != b) 0 0
  | .fin sa ma ea, .fin sb mb eb =>
    if mb = 0 then (if ma = 0 then .nan else .inf (sa != sb))
    else ratioV (sa != sb) ma mb (ea - eb)

def fsqrtV : FVal → FVal
  | .nan => .nan
  | .inf neg => if neg then .nan else .inf false
  | .fin neg m e =>
    if m = 0 then .fin neg 0 0 else if neg then .nan else
    let e' := if e % 2 = 0 then e else e - 1
    let m' := (if e % 2 = 0 then m else 2 * m) <<< 160
    let r := isqrt m'
    .fin false (2 * r + (if r * r = m' then 0 else 1)) (e' / 2 - 80 - 1)

def fdiv (t2 : Bool) (a b : Nat) : Nat := fout t2 fmtFP32 (fdivV (fin32 t2 a) (fin32 t2 b))
def fsqrt (t2 : Bool) (a : Nat) : Nat := fout t2 fmtFP32 (fsqrtV (fin32 t2 a))

end Sys2Proof.Machine
end

