-- ==== Sys2Proof/Machine/Crypto.lean ====
section
/-! DEFINITION. SHAKE256 with 256 and with 384 bits of output (FIPS 202, named by the scope's table of standards) and little-endian
byte strings (R11). Digests of images, save headers, extensions, ROM and gradient trailers use it (R80, R341). -/

namespace Sys2Proof.Machine

/-- The n low bytes of a number, least significant first (R11). -/
def leBytes : Nat → Nat → List Byte
  | 0, _ => []
  | n + 1, v => BitVec.ofNat 8 v :: leBytes n (v / 256)

/-- The number that little-endian bytes spell (R11). -/
def leNat : List Byte → Nat
  | [] => 0
  | b :: r => b.toNat + 256 * leNat r

/-- Bytes [off, off + n) of a string, zero beyond its end, as a number. -/
def leAt (bs : List Byte) (off n : Nat) : Nat := leNat ((bs.drop off).take n)

/-- Bits [hi:lo] of a number (R10). -/
def bits (x hi lo : Nat) : Nat := x / 2 ^ lo % 2 ^ (hi + 1 - lo)

def bit (x n : Nat) : Bool := x / 2 ^ n % 2 == 1

/-! ### The sponge of SHAKE256: 1600 bits as 25 lanes, lane (x, y) at place 5y + x -/

abbrev Lane64 := BitVec 64

/-- A walk over the lanes other than (0, 0): the lane held is turned by the next triangular number and laid down at the walk's
next place, whose lane is held in turn. It turns every lane and moves it to its new place. -/
structure Walk where
  lanes : List Lane64
  held : Lane64
  x : Nat
  y : Nat

def Walk.next (w : Walk) (t : Nat) : Walk :=
  let q := 5 * ((2 * w.x + 3 * w.y) % 5) + w.y
  { lanes := w.lanes.set q (w.held.rotateLeft ((t + 1) * (t + 2) / 2)), held := w.lanes.getD q 0
    x := w.y, y := (2 * w.x + 3 * w.y) % 5 }

def spread (st : List Lane64) : List Lane64 :=
  ((List.range 24).foldl Walk.next ⟨st, st.getD 1 0, 1, 0⟩).lanes

/-- Cut into rows of five. -/
def fives (st : List Lane64) : List (List Lane64) := (List.range 5).map fun y => (st.drop (5 * y)).take 5

/-- A row turned so that it starts with its n-th lane. -/
def turn (n : Nat) (r : List Lane64) : List Lane64 := r.drop n ++ r.take n

/-- Every lane takes the parity of the column before it and, moved up by one bit, that of the column after it. -/
def mixColumns (st : List Lane64) : List Lane64 :=
  let rows := fives st
  let par := rows.foldl (List.zipWith (· ^^^ ·)) (List.replicate 5 0)
  let by_ := List.zipWith (· ^^^ ·) (turn 4 par) ((turn 1 par).map (·.rotateLeft 1))
  rows.flatMap (List.zipWith (· ^^^ ·) by_)

/-- Every lane takes the bits of the lane after the next where those of the next are clear, row by row. -/
def mixRows (st : List Lane64) : List Lane64 :=
  (fives st).flatMap fun r => List.zipWith (· ^^^ ·) r (List.zipWith (fun a b => ~~~a &&& b) (turn 1 r) (turn 2 r))

/-- The bit register behind the constants of the rounds, with feedback x⁸ + x⁶ + x⁵ + x⁴ + 1. -/
def feedback (r : Nat) : Nat := if r < 128 then 2 * r else Nat.xor (2 * r) 0x171

/-- The constant of a round, whose bits 0, 1, 3, 7, 15, 31 and 63 come from the register one after another; and the register
after it. -/
def roundConst (r : Nat) : Nat × Nat :=
  (List.range 7).foldl (fun a j => (if a.2 % 2 = 1 then a.1 + 2 ^ (2 ^ j - 1) else a.1, feedback a.2)) (0, r)

def spongeRound (a : List Lane64 × Nat) : List Lane64 × Nat :=
  let c := roundConst a.2
  let st := mixRows (spread (mixColumns a.1))
  (st.set 0 (st.getD 0 0 ^^^ BitVec.ofNat 64 c.1), c.2)

/-- The 24 rounds of the permutation. -/
def permute (st : List Lane64) : List Lane64 := ((List.range 24).foldl (fun a _ => spongeRound a) (st, 1)).1

/-- Take in n blocks of 136 bytes. -/
def takeIn : Nat → List Byte → List Lane64 → List Lane64
  | 0, _, st => st
  | n + 1, bs, st =>
    takeIn n (bs.drop 136) (permute (st.zipIdx.map fun x => if x.2 < 17 then x.1 ^^^ BitVec.ofNat 64 (leAt bs (8 * x.2) 8) else x.1))

/-- The message with what ends it: bits 1111 and 1, zeros, and a last 1 that closes a block of 136 bytes. -/
def ended (bs : List Byte) : List Byte :=
  let room := 135 - bs.length % 136
  if room = 0 then bs ++ [0x9F#8] else bs ++ 0x1F#8 :: (List.replicate (room - 1) 0#8 ++ [0x80#8])

/-- The first n bytes, at most one block, that SHAKE256 gives for a message. -/
def shakeOut (n : Nat) (bs : List Byte) : List Byte :=
  let m := ended bs
  ((takeIn (m.length / 136) m (List.replicate 25 0)).flatMap fun l => leBytes 8 l.toNat).take n

/-- SHAKE256, 256 bits of output, as 32 bytes. -/
def shake256 (bs : List Byte) : List Byte := shakeOut 32 bs

/-- SHAKE256, 384 bits of output, as 48 bytes (R404). -/
def shake384 (bs : List Byte) : List Byte := shakeOut 48 bs

end Sys2Proof.Machine
end

