-- ==== Sys2Proof/Machine/Matrix.lean ====
section
/-! DEFINITION. The arithmetic of a matrix pass: operand decoding, exact accumulation with its flags, the fixed-order
16-bit sum, the drain and the final rounding (R112 to R116, R139 to R147, R156, R170, R172). -/

namespace Sys2Proof.Machine

/-- Operand format codes of R117. -/
def fmtOf (code : Nat) : Option Fmt :=
  if code = 1 then some fmtE4M3 else if code = 2 then some fmtE5M2 else if code = 4 then some fmtE2M1
  else if code = 5 then some fmtBF16 else if code = 6 then some fmtFP16 else none

/-- Value of an operand code, INT8 (code 3) as an integer. Emulation flushes BF16 and FP16 subnormals (R156). -/
def opVal (t2 : Bool) (code x : Nat) : FVal :=
  if code = 3 then (if x ≥ 128 then .fin true (256 - x) 0 else .fin false x 0)
  else match fmtOf code with
    | some f => fdec f (if t2 && f.sbit > 7 then flush f x else x)
    | none => .nan

/-- The valid format pairs of R112 and R115. -/
def pairValid (s m : Nat) : Bool :=
  ((s = 1 || s = 2) && (m = 1 || m = 2)) || (s = m && 3 ≤ s && s ≤ 6)

/-- Is the pair summed exactly (R139, R140)? -/
def pairExact (s : Nat) : Bool := decide (s ≤ 4)

def kMax (s : Nat) : Nat := if s = 4 then 1024 else if s ≤ 3 then 512 else 256
def nMax (s : Nat) : Nat := if s ≤ 4 then 320 else 160

/-- Bytes of a stationary tile image and of a streamed vector (R116). -/
def tileBytes (s : Nat) : Nat := if s = 4 then 174080 else if s ≤ 3 then 163840 else 81920
def vecBytes (m : Nat) : Nat := if m = 4 then 544 else 512

/-- Element i of a packed operand string of a format. -/
def opCode (fmt : Nat) (bs : List Byte) (i : Nat) : Nat :=
  if fmt = 4 then
    let b := (bs.getD (i / 2) 0#8).toNat
    if i % 2 = 0 then b % 16 else b / 16
  else if fmt ≤ 3 then (bs.getD i 0#8).toNat
  else leAt bs (2 * i) 2

/-- The first n element codes of a packed string. -/
def opCodes (fmt n : Nat) (bs : List Byte) : List Nat :=
  if fmt = 4 then (bs.flatMap fun b => [b.toNat % 16, b.toNat / 16]).take n
  else if fmt ≤ 3 then (bs.take n).map BitVec.toNat
  else (List.range n).map fun i => leAt bs (2 * i) 2

/-! ### Exact accumulation (R139 to R143) -/

/-- One drain-row value: exact sum in units of 2^−46 with its four flags, the FP32 initial value β, and the FP32
running value of the 16-bit pairs and of T2 emulation (R131, R141, R143, R146, R156). -/
structure DVal where
  s : Int := 0
  nan : Bool := false
  pinf : Bool := false
  ninf : Bool := false
  rng : Bool := false
  beta : Nat := 0
  f : Nat := 0
deriving DecidableEq, Repr

/-- The flags of a product that sets one, or the product itself on the 2^−46 grid (R139, R143). -/
def accProduct (a : DVal) (x y : FVal) : DVal :=
  match fmulV x y with
  | .nan => { a with nan := true }
  | .inf neg => if neg then { a with ninf := true } else { a with pinf := true }
  | .fin neg m e => { a with s := a.s + sgn neg (m <<< (e + 46).toNat) }

/-- Rounding of an integer right shift, ties to even (R140). -/
def shiftRNE (x : Int) (sh : Nat) : Int :=
  let q := x >>> sh
  let r := x - q <<< sh
  let h : Int := 2 ^ sh
  if 2 * r > h || (2 * r = h && q % 2 = 1) then q + 1 else q

/-- One FP4 block: sum B in units of 0.25 and the two scale codes (R140). -/
def accBlock (a : DVal) (b : Int) (sS sM : Nat) : DVal :=
  if sS = 255 || sM = 255 then { a with nan := true } else
  let c : Int := (sS : Int) - 127 + (sM - 127)
  if c > 17 then { a with rng := true }
  else if c ≥ -44 then { a with s := a.s + b <<< (c + 44).toNat }
  else { a with s := a.s + shiftRNE b (-(c + 44)).toNat }

/-- Twice an FP4 value as an integer: the product of two is in units of 0.25. -/
def fp4x2 (code : Nat) : Int :=
  let m : Int := if code % 8 < 4 then code % 8 else if code % 8 = 4 then 4 else if code % 8 = 5 then 6
    else if code % 8 = 6 then 8 else 12
  if code ≥ 8 then -m else m

/-- Sum of products of two integer strings. -/
def dotInt : List Int → List Int → Int
  | x :: xs, y :: ys => x * y + dotInt xs ys
  | _, _ => 0

/-! ### One pass -/

/-- The stationary operand as a pass uses it: per column, the K_LEN codes and (FP4) the block scales. -/
structure Tile where
  cols : List (List Nat)
  scales : List (List Nat)
deriving DecidableEq, Repr

/-- Column codes of a stationary tile image (R116). -/
def tileOf (fmt kLen nLen : Nat) (img : List Byte) : Tile :=
  let nm := nMax fmt
  let rowBytes := if fmt = 4 then 160 else if fmt ≤ 3 then 320 else 320
  let rows := (List.range kLen).map fun k => opCodes fmt nLen ((img.drop (k * rowBytes)).take rowBytes)
  let sc := if fmt = 4 then (List.range (kLen / 32)).map fun b =>
      ((img.drop (163840 + b * nm)).take nLen).map BitVec.toNat else []
  { cols := (List.range nLen).map fun n => rows.map fun r => r.getD n 0
    scales := (List.range nLen).map fun n => sc.map fun r => r.getD n 0 }

/-- Exact contribution of one vector to one column (8-bit pairs). -/
def accColumn (fS fM : Nat) (a : DVal) (col vec : List Nat) : DVal :=
  (col.zip vec).foldl (fun a p => accProduct a (opVal false fS p.1) (opVal false fM p.2)) a

/-- FP4 contribution, block by block. -/
def accColumnFp4 : Nat → DVal → List Nat → List Nat → List Nat → List Nat → DVal
  | 0, a, _, _, _, _ => a
  | n + 1, a, col, vec, sS, sM =>
    accColumnFp4 n
      (accBlock a (dotInt ((col.take 32).map fp4x2) ((vec.take 32).map fp4x2)) (sS.headD 127) (sM.headD 127))
      (col.drop 32) (vec.drop 32) sS.tail sM.tail

/-- The 16-bit sum of R146: pairs within a stitch, then down the rows. -/
def sum16 (t2 : Bool) : Option Nat → List Nat → Nat
  | none, [] => 0
  | some s, [] => s
  | none, [p] => p
  | some s, [p] => fadd t2 s p
  | none, p :: q :: r => sum16 t2 (some (fadd t2 p q)) r
  | some s, p :: q :: r => sum16 t2 (some (fadd t2 s (fadd t2 p q))) r

/-- FP32 products of a 16-bit column and vector. -/
def prods16 (t2 : Bool) (fS fM : Nat) (col vec : List Nat) : List Nat :=
  (col.zip vec).map fun p => fout t2 fmtFP32 (fmulV (opVal t2 fS p.1) (opVal t2 fM p.2))

/-- T2 8-bit pass: exact groups of 8 products, each rounded to FP32 and added to the running sum (R156). -/
def t2Groups (fS fM : Nat) : Nat → Nat → List (Nat × Nat) → Nat
  | 0, run, _ => run
  | n + 1, run, [] => let _ := n; run
  | n + 1, run, l =>
    let g := (l.take 8).foldl (fun a p => faddV a (fmulV (opVal true fS p.1) (opVal true fM p.2))) (.fin false 0 0)
    t2Groups fS fM n (fadd true run (fout true fmtFP32 g)) (l.drop 8)

/-- Exact integer sum of an INT8 column and vector. -/
def intDot (col vec : List Nat) : Int :=
  let i8 (x : Nat) : Int := if x ≥ 128 then (x : Int) - 256 else x
  dotInt (col.map i8) (vec.map i8)

/-- The drain of one column value (R113, R146, R156): `init` starts the row at β (or zero), otherwise it accumulates. -/
def drainVal (t2 init bias : Bool) (beta fS fM : Nat) (old : DVal) (col vec sS sM : List Nat) : DVal :=
  let beta := if bias then beta else 0
  if pairExact fS then
    let base : DVal := if init then { old with s := 0, beta := beta, f := beta } else old
    if t2 then
      { base with
        f := t2Groups fS fM (col.length / 8 + 1) base.f (col.zip vec)
        s := base.s + (if fS = 3 then intDot col vec <<< 46 else 0) }
    else if fS = 4 then accColumnFp4 (col.length / 32) base col vec sS sM
    else accColumn fS fM base col vec
  else if t2 then
    let run := if init then beta else old.f
    { old with beta := beta, f := (prods16 true fS fM col vec).foldl (fadd true) run }
  else
    let ps := prods16 false fS fM col vec
    let p := sum16 false none ps
    let f := if init then (if bias then (if ps.isEmpty then beta else fadd false beta p) else p)
             else (if ps.isEmpty then old.f else fadd false old.f p)
    { old with f := f, beta := beta }

/-! ### Final rounding (R144 to R147, R156, R172) -/

/-- Channel entry of R176 as the pass reads it. -/
structure ChanEntry where
  mul : Nat := 0x3F800000
  ctl : Nat := 0
deriving DecidableEq, Repr

/-- Clamp to b signed bits; true when it clamped. -/
def clampBits (b : Nat) (x : Int) : Int × Bool :=
  if x < -(2 ^ (b - 1) : Int) then (-(2 ^ (b - 1) : Int), true)
  else if x > 2 ^ (b - 1) - 1 then (2 ^ (b - 1) - 1, true) else (x, false)

def int32Code (x : Int) : Nat := (x % 2 ^ 32).toNat

/-- The integer rescale of R172. -/
def rescale (s : Int) (c : ChanEntry) (sat : Nat) : Int × Bool :=
  let mul : Int := if c.mul ≥ 2 ^ 31 then (c.mul : Int) - 2 ^ 32 else c.mul
  let sh := bits c.ctl 5 0
  let zp : Int := let z := bits c.ctl 31 16; if z ≥ 32768 then (z : Int) - 65536 else z
  let p := s * mul
  let q := p >>> sh
  let q := if sh = 0 then q else
    let r := p - q <<< sh
    let half : Int := 2 ^ (sh - 1)
    if r > half then q + 1
    else if r = half then (if bit c.ctl 6 then (if q % 2 = 1 then q + 1 else q) else (if p ≥ 0 then q + 1 else q))
    else q
  clampBits (if sat = 0 then 32 else if sat = 1 then 16 else 8) (q + zp)

/-- σ · S · g + β rounded to FP32 or BF16 in the order of R144. σ is an exact dyadic (NaN for a 0xFF row scale). -/
def finalFloat (t2 : Bool) (exact : Bool) (out : Fmt) (sigma : FVal) (d : DVal) : Nat :=
  if t2 then
    -- one rounding for the scale, then the output conversion (R156)
    let scaled := fout true fmtFP32 (fmulV sigma (fin32 true d.f))
    fout true out (fin32 true scaled)
  else if !exact then fout false out (fin32 false d.f)
  else
    let bv := fdec fmtFP32 d.beta
    if sigma = .nan then out.nan else
    if d.nan || d.rng || (d.pinf && d.ninf) || bv == .nan || (bv == .inf true && d.pinf) || (bv == .inf false && d.ninf)
      then out.nan
    else if d.pinf || bv == .inf false then finf out false
    else if d.ninf || bv == .inf true then finf out true
    else if d.s = 0 then fenc out bv
    else fenc out (match faddV (fmulV sigma (.fin (decide (d.s < 0)) d.s.natAbs (-46))) bv with
      | .fin neg m e => if m = 0 then .fin false 0 0 else .fin neg m e
      | v => v)

end Sys2Proof.Machine
end

