-- ==== Sys2Proof/Machine/State.lean ====
section
/-! DEFINITION. The state of the device as plain data: the register file (values in force, shadows, snapshots and
read latches), the memories, and what each chapter keeps beside its registers. -/

namespace Sys2Proof.Machine

/-- A block window of BAR0 (R61, R62). Arrays are numbered 2h and 2h + 1, stacks 0 to 23, ports 0 to 17. -/
inductive Blk where
  | dev | grid | hst | pwr | sec | mgt
  | prk (die : Nat)
  | arr (a : Nat)
  | vec (h : Nat)
  | xpb (h : Nat)
  | bob (die : Nat)
  | hbm (m : Nat)
  | nir (p : Nat)
  | red (s : Nat)
  | upd (s : Nat)
  | str (s : Nat)
  | irq (die : Nat)
  | pmu (die : Nat)
deriving DecidableEq, Repr

/-- A register field: offset in its block window, lowest bit, width. -/
structure Fld where
  off : Nat
  lo : Nat
  w : Nat
deriving DecidableEq, Repr

/-! ### What leaves the device -/

/-- What the device sends or writes outside itself, newest first in `State.out`. -/
inductive Out where
  | hostWrite (addr : Nat) (bytes : List Byte)
  | msix (vector : Nat)
  | readData (addr : Nat) (value : Nat)
  | ordSet (port : Nat) (bytes : List Byte)
  | frame (port : Nat) (slot : Nat) (flits : List (List Byte)) (check : List Byte)
  | train (port lane : Nat) (bytes : List Byte)
  | ctlFlit (port : Nat) (bytes : List Byte)
  | i3c (bytes : List Byte)
  | ibi (mdb : Nat)
  | mctp (pcie : Bool) (bytes : List Byte)
  | jtag (bits : List Bool)
  | coreWake (die core source : Nat)
  | coreInterrupt (die core source : Nat)
  | hotReset
deriving DecidableEq, Repr

/-! ### Time grid -/

/-- The last valid beacon heard on a port (R36). -/
structure PortBeacon where
  rootId : Nat
  epoch : Nat
  hop : Nat
  at_ : Nat
deriving DecidableEq, Repr

/-- A member's join report kept by the root (R38, R39). -/
structure Member where
  id : Nat
  backupEn : Bool
  path : Nat
deriving DecidableEq, Repr

structure Grid where
  /-- Local time, 48.16 (R29). -/
  time : Nat := 0
  /-- Rate word, and the phase offset on top of it, in parts per 10^9 (R31). -/
  rate : Int := 0
  phase : Int := 0
  /-- Time of the reference (beacons, or GRIDSYNC on a root) at its last measurement, and local time then (R31). -/
  refSeen : Option (Nat × Nat) := none
  /-- Number of the current knot (R45). -/
  knot : Nat := 0
  /-- Local time of the current knot's event (R47). -/
  knotAt : Nat := 0
  /-- Announced time of the next knot and of the knot after it (R47, R52). -/
  next0 : Nat := 0
  next1 : Nat := 0
  /-- Knots run: knot 0 lies in the future until the first knot event of a new root (R33). -/
  running : Bool := false
  /-- Local ticks counted (R67). -/
  ticks : Nat := 0
  /-- Pending interval change: change knot and new interval (R46). -/
  chg : Option (Nat × Nat) := none
  /-- Root: largest need per commit knot (R51). -/
  pend : Table Nat := []
  /-- Root: latest STEP_END of the voids raised (R53). -/
  voidEnd : Option Nat := none
  /-- New root: VOID_STEP until its second knot as root (R39). -/
  takeover : Nat := 0
  /-- VOID_STEP of the beacons heard, in the current interval (R53, R265). -/
  voidSeen : Bool := false
  backupId : Nat := 2 ^ 64 - 1
  members : List Member := []
  beacons : Table PortBeacon := []
  /-- Valid ROOT_PATH figures received per port (R38). -/
  partnerPath : Table Nat := []
  pathSent : Nat := 0
  pathValid : Bool := false
  /-- Consecutive good, bad and holdover beacons (R40). -/
  good : Nat := 0
  bad : Nat := 0
  /-- Local time of GRID_JOIN, of the entry into HOLDOVER (R40). -/
  joinAt : Nat := 0
  holdAt : Nat := 0
  /-- A device that waits for GRIDSYNC before becoming root (R33). -/
  waitSync : Bool := false
  /-- GRIDSYNC measurement: valid edges seen, local time of the last, consecutive misses (R57). -/
  syncEdges : Nat := 0
  syncAt : Nat := 0
  syncMiss : Nat := 0
  /-- A root's beacons have been adopted (R33); the device has been LOCKED since its GRID_JOIN (R34). -/
  adopted : Bool := false
  joined : Bool := false
  /-- No step begins before the next START_STEP issued after the return to LOCKED (R42, R56). -/
  stepHold : Bool := false
  /-- GRID_LEAVE waits for the next knot or tick (R55). -/
  leaving : Bool := false
  /-- Causes raised in the running interval, and VOID-kind causes repeated at each knot (R49, R265). -/
  raised : List Nat := []
  voidCauses : List Nat := []
  /-- Originators of snags and faults handled: FAULT pairs the root acted on (R269), FAULTs forwarded this interval. -/
  faultActed : List (Nat × Nat) := []
  faultFwd : List Nat := []
  /-- Snags with a reserved CAUSE, and later FAULTs of a pair, counted and dropped (R49, R269). -/
  dropped : Nat := 0
deriving DecidableEq, Repr

/-! ### Host interface -/

/-- A completion held for a free CQ place (R323). -/
structure Completion where
  result : Nat
  sqHead : Nat
  cid : Nat
  status : Nat
deriving DecidableEq, Repr

structure Ring where
  vector : Nat
  sqN : Nat
  cqN : Nat
  sqBase : Nat
  cqBase : Nat
  sqHead : Nat := 0
  started : Nat := 0
  cqTail : Nat := 0
  cqHead : Nat := 0
  phase : Bool := true
  stopped : Bool := false
  deferred : List Completion := []
  /-- Times of the sweeps that fetched the entries not started yet, oldest first; and when the command before the next one
  completed, where the ring was at work when it was fetched (R105, R322, R325). -/
  fetched : List Nat := []
  doneAt : Option Nat := none
deriving DecidableEq, Repr

/-- A command in progress: its ring, its opcode, its identity, and the operands it still needs. A silent command has
lost its ring and completes without an entry (R323, R346). -/
structure Cmd where
  ring : Nat
  opcode : Nat
  cid : Nat
  sqHead : Nat
  /-- Local time at which the command started under R105. -/
  startAt : Nat := 0
  silent : Bool := false
  dva : Nat := 0
  haddr : Nat := 0
  len : Nat := 0
  data : List Byte := []
  /-- Device memory that a copy translated before it moved a byte (R333). -/
  runs : List (Nat × Nat) := []
  arg : Nat := 0
deriving DecidableEq, Repr

/-- An accepted START_STEP in the step queue (R331). -/
structure QStep where
  ring : Nat
  cid : Nat
  sqHead : Nat
  silent : Bool := false
  seed : Nat
  step : Nat
  gradMult : Nat
  lrMult : Nat
  bc1 : Nat
  bc2 : Nat
  lens : List Nat
  /-- Local time at which the command started (R105). -/
  startAt : Nat
deriving DecidableEq, Repr

/-- What became of a slot in the running step. -/
structure SlotRec where
  /-- Complete; completed at its start with no access. -/
  done : Bool
  empty : Bool
  /-- Actual start and scheduled start, 48.16, and the knot of the scheduled start (R445, R446). -/
  actual : Nat
  sched : Nat
  knot : Nat
  /-- DETAIL of the sample record (R445). -/
  detail : Nat := 0
  /-- The slot has been dispatched (R107). -/
  disp : Bool := false
deriving DecidableEq, Repr

/-- Digests that a rank meets in a bucket (R293): of its leaf, of X and of Y as received, of the node value it sums. -/
structure RedDigests where
  leaf : List Byte := []
  x : List Byte := []
  y : List Byte := []
  node : List Byte := []
deriving DecidableEq, Repr

/-- The running step (R105). -/
structure Run where
  q : QStep
  first : Nat
  endKnot : Nat
  verdictKnot : Nat
  voided : Bool := false
  hostVoid : Bool := false
  /-- The verdict taken: 0 clean, 1 non-finite, 2 voided, 3 by the host; none before the verdict knot. -/
  verdict : Option Nat := none
  /-- Slots dispatched, keyed by die · 2^17 + index. -/
  slots : Table SlotRec := []
  /-- PHASE 5 withheld by an unclean verdict (R312). -/
  withheld : Bool := false
  /-- Local times of the step's knots so far. -/
  times : List Nat := []
  /-- Reduction: digests met for each bucket, buckets with a failed check, trailer of each bucket that reached FINISH
  (R285, R292, R293). -/
  digests : Table RedDigests := []
  badBucket : List Nat := []
  finished : Table (List Byte) := []
  /-- Shuttles that have kept a record in this step (R298). -/
  keptSeen : List Nat := []
  /-- Slots whose missed deadline has been counted, keyed as `slots` (R107). -/
  missed : List Nat := []
deriving DecidableEq, Repr

/-- A page map entry (R244). -/
structure Page where
  va : Nat
  dpa : Nat
  size : Nat
  readOnly : Bool
deriving DecidableEq, Repr

/-- PREEMPT and RESUME under way (R339, R342). -/
structure Save where
  resume : Bool
  kPrime : Nat
  saves : List Nat
  /-- Knot at which the copy begins, then the local time at which it began. -/
  beganAt : Option Nat := none
deriving DecidableEq, Repr

/-! ### The pricking -/

structure SlotEntry where
  knotOfs : Nat
  action : Nat
  unit : Nat
  startNs : Nat
  mb : Nat
  operand : Nat
  dlNs : Nat
  dlKnots : Nat
  chain : Bool
  raw : List Byte
deriving DecidableEq, Repr

/-- An admission in progress (R97). -/
structure Admitting where
  va : Nat
  size : Nat
  /-- PACE of the command: 0 to 3, or 4 for the effective class (R326). -/
  pace : Nat
  /-- As of the command's start: the guard (R111), VEC_TS_POLICY equal on all Hoops (R176), NIR_DELAY of each port in
  whole ns (R260). -/
  guard : Nat := 0
  policyOk : Bool := true
  delays : List Nat := []
deriving DecidableEq, Repr

/-- The admitted pricking (R78 to R96): the image bytes it was read from, its parsed slot tables, and the pace. -/
structure Pricking where
  image : List Byte
  va : Nat
  pace : Nat
  slots : List (List SlotEntry)
  /-- Per die: absolute start and deadline of each slot at the admitted class, in ns from the step's first knot as
  (knot, offset) pairs (R88). -/
  starts : List (List (Nat × Nat))
  deads : List (List (Nat × Nat))
  stepKnots : Nat
  verdictOfs : Nat
  interval : Nat
  jobId : Nat
  digest : List Byte
  rank : Nat
  rankM1 : Nat
  /-- Per Shuttle: each PRECOND block and its place in the preconditioner region, as admission laid them out (R300). -/
  prec : List (List (Nat × Nat)) := []
deriving DecidableEq, Repr

/-! ### Bobbins and Nirid ports -/

/-- How far an arm has come (R211, R212). -/
inductive ArmPhase where
  | pending | live | ended | stopped
deriving DecidableEq, Repr

/-- One arm of a stream descriptor, from its slot to the end of the step (R204, R210 to R212). Its buffer slots are
`freed` to `freed + LOOKAHEAD`; what consumers have taken out of freed slots stays in `taken`, row by row. -/
structure Arm where
  die : Nat
  bobbin : Nat
  /-- STREAM index; 0x1FFFF for a host arm, told apart by the descriptor's address. -/
  stream : Nat
  hostVa : Nat := 0
  desc : List Byte
  rcv : List Byte := []
  gen : Nat
  /-- Slot index; 0x1FFFF for a host arm. -/
  slot : Nat
  /-- B of R210. -/
  base : Nat := 0
  phase : ArmPhase
  /-- Beats landed, in order. -/
  beats : Nat := 0
  /-- Tiles whose buffer slot has freed. -/
  freed : Nat := 0
  taken : List (List Byte) := []
  /-- Pieces landed by LINK_RECV (LINK_IN), or taken by LINK_SEND slots, per port. -/
  pieces : Table Nat := []
  /-- Slots freed and not yet told to the sender (R219). -/
  owed : Nat := 0
  /-- Local time at which the arm took effect. -/
  actual : Nat := 0
deriving DecidableEq, Repr

/-- Silence watch of one remote receiver of one bobbin (R219): quiet intervals, and what this interval has seen. -/
structure Silence where
  quiet : Nat := 0
  heard : Bool := false
  sent : Bool := false
deriving DecidableEq, Repr

/-- A LINK_SEND or LINK_RECV slot that still has frames to come (R257). -/
structure LinkRun where
  die : Nat
  slot : Nat
  port : Nat
  send : Bool
  stream : Nat
  gen : Nat
  knot : Nat
  first : Nat
  frames : Nat
  /-- Frames gone by, in order; those among them that have neither landed nor been given up (R258). -/
  done : Nat
  bytes : Nat
  actual : Nat
  missing : List Nat := []
deriving DecidableEq, Repr

/-- A control message (R263); reserved messages keep their code. -/
inductive CtlMsg where
  | null
  | release (dest src freed knotLo : Nat)
  | joinReport (identity rootId epoch hop : Nat) (backupEn : Bool) (path : Nat)
  | other (msg : Nat)
deriving DecidableEq, Repr

/-- What a port keeps beside its registers (R262, R264 to R272). -/
structure PortUnit where
  /-- Ordered sets waiting, oldest first. -/
  osq : List (List Byte) := []
  /-- The set received just before, for the repeat rule of R265. -/
  lastOs : List Byte := []
  txq : List CtlMsg := []
  nextSeq : Nat := 1
  unacked : List (Nat × CtlMsg) := []
  /-- Flits to send again, by SEQ. -/
  replay : List (Nat × CtlMsg) := []
  rxSeq : Nat := 0
  nak : Bool := false
  nakSeq : Nat := 0
  nakCount : Nat := 0
  /-- Credits to return. -/
  credit : Nat := 0
  /-- Valid TRAIN with ACK in a row, per lane (R272). -/
  caps : Table Nat := []
  eqTries : Nat := 0
  /-- MAX_VER and PRECODE as the port latched them at GO (R271, R278). -/
  maxVer : Nat := 2
  askPre : Bool := false
  /-- The partner requests precoding; both ends do, and the lanes use it (R252, R271). -/
  precode : Bool := false
  precoded : Bool := false
  /-- LANE_ID that each receive lane hears, plus one; 0 while none is heard (R251, R272). -/
  lanes : Table Nat := []
  /-- The last 8 one-way delays in 1/256 ns (R267). -/
  delays : List Nat := []
  reqSeq : Nat := 0
  req : Option (Nat × Nat) := none
  /-- Local time until which PORT_DOWN fills every place, and the version of the frames (R274). -/
  closing : Option (Nat × Nat) := none
  /-- KNOT and SLOT of the last frame received, and the FEC errors of the last 1 ms, newest first: when they came, the
  uncorrectable codewords and the symbol errors of each lane (R274, R276). -/
  rxAt : Option (Nat × Nat) := none
  fecErrs : List (Nat × Nat × List Nat) := []
  /-- Control flits with a reserved MSG, acknowledged and discarded (R263); those that failed their CRC or left a gap; frames
  with scheduled flits that came outside a step (R276). -/
  badMsg : Nat := 0
  ctlErrs : Nat := 0
  strayFrames : Nat := 0
deriving DecidableEq, Repr

/-- The port as it starts a life of its own anew, with the counts that go on. -/
def PortUnit.anew (u : PortUnit) : PortUnit :=
  { badMsg := u.badMsg, ctlErrs := u.ctlErrs, strayFrames := u.strayFrames }

/-! ### Arrays, vector units, transposing buffers -/

/-- A pass dispatched on an array and not yet complete (R119, R120). -/
structure PassRun where
  slot : Nat
  pass : Nat
  mb : Nat
  chain : Bool
  /-- Cycle 0 has come (a head pass held by a busy array waits for it, R119). -/
  begun : Bool
  /-- Vector 0 has entered and the tile record has been checked (R130). -/
  entered : Bool
  /-- Local time of cycle 0, or of vector 0 for a chained pass (R446). -/
  actual : Nat
  /-- The tile the pass runs on, and the vectors a transposing buffer presented to it. -/
  tile : List Byte := []
  feed : List (List Byte) := []
  /-- The transposing buffer that vectors still come from, and its read pointer after them (R183). -/
  reads : Option (Nat × Nat) := none
deriving DecidableEq, Repr

/-- A stationary buffer: tile image, the STREAM index and step that wrote it, and whether it is whole (R128). -/
structure StatBuf where
  bytes : List Byte
  stream : Nat
  step : Nat
  complete : Bool
deriving DecidableEq, Repr

/-- A stationary-port write held for a busy buffer (R130). -/
structure HeldWrite where
  bobbin : Nat
  slot : Nat
deriving DecidableEq, Repr

structure ArrayUnit where
  passes : List PassRun := []
  /-- The buffer that vectors entering now use is buffer 1; the buffer left behind by a swap marker still inside is not yet
  free (R127 to R130). -/
  act : Bool := true
  leaving : Bool := false
  buf0 : Option StatBuf := none
  buf1 : Option StatBuf := none
  drain : Table (List DVal) := []
  held : List HeldWrite := []
  /-- Operating point a raised voltage settles for (R359), and the droop duty (R364). -/
  opTarget : Option Nat := none
  droop : Nat := 16
deriving DecidableEq, Repr

/-- A half of a transposing buffer: its loaded rows (the rest reads zero), width, reads left, read pointer (R179). -/
structure XpbHalf where
  rows : List (List Byte) := []
  w16 : Bool := false
  uses : Nat := 0
  ptr : Nat := 0
deriving DecidableEq, Repr

/-- A transposing buffer; halves are loaded alternately (R182), and a load may be held for a half still read. -/
structure XpbBuf where
  h0 : XpbHalf := {}
  h1 : XpbHalf := {}
  loadHalf : Bool := false
  /-- The load that is held or running: slot and VXOP index. -/
  load : Option (Nat × Nat) := none
  held : Bool := false
  /-- Local time at which the load was dispatched (R202). -/
  since : Nat := 0
  /-- Loads dispatched behind it. -/
  waiting : List (Nat × Nat) := []
deriving DecidableEq, Repr

/-- The slot that a one-at-a-time unit runs (vector, reduction, update): slot index and start. -/
structure UnitRun where
  slot : Nat
  actual : Nat
deriving DecidableEq, Repr

/-! ### Tensor scale table -/

/-- Statistics of R173. -/
structure ConvStat where
  sse : Nat := 0
  count : Nat := 0
  maxErr : Nat := 0
  nonfin : Nat := 0
deriving DecidableEq, Repr

/-- One entry of the tensor scale table (R162). -/
structure ScaleEntry where
  hist : List Nat := []
  d : Nat := 127
  fmt : Nat := 0
  last : ConvStat := {}
deriving DecidableEq, Repr

/-- A die's collection into an entry in the running step (R164, R173). -/
structure StepStat where
  amax : Nat := 0
  collected : Bool := false
  stat : ConvStat := {}
deriving DecidableEq, Repr

/-- Merged values on their way to all dies (R165). -/
structure ScaleJob where
  clean : Bool
  merged : Table StepStat
deriving DecidableEq, Repr

/-! ### Interrupts and counters -/

/-- The precise sample buffer of a Hoop (R443, R444): records by index, and whether the full buffer has lost or overwritten a
record since it became full. -/
structure Sampler where
  recs : Table (List Byte) := []
  spilled : Bool := false
deriving DecidableEq, Repr

/-! ### Management -/

/-- A queued PLDM sensor event (R411): sensor, offset within a composite sensor, whether it is a state sensor, the
new and the previous state or reading. -/
structure SensorEvent where
  sensor : Nat
  offset : Nat
  isState : Bool
  value : Nat
  previous : Nat
deriving DecidableEq, Repr

/-- The last step that ended, for a void that arrives late (R53, R291). -/
structure EndedRun where
  first : Nat
  endKnot : Nat
  voided : Bool
  step : Nat
deriving DecidableEq, Repr

/-! ### Power, start-up, security, management, test port -/

/-- What the power controller keeps beside its registers (R353 to R370). -/
structure PowerUnit where
  /-- Reads of CLS[2:0] in a row that agree with CLS_RAW (R353). -/
  clsReads : Nat := 0
  /-- Management cap accepted and not yet in effect; a host cap waits in its command (R355). -/
  capMgt : Option Nat := none
  /-- A class slower than the pace class was accepted while a step ran: withdrawn at its end knot (R108, R354). -/
  withdrawAtEnd : Bool := false
  /-- Operating point set by the power loops; per Hoop, the point and the duty its thermal limit allows (R362, R366). -/
  op : Nat := 0
  thermOp : Table Nat := []
  thermDuty : Table Nat := []
  /-- Hoops held at HOOP_THR_C and at HOOP_CRIT_C; reads in a row at 120 °C or above, by die (R366). -/
  hot : List Nat := []
  crit : List Nat := []
  at120 : Table Nat := []
  /-- Arrays whose droop duty a regulator phase limit set (R365). -/
  regLimit : List Nat := []
  /-- Samples in a row with d_p below, and at, the rated duty; with P_meas above P_target, and below P_target less GUARD_W
  (R362). -/
  below : Nat := 0
  equal : Nat := 0
  overAim : Nat := 0
  underAim : Nat := 0
  /-- The last 1,000 samples of P_meas in units of 10 µW, newest first (R348). -/
  samples : List Nat := []
  /-- Length so far of each reason's running episode, in ns; reasons whose running episode has its start event; knot
  interval, plus 1, of each reason's last start event (R370). -/
  episode : Table Nat := []
  logged : List Nat := []
  loggedAt : Table Nat := []
deriving DecidableEq, Repr

/-- The individual part: what manufacture and the OTP give it, and its configuration flash (R395, R401, R403). -/
structure Part where
  serial : Nat := 0
  extRequired : Bool := false
  debugDisable : Bool := false
  rootRevoke : Nat := 0
  minSvn : Nat := 0
  /-- The OTP's device secret, digest of the identity public key, and check digest over its values (R401). -/
  secret : List Byte := []
  keyDigest : List Byte := []
  otpDigest : List Byte := []
  /-- The ROM matches the digest in its last block (R392). -/
  romGood : Bool := true
  /-- Certificate area; extension slots A and B as far as they are programmed (an erased byte reads 0xFF). -/
  certs : List Byte := []
  slotA : List Byte := []
  slotB : List Byte := []
deriving DecidableEq, Repr

def ascii (x : String) : List Byte := x.toList.map fun c => BitVec.ofNat 8 c.toNat

/-- The certificates of the certificate area, each behind its 4-byte length (R403). -/
def certsOf : Nat → List Byte → List (List Byte)
  | 0, _ => []
  | n + 1, l => (l.drop 4).take (leAt l 0 4) :: certsOf n (l.drop (4 + leAt l 0 4))

/-- The seed ξ of the identity key (R402). -/
def Part.seed (p : Part) : List Byte := (shake256 (p.secret ++ ascii "VRM-ID")).take 32

/-- Does the derived identity key match its OTP digest (R402)? -/
def Part.keyGood (p : Part) : Bool := shake256 (Config.mldsaPublic p.seed) == p.keyDigest

/-- The values of the OTP that its check digest covers (R401). -/
def Part.otpValues (p : Part) : List Byte :=
  p.secret ++ p.keyDigest ++ leBytes 7 p.serial
    ++ leBytes 4 ((if p.extRequired then 1 else 0) + (if p.debugDisable then 2 else 0) + p.rootRevoke % 4 * 4) ++ leBytes 1 p.minSvn

/-- Does the OTP match its check digest (R401)? -/
def Part.otpGood (p : Part) : Bool := Config.otpCheck p.otpValues == p.otpDigest

/-- Does the device certificate, the third of the area, hold the derived key (R403)? -/
def Part.certGood (p : Part) : Bool :=
  decide (4 ≤ p.certs.length) && Config.certKey ((certsOf 3 p.certs).getD 2 []) == Config.mldsaPublic p.seed

/-- A part whose OTP holds the digests that belong to its values, as manufacture leaves it (log entry 30, DESIGN CHOICE). -/
def Part.sealed (p : Part) : Part :=
  let p := { p with keyDigest := shake256 (Config.mldsaPublic p.seed) }
  { p with otpDigest := Config.otpCheck p.otpValues }

/-- An SPDM connection: its requester, how far its negotiation has come (1 version, 2 capabilities, 3 algorithms), and its
transcript: of the negotiation, of digests and certificates, and of measurements (R404, R405). -/
structure SpdmConn where
  eid : Nat
  phase : Nat
  nego : List Byte
  certs : List Byte := []
  meas : List Byte := []
deriving DecidableEq, Repr

/-- An open EXT_BEGIN to EXT_END sequence (R400). -/
structure ExtSeq where
  slotB : Bool
  next : Nat
deriving DecidableEq, Repr

/-- What the management block keeps beside its registers (R404 to R411). -/
structure MgtUnit where
  /-- The I3C target answers (R407). -/
  live : Bool := false
  mwl : Nat := 69
  mrl : Nat := 69
  ibiLen : Nat := 69
  /-- Reset action that RSTACT defined last. -/
  rstact : Nat := 0
  tid : Nat := 0
  evtEnable : Nat := 0
  evtEid : Nat := 0
  evtBuffer : Nat := 256
  /-- Identity of the oldest queued event, counted from 1 (R411). -/
  evtId : Nat := 1
  spdm : List SpdmConn := []
  ext : Option ExtSeq := none
  /-- Sensor readings as last refreshed (R410), by sensor; composite offsets of sensor 19 in their order. -/
  readings : Table Nat := []
deriving DecidableEq, Repr

/-- Public instructions of the test port that select a register (R412). -/
inductive JtagIr where
  | bypass | idcode | samplePreload | extest | clamp | highz
deriving DecidableEq, Repr

structure TestPort where
  ir : JtagIr := .idcode
  /-- Boundary cells preloaded; driven onto the pins; outputs floating (R412). -/
  cells : List Bool := []
  driven : Bool := false
  floating : Bool := false
  /-- A valid token waits for PERST# release; challenges returned (R412). -/
  token : Bool := false
  nonce : List Byte := []
deriving DecidableEq, Repr

/-! ### Errors -/

/-- Why a step can stop. No command of the spec's table ends in one of these on ordinary data: every event of the table
has an effect the spec gives (log entry 2, DEDUCED). -/
inductive Fault where
  /-- A byte of device memory outside the device physical address space was asked for. Raised by no command: every
  access is checked against R225 before it is made (safe). -/
  | noSuchAddress (dpa : Nat)
deriving DecidableEq, Repr

inductive Refusal where
  /-- The command has no meaning in this model (safe). -/
  | notModelled (mnemonic : String)
deriving DecidableEq, Repr

/-! ### The whole state -/

structure State where
  /-- Registers in force, shadows of RWK fields, apply snapshots by block base, latched _HI
  values plus 1, 0 for none (R59, R65, R67). -/
  regs : Table Word := []
  shadows : Table Word := []
  snaps : Table (Nat × Table Word) := []
  latch : Table Nat := []
  /-- Device memory by device physical address (R225), and HBM3 pairs and SRAM words that hold an uncorrectable error. -/
  mem : List Host.Cell := []
  badPairs : List Nat := []
  /-- Bad units that a partial write met while the running command works; handled before it ends (R231). -/
  ueHits : List Nat := []
  /-- Page map in force and the pages pinned in every TLB (R244 to R246); TLB entries that failed parity, by die and
  page; forced removals waiting for their knot with the local time of acceptance, pinned pages removed, and restorations
  waiting (R247, R248). -/
  pages : List Page := []
  tlb : List Page := []
  tlbBad : List (Nat × Nat) := []
  removals : List (Nat × Nat) := []
  removed : List Page := []
  restores : List (Page × Nat) := []
  /-- Stacks (0 to 23) and channels (32 and up) whose corrected error has its event in this interval (R230, R241). -/
  ceSeen : List Nat := []
  /-- Readings in a row at or above 105 °C, and reads without a reading, per stack (R237). -/
  hbmHot : Table Nat := []
  hbmMiss : Table Nat := []
  /-- Next pair or word that each scrubber reads: stacks 0 to 23, dies 24 to 29 (R232, R243). -/
  scrubPos : Table Nat := []
  /-- Corrected flits of each bridge end, by 4 · die + bridge (R22). -/
  bridgeCe : Table Nat := []
  /-- Bobbins: every arm of the running step and every host arm, oldest first; silence watch by
  (die · 32 + bobbin) · 2^15 + rank (R219). -/
  arms : List Arm := []
  silent : Table Silence := []
  ports : Table PortUnit := []
  links : List LinkRun := []
  grid : Grid := {}
  /-- Event ring: PHASE of the running pass, and a dropped count still to be written (R74, R425). -/
  evtPhase : Bool := true
  evtOwed : Bool := false
  /-- MSI-X table words, time of the last message per vector, messages held by the rate limit (R323). -/
  msix : Table Word := []
  msixLast : Table Nat := []
  msixHeld : List Nat := []
  rings : Table (Option Ring) := []
  /-- A kick sweep runs (R322). -/
  kickRun : Bool := false
  cmds : List Cmd := []
  queue : List QStep := []
  run : Option Run := none
  save : Option Save := none
  nextStep : Nat := 0
  /-- Mode change waiting for its target knot: MODE, EXPERT, target (R71); the unit that failed to commit it at the
  target, until the revert (R72). -/
  modeReq : Option (Nat × Bool × Nat) := none
  modeRevert : Option (Nat × Nat) := none
  admitting : Option Admitting := none
  img : Option Pricking := none
  /-- JOB_ID and IMAGE_DIGEST that last used the scale table (R167) and that the device was suspended under (R342). -/
  tableOwner : Option (Nat × List Byte) := none
  suspOwner : Option (Nat × List Byte) := none
  /-- The last step that ended; a MEMORY_FAULT snag raised, so that the next knot suspends the device (R343). -/
  lastRun : Option EndedRun := none
  suspendNext : Bool := false
  /-- The FAULT that a device in the fail-safe state sends (R269); FAULT# driven low (R379). -/
  faultOs : List Byte := []
  pinFault : Bool := false
  /-- Queued sensor events, oldest first (R411). -/
  sensorQ : List SensorEvent := []
  arrays : Table ArrayUnit := []
  xpbs : Table XpbBuf := []
  /-- Units that run one slot at a time, keyed 8 · die + k (0 vector, 1 reduction, 2 update). -/
  units : Table (Option UnitRun) := []
  scale : Table ScaleEntry := []
  stepStat : Table StepStat := []
  scaleJob : Option ScaleJob := none
  /-- Interrupt lines driven by the units (die · 256 + source), and the core that holds an active source, plus 1. -/
  lines : List Nat := []
  irqHeld : Table Nat := []
  samplers : Table Sampler := []
  /-- Cycle counters: cycles held back and the cycle count at which counting (re)started, by die · 32 + set; local time
  at which an ns window of a set ends next (R435, R437, R439). -/
  cycAcc : Table Nat := []
  cycFrom : Table Nat := []
  winEnd : Table Nat := []
  /-- EDGE counters whose cycle event stood when local time last moved, by 256 · die + 8 · set + counter (R436). -/
  edges : List Nat := []
  /-- Dies whose BOB_ARM.GO has been written and not yet served (R223). -/
  hostGo : List Nat := []
  /-- The input supplies the module; PERST# and PWRBRAKE# are recognised as asserted (R351, R367, R378). -/
  supplied : Bool := true
  /-- READY is owed since a function-level reset (R345). -/
  readyDue : Bool := false
  perst : Bool := true
  brakePin : Bool := false
  pwr : PowerUnit := {}
  part : Part := {}
  /-- The seed of the identity key, in storage that no bus can read (R402). -/
  idKey : Option (List Byte) := none
  mgt : MgtUnit := {}
  test : TestPort := {}
  /-- The model's own supply of free values (log entry 1, DESIGN CHOICE): the next one to draw. -/
  fresh : Nat := 0
  out : List Out := []
  /-- Commands waiting, first in, first out. -/
  pending : List Instr := []
deriving DecidableEq, Repr

/-- The machine right after reset: every register at its reset value, no memory written, nothing waiting (R76).
Readings: log entry 7, DESIGN CHOICE. -/
def State.reset : State := { part := Part.sealed {} }

end Sys2Proof.Machine
end

