-- ==== Sys2Proof/Machine/Regs.lean ====
section
/-! DEFINITION. The register tables of the spec as data: one field constant per row of each block's table
(offset in the block window, lowest bit, width), and one row per register with the bits software may write at once
(RW), the bits written to a shadow (RWK) and the reset word (R61, R62, R65, R76). -/

namespace Sys2Proof.Machine

/-! ### GRID: R59 -/

def F.GRID_STATUS_LOCK_STATE : Fld := ⟨0x0, 0, 2⟩
def F.GRID_STATUS_IS_ROOT : Fld := ⟨0x0, 2, 1⟩
def F.GRID_STATUS_SYNC_SEEN : Fld := ⟨0x0, 3, 1⟩
def F.GRID_STATUS_FOREIGN : Fld := ⟨0x0, 4, 1⟩
def F.GRID_STATUS_DEPTH_FAIL : Fld := ⟨0x0, 5, 1⟩
def F.GRID_STATUS_HOP_COUNT : Fld := ⟨0x0, 8, 5⟩
def F.GRID_STATUS_BEACON_PORT : Fld := ⟨0x0, 16, 5⟩
def F.GRID_STATUS_EPOCH : Fld := ⟨0x0, 24, 8⟩
def F.GRID_CTRL_ROOT_PRIO : Fld := ⟨0x4, 0, 8⟩
def F.GRID_CTRL_BACKUP_EN : Fld := ⟨0x4, 8, 1⟩
def F.GRID_CTRL_SYNC_EN : Fld := ⟨0x4, 9, 1⟩
def F.GRID_KNOT_INT_INTERVAL : Fld := ⟨0x8, 0, 20⟩
def F.GRID_SNAG_CFG_GUARD : Fld := ⟨0xC, 0, 12⟩
def F.GRID_SNAG_CFG_HORIZON : Fld := ⟨0xC, 16, 4⟩
def F.GRID_SYNC_PERIOD_PERIOD : Fld := ⟨0x10, 0, 30⟩
def F.GRID_TIME_LO_TIME_LO : Fld := ⟨0x20, 0, 32⟩
def F.GRID_TIME_HI_TIME_HI : Fld := ⟨0x24, 0, 32⟩
def F.GRID_KNOT_LO_KNOT_LO : Fld := ⟨0x28, 0, 32⟩
def F.GRID_KNOT_HI_KNOT_HI : Fld := ⟨0x2C, 0, 16⟩
def F.GRID_NEXT_KNOT_LO_NEXT_LO : Fld := ⟨0x30, 0, 32⟩
def F.GRID_NEXT_KNOT_HI_NEXT_HI : Fld := ⟨0x34, 0, 32⟩
def F.GRID_STRETCH_TOTAL_QUANTA : Fld := ⟨0x38, 0, 32⟩
def F.GRID_OFFSET_OFFSET : Fld := ⟨0x3C, 0, 16⟩
def F.GRID_PATH_ROOT_PATH : Fld := ⟨0x40, 0, 20⟩
def F.GRID_MAX_PATH_MAX_PATH : Fld := ⟨0x44, 0, 20⟩
def F.GRID_ROOT_ID_LO_ID_LO : Fld := ⟨0x48, 0, 32⟩
def F.GRID_ROOT_ID_HI_ID_HI : Fld := ⟨0x4C, 0, 32⟩
def F.GRID_SNAG_COUNT_SENT : Fld := ⟨0x50, 0, 16⟩
def F.GRID_SNAG_COUNT_VOIDS : Fld := ⟨0x50, 16, 16⟩
def F.GRID_STRETCH_COUNT_STRETCHES : Fld := ⟨0x54, 0, 32⟩
def F.GRID_HOLDOVER_ELAPSED : Fld := ⟨0x58, 0, 14⟩
def F.GRID_EFF_INT_INTERVAL : Fld := ⟨0x5C, 0, 20⟩

/-! ### CFG: R66 -/

def F.CFG_APPLY_GO : Fld := ⟨0xFF00, 0, 1⟩
def F.CFG_STATUS_PEND : Fld := ⟨0xFF04, 0, 1⟩
def F.CFG_STATUS_DIRTY : Fld := ⟨0xFF04, 1, 1⟩
def F.CFG_REJECT_REJECTED : Fld := ⟨0xFF08, 0, 1⟩
def F.CFG_REJECT_RULE : Fld := ⟨0xFF08, 8, 8⟩
def F.CFG_REJECT_FIRST_OFFSET : Fld := ⟨0xFF08, 16, 16⟩
def F.CFG_APPLIED_KNOT_KNOT_LO : Fld := ⟨0xFF0C, 0, 32⟩

/-! ### DEV: R77 -/

def F.DEV_ID_PART : Fld := ⟨0x0, 0, 16⟩
def F.DEV_REV_STEPPING : Fld := ⟨0x4, 0, 8⟩
def F.DEV_REV_METAL : Fld := ⟨0x4, 8, 8⟩
def F.DEV_VERSIONS_CMDSET_MAJ : Fld := ⟨0x8, 0, 8⟩
def F.DEV_VERSIONS_CMDSET_MIN : Fld := ⟨0x8, 8, 8⟩
def F.DEV_VERSIONS_PRK_FMT : Fld := ⟨0x8, 16, 8⟩
def F.DEV_VERSIONS_NIRID_MAJ : Fld := ⟨0x8, 24, 4⟩
def F.DEV_VERSIONS_NIRID_MIN : Fld := ⟨0x8, 28, 4⟩
def F.DEV_SERIAL_LO_SERIAL_LO : Fld := ⟨0xC, 0, 32⟩
def F.DEV_SERIAL_HI_SERIAL_HI : Fld := ⟨0x10, 0, 24⟩
def F.DEV_STATUS_READY : Fld := ⟨0x20, 0, 1⟩
def F.DEV_STATUS_FATAL : Fld := ⟨0x20, 1, 1⟩
def F.DEV_MODE_REQ_MODE : Fld := ⟨0x30, 0, 4⟩
def F.DEV_MODE_REQ_EXPERT : Fld := ⟨0x30, 4, 1⟩
def F.DEV_MODE_REQ_GO : Fld := ⟨0x30, 31, 1⟩
def F.DEV_MODE_TGT_LO_KNOT_LO : Fld := ⟨0x34, 0, 32⟩
def F.DEV_MODE_TGT_HI_KNOT_HI : Fld := ⟨0x38, 0, 16⟩
def F.DEV_MODE_STATE_CUR_MODE : Fld := ⟨0x3C, 0, 4⟩
def F.DEV_MODE_STATE_CUR_EXPERT : Fld := ⟨0x3C, 4, 1⟩
def F.DEV_MODE_STATE_PEND : Fld := ⟨0x3C, 8, 1⟩
def F.DEV_MODE_STATE_REFUSED : Fld := ⟨0x3C, 9, 1⟩
def F.DEV_MODE_SPLIT_SPLIT : Fld := ⟨0x40, 0, 1⟩
def F.DEV_MODE_SPLIT_DIE : Fld := ⟨0x40, 1, 3⟩
def F.DEV_MODE_SPLIT_BLOCK : Fld := ⟨0x40, 8, 8⟩
def F.DEV_EVT_BASE_LO_BASE_LO : Fld := ⟨0x44, 0, 32⟩
def F.DEV_EVT_SIZE_ENTRIES : Fld := ⟨0x48, 0, 17⟩
def F.DEV_EVT_HEAD_HEAD : Fld := ⟨0x4C, 0, 16⟩
def F.DEV_EVT_TAIL_TAIL : Fld := ⟨0x50, 0, 16⟩
def F.DEV_EVT_STATUS_OVERFLOW : Fld := ⟨0x54, 0, 1⟩
def F.DEV_EVT_STATUS_DROPPED : Fld := ⟨0x54, 16, 16⟩
def F.DEV_EVT_BASE_HI_BASE_HI : Fld := ⟨0x58, 0, 32⟩

/-! ### PRK: R111 -/

def F.PRK_STATUS_ADMITTED : Fld := ⟨0x0, 0, 1⟩
def F.PRK_STATUS_RUNNING : Fld := ⟨0x0, 1, 1⟩
def F.PRK_STATUS_ADMITTING : Fld := ⟨0x0, 2, 1⟩
def F.PRK_STATUS_VOIDED : Fld := ⟨0x0, 3, 1⟩
def F.PRK_STATUS_PACE_CLASS : Fld := ⟨0x0, 8, 2⟩
def F.PRK_SLOT_COUNT_COUNT : Fld := ⟨0x4, 0, 17⟩
def F.PRK_SLOT_NEXT_NEXT : Fld := ⟨0x8, 0, 17⟩
def F.PRK_MISS_MISSES : Fld := ⟨0xC, 0, 16⟩
def F.PRK_STEP_LO_COUNT_LO : Fld := ⟨0x10, 0, 32⟩
def F.PRK_STEP_HI_COUNT_HI : Fld := ⟨0x14, 0, 16⟩
def F.PRK_STEP_KNOT_LO_KNOT_LO : Fld := ⟨0x18, 0, 32⟩
def F.PRK_STEP_KNOT_HI_KNOT_HI : Fld := ⟨0x1C, 0, 16⟩
def F.PRK_STEP_KNOTS_KNOTS : Fld := ⟨0x20, 0, 16⟩
def F.PRK_ADMIT_CFG_GUARD : Fld := ⟨0x100, 0, 12⟩
def F.PRK_REJECT_CODE : Fld := ⟨0x104, 0, 8⟩
def F.PRK_REJECT_DIE : Fld := ⟨0x104, 8, 3⟩
def F.PRK_REJECT_CLASS : Fld := ⟨0x104, 12, 2⟩
def F.PRK_REJECT_SECTION : Fld := ⟨0x104, 16, 4⟩
def F.PRK_REJ_SLOT_SLOT : Fld := ⟨0x108, 0, 17⟩
def F.PRK_REJ_EXCESS_EXCESS : Fld := ⟨0x10C, 0, 32⟩
def F.PRK_PACE_0_IMM : Fld := ⟨0x110, 0, 16⟩
def F.PRK_PACE_0_COLD : Fld := ⟨0x110, 16, 16⟩
def F.PRK_PACE_1_AIR : Fld := ⟨0x114, 0, 16⟩
def F.PRK_PACE_1_UNKN : Fld := ⟨0x114, 16, 16⟩
def F.PRK_ADMIT_TIME_TIME_US : Fld := ⟨0x118, 0, 17⟩
def F.PRK_DIGEST_DIGEST (n : Nat) : Fld := ⟨0x120 + 0x4 * n, 0, 32⟩

/-! ### ARR: R135 -/

def F.ARR_STATUS_BUSY : Fld := ⟨0x0, 0, 1⟩
def F.ARR_STATUS_HOLD : Fld := ⟨0x0, 1, 1⟩
def F.ARR_STATUS_EMPTY : Fld := ⟨0x0, 2, 1⟩
def F.ARR_STATUS_ACT_BUF : Fld := ⟨0x0, 3, 1⟩
def F.ARR_STATUS_OP : Fld := ⟨0x0, 8, 4⟩
def F.ARR_STATUS_DUTY : Fld := ⟨0x0, 16, 5⟩
def F.ARR_CTRL_FREEZE_LIMIT : Fld := ⟨0x4, 0, 16⟩
def F.ARR_CUR_SLOT_SLOT : Fld := ⟨0x8, 0, 17⟩
def F.ARR_CUR_SLOT_VALID : Fld := ⟨0x8, 31, 1⟩
def F.ARR_PASS_DONE_COUNT : Fld := ⟨0xC, 0, 32⟩
def F.ARR_FRZ_FEED_CYCLES : Fld := ⟨0x10, 0, 32⟩
def F.ARR_FRZ_DRAIN_CYCLES : Fld := ⟨0x14, 0, 32⟩
def F.ARR_FRZ_HOLD_CYCLES : Fld := ⟨0x18, 0, 32⟩
def F.ARR_SAT_COUNT : Fld := ⟨0x1C, 0, 32⟩
def F.ARR_ECC_CORRECTED : Fld := ⟨0x20, 0, 32⟩
def F.ARR_ERR_CODE : Fld := ⟨0x24, 0, 4⟩
def F.ARR_ERR_SLOT : Fld := ⟨0x24, 8, 17⟩
def F.ARR_ERR_KNOT_LO_KNOT_LO : Fld := ⟨0x28, 0, 32⟩
def F.ARR_ERR_KNOT_HI_KNOT_HI : Fld := ⟨0x2C, 0, 16⟩

/-! ### VEC: R176, R203 -/

def F.VEC_SCL_STATUS_RECALC : Fld := ⟨0x0, 0, 1⟩
def F.VEC_TS_POLICY_HIST_DEPTH : Fld := ⟨0x4, 0, 5⟩
def F.VEC_TS_POLICY_MARGIN : Fld := ⟨0x4, 8, 4⟩
def F.VEC_TS_POLICY_INIT_EXP : Fld := ⟨0x4, 16, 8⟩
def F.VEC_TS_SEL_IDX : Fld := ⟨0x8, 0, 11⟩
def F.VEC_TS_SEL_ITEM : Fld := ⟨0x8, 16, 5⟩
def F.VEC_TS_DATA_DATA : Fld := ⟨0xC, 0, 32⟩
def F.VEC_CVT_SAT_COUNT : Fld := ⟨0x10, 0, 32⟩
def F.VEC_CVT_NONFIN_COUNT : Fld := ⟨0x14, 0, 32⟩
def F.VEC_OP_STATUS_BUSY : Fld := ⟨0x100, 0, 1⟩
def F.VEC_OP_STATUS_EMPTY : Fld := ⟨0x100, 1, 1⟩
def F.VEC_OP_STATUS_OPCODE : Fld := ⟨0x100, 8, 8⟩
def F.VEC_OP_SLOT_SLOT : Fld := ⟨0x104, 0, 17⟩
def F.VEC_OP_SLOT_VALID : Fld := ⟨0x104, 31, 1⟩
def F.VEC_DRV_NONFIN_COUNT : Fld := ⟨0x108, 0, 32⟩
def F.VEC_DROP_ZEROED_COUNT : Fld := ⟨0x10C, 0, 32⟩
def F.VEC_SEED_LO_SEED_LO : Fld := ⟨0x110, 0, 32⟩
def F.VEC_SEED_HI_SEED_HI : Fld := ⟨0x114, 0, 32⟩
def F.VEC_STEP_NUM_STEP : Fld := ⟨0x118, 0, 32⟩
def F.VEC_OP_ERR_CODE : Fld := ⟨0x11C, 0, 4⟩
def F.VEC_OP_ERR_SLOT : Fld := ⟨0x11C, 8, 17⟩
def F.VEC_CHS_MUL_MUL (n : Nat) : Fld := ⟨0x4000 + 0x8 * n, 0, 32⟩
def F.VEC_CHS_CTL_SHIFT (n : Nat) : Fld := ⟨0x4004 + 0x8 * n, 0, 6⟩
def F.VEC_CHS_CTL_RND (n : Nat) : Fld := ⟨0x4004 + 0x8 * n, 6, 1⟩
def F.VEC_CHS_CTL_KIND (n : Nat) : Fld := ⟨0x4004 + 0x8 * n, 7, 1⟩
def F.VEC_CHS_CTL_ZP (n : Nat) : Fld := ⟨0x4004 + 0x8 * n, 16, 16⟩

/-! ### XPB: R202 -/

def F.XPB_STATUS_HALF0 (b : Nat) : Fld := ⟨0x0 + 0x40 * b, 0, 2⟩
def F.XPB_STATUS_HALF1 (b : Nat) : Fld := ⟨0x0 + 0x40 * b, 2, 2⟩
def F.XPB_STATUS_NEXT (b : Nat) : Fld := ⟨0x0 + 0x40 * b, 4, 1⟩
def F.XPB_STATUS_W16_0 (b : Nat) : Fld := ⟨0x0 + 0x40 * b, 5, 1⟩
def F.XPB_STATUS_W16_1 (b : Nat) : Fld := ⟨0x0 + 0x40 * b, 6, 1⟩
def F.XPB_STATUS_PTR (b : Nat) : Fld := ⟨0x0 + 0x40 * b, 8, 10⟩
def F.XPB_STATUS_USES_LEFT (b : Nat) : Fld := ⟨0x0 + 0x40 * b, 24, 8⟩
def F.XPB_LOADS_COUNT (b : Nat) : Fld := ⟨0x4 + 0x40 * b, 0, 32⟩
def F.XPB_STORES_COUNT (b : Nat) : Fld := ⟨0x8 + 0x40 * b, 0, 32⟩
def F.XPB_VECTORS_COUNT (b : Nat) : Fld := ⟨0xC + 0x40 * b, 0, 32⟩
def F.XPB_HOLD_CYCLES (b : Nat) : Fld := ⟨0x10 + 0x40 * b, 0, 32⟩
def F.XPB_ERR_CODE (b : Nat) : Fld := ⟨0x14 + 0x40 * b, 0, 4⟩
def F.XPB_ERR_SLOT (b : Nat) : Fld := ⟨0x14 + 0x40 * b, 8, 17⟩

/-! ### BOB: R224 -/

def F.BOB_STATUS_LIVE (n : Nat) : Fld := ⟨0x0 + 0x40 * n, 0, 3⟩
def F.BOB_STATUS_PEND (n : Nat) : Fld := ⟨0x0 + 0x40 * n, 3, 1⟩
def F.BOB_STATUS_EMPTY (n : Nat) : Fld := ⟨0x0 + 0x40 * n, 4, 1⟩
def F.BOB_STATUS_FAULT (n : Nat) : Fld := ⟨0x0 + 0x40 * n, 5, 1⟩
def F.BOB_STATUS_LAST_GEN (n : Nat) : Fld := ⟨0x0 + 0x40 * n, 8, 8⟩
def F.BOB_TTE_TTE (n : Nat) : Fld := ⟨0x4 + 0x40 * n, 0, 24⟩
def F.BOB_ARMS_COUNT (n : Nat) : Fld := ⟨0x8 + 0x40 * n, 0, 32⟩
def F.BOB_REARMS_REARMS (n : Nat) : Fld := ⟨0xC + 0x40 * n, 0, 16⟩
def F.BOB_REARMS_REFUSED (n : Nat) : Fld := ⟨0xC + 0x40 * n, 16, 16⟩
def F.BOB_BEATS_LO_BEATS_LO (n : Nat) : Fld := ⟨0x10 + 0x40 * n, 0, 32⟩
def F.BOB_BEATS_HI_BEATS_HI (n : Nat) : Fld := ⟨0x14 + 0x40 * n, 0, 16⟩
def F.BOB_ERR_CODE (n : Nat) : Fld := ⟨0x18 + 0x40 * n, 0, 4⟩
def F.BOB_ERR_SLOT (n : Nat) : Fld := ⟨0x18 + 0x40 * n, 8, 17⟩
def F.BOB_REARM_PEND_PEND : Fld := ⟨0x800, 0, 32⟩
def F.BOB_FAULT_VALID : Fld := ⟨0x804, 0, 1⟩
def F.BOB_FAULT_CAUSE : Fld := ⟨0x804, 1, 2⟩
def F.BOB_FAULT_BOBBIN : Fld := ⟨0x804, 8, 5⟩
def F.BOB_FAULT_VA_LO_VA_LO : Fld := ⟨0x808, 0, 32⟩
def F.BOB_FAULT_VA_HI_VA_HI : Fld := ⟨0x80C, 0, 16⟩
def F.BOB_FAULT_POS_ROW : Fld := ⟨0x810, 0, 24⟩
def F.BOB_FAULT_STREAM_STREAM : Fld := ⟨0x814, 0, 17⟩
def F.BOB_FAULT_STREAM_BEAT : Fld := ⟨0x814, 18, 14⟩
def F.BOB_SILENT_RANK : Fld := ⟨0x818, 0, 15⟩
def F.BOB_SILENT_BOBBIN : Fld := ⟨0x818, 16, 5⟩
def F.BOB_SILENT_VALID : Fld := ⟨0x818, 31, 1⟩
def F.BOB_ARM_VA_LO_VA_LO : Fld := ⟨0x820, 0, 32⟩
def F.BOB_ARM_VA_HI_VA_HI : Fld := ⟨0x824, 0, 16⟩
def F.BOB_ARM_BOBBIN : Fld := ⟨0x828, 0, 5⟩
def F.BOB_ARM_GO : Fld := ⟨0x828, 31, 1⟩
def F.BOB_ARM_STATUS_BUSY : Fld := ⟨0x82C, 0, 1⟩
def F.BOB_ARM_STATUS_DONE : Fld := ⟨0x82C, 1, 1⟩
def F.BOB_ARM_STATUS_REFUSED : Fld := ⟨0x82C, 2, 1⟩
def F.BOB_ARM_STATUS_ABORTED : Fld := ⟨0x82C, 3, 1⟩
def F.BOB_ARM_STATUS_REASON : Fld := ⟨0x82C, 8, 4⟩

/-! ### HBM: R249 -/

def F.HBM_STATUS_TRAINED : Fld := ⟨0x0, 0, 1⟩
def F.HBM_STATUS_INIT_DONE : Fld := ⟨0x0, 1, 1⟩
def F.HBM_STATUS_LEVEL : Fld := ⟨0x0, 2, 2⟩
def F.HBM_STATUS_NO_TEMP : Fld := ⟨0x0, 4, 1⟩
def F.HBM_STATUS_TEMP : Fld := ⟨0x0, 8, 8⟩
def F.HBM_THERM_CFG_LIGHT_C : Fld := ⟨0x4, 0, 8⟩
def F.HBM_THERM_CFG_HEAVY_C : Fld := ⟨0x4, 8, 8⟩
def F.HBM_THERM_CFG_HYST_C : Fld := ⟨0x4, 16, 4⟩
def F.HBM_THR_DUTY_LIGHT : Fld := ⟨0x8, 0, 4⟩
def F.HBM_THR_DUTY_HEAVY : Fld := ⟨0x8, 8, 4⟩
def F.HBM_CE_RS_COUNT : Fld := ⟨0xC, 0, 32⟩
def F.HBM_CE_DIE_COUNT : Fld := ⟨0x10, 0, 32⟩
def F.HBM_UE_COUNT_COUNT : Fld := ⟨0x14, 0, 16⟩
def F.HBM_UE_ADDR_LO_ADDR_LO : Fld := ⟨0x18, 0, 32⟩
def F.HBM_UE_ADDR_HI_ADDR_HI : Fld := ⟨0x1C, 0, 16⟩
def F.HBM_UE_INFO_VALID : Fld := ⟨0x20, 0, 1⟩
def F.HBM_UE_INFO_SOURCE : Fld := ⟨0x20, 1, 2⟩
def F.HBM_UE_INFO_VOIDED : Fld := ⟨0x20, 3, 1⟩
def F.HBM_UE_INFO_FATAL : Fld := ⟨0x20, 4, 1⟩
def F.HBM_UE_INFO_PC : Fld := ⟨0x20, 8, 5⟩
def F.HBM_UE_KNOT_LO_KNOT_LO : Fld := ⟨0x24, 0, 32⟩
def F.HBM_UE_KNOT_HI_KNOT_HI : Fld := ⟨0x28, 0, 16⟩
def F.HBM_THR_CYCLES_CYCLES : Fld := ⟨0x2C, 0, 32⟩
def F.HBM_SCRUB_PASSES : Fld := ⟨0x30, 0, 16⟩

/-! ### STR: R250 -/

def F.STR_STATUS_TRAINED : Fld := ⟨0x0, 0, 1⟩
def F.STR_STATUS_REFRESH : Fld := ⟨0x0, 1, 1⟩
def F.STR_STATUS_MR4_MAX : Fld := ⟨0x0, 8, 8⟩
def F.STR_CE_LINK_COUNT : Fld := ⟨0x4, 0, 32⟩
def F.STR_UE_COUNT_COUNT : Fld := ⟨0x8, 0, 16⟩
def F.STR_UE_ADDR_LO_ADDR_LO : Fld := ⟨0xC, 0, 32⟩
def F.STR_UE_ADDR_HI_ADDR_HI : Fld := ⟨0x10, 0, 16⟩
def F.STR_UE_INFO_VALID : Fld := ⟨0x14, 0, 1⟩
def F.STR_UE_INFO_READER : Fld := ⟨0x14, 1, 2⟩
def F.STR_UE_INFO_VOIDED : Fld := ⟨0x14, 3, 1⟩
def F.STR_UE_INFO_FATAL : Fld := ⟨0x14, 4, 1⟩
def F.STR_UE_INFO_CHANNEL : Fld := ⟨0x14, 8, 5⟩
def F.STR_UE_KNOT_LO_KNOT_LO : Fld := ⟨0x18, 0, 32⟩
def F.STR_UE_KNOT_HI_KNOT_HI : Fld := ⟨0x1C, 0, 16⟩

/-! ### NIR: R278 -/

def F.NIR_STATUS_STATE : Fld := ⟨0x0, 0, 4⟩
def F.NIR_STATUS_VER : Fld := ⟨0x0, 4, 2⟩
def F.NIR_STATUS_FALLBACK : Fld := ⟨0x0, 6, 1⟩
def F.NIR_STATUS_PEER_FAULT : Fld := ⟨0x0, 7, 1⟩
def F.NIR_STATUS_PEER_SWITCH : Fld := ⟨0x0, 8, 1⟩
def F.NIR_STATUS_FOREIGN : Fld := ⟨0x0, 9, 1⟩
def F.NIR_STATUS_LANE_LOCK : Fld := ⟨0x0, 16, 8⟩
def F.NIR_STATUS_REVERSED : Fld := ⟨0x0, 24, 1⟩
def F.NIR_CTRL_ENABLE : Fld := ⟨0x4, 0, 1⟩
def F.NIR_CTRL_PRECODE : Fld := ⟨0x4, 1, 1⟩
def F.NIR_CTRL_MAX_VER : Fld := ⟨0x4, 4, 2⟩
def F.NIR_CTRL_UE_LIMIT : Fld := ⟨0x4, 8, 8⟩
def F.NIR_CTRL_SER_LIMIT : Fld := ⟨0x4, 16, 8⟩
def F.NIR_TRAIN_GO : Fld := ⟨0x8, 0, 1⟩
def F.NIR_TRAIN_STOP : Fld := ⟨0x8, 1, 1⟩
def F.NIR_DOWN_REASON : Fld := ⟨0xC, 0, 4⟩
def F.NIR_DOWN_LANE : Fld := ⟨0xC, 8, 3⟩
def F.NIR_DOWN_COUNT : Fld := ⟨0xC, 16, 16⟩
def F.NIR_DELAY_DELAY : Fld := ⟨0x10, 0, 24⟩
def F.NIR_SKEW_SKEW : Fld := ⟨0x14, 0, 16⟩
def F.NIR_PEER_LO_ID_LO : Fld := ⟨0x18, 0, 32⟩
def F.NIR_PEER_HI_ID_HI : Fld := ⟨0x1C, 0, 32⟩
def F.NIR_PEER_INFO_MAX_VER : Fld := ⟨0x20, 0, 8⟩
def F.NIR_PEER_INFO_FWD_SLOTS : Fld := ⟨0x20, 8, 8⟩
def F.NIR_FEC_CORR_COUNT : Fld := ⟨0x24, 0, 32⟩
def F.NIR_FEC_UE_COUNT : Fld := ⟨0x28, 0, 32⟩
def F.NIR_OS_DROP_COUNT : Fld := ⟨0x2C, 0, 32⟩
def F.NIR_CTL_CREDITS : Fld := ⟨0x30, 0, 8⟩
def F.NIR_CTL_REPLAYS : Fld := ⟨0x30, 16, 16⟩
def F.NIR_SCHED_TX_COUNT : Fld := ⟨0x34, 0, 32⟩
def F.NIR_SCHED_RX_COUNT : Fld := ⟨0x38, 0, 32⟩
def F.NIR_SLOT_ERR_CODE : Fld := ⟨0x3C, 0, 4⟩
def F.NIR_SLOT_ERR_SLOT : Fld := ⟨0x3C, 8, 16⟩
def F.NIR_SLOT_ERR_KNOT_LO_KNOT_LO : Fld := ⟨0x40, 0, 32⟩
def F.NIR_SLOT_ERR_KNOT_HI_KNOT_HI : Fld := ⟨0x44, 0, 16⟩
def F.NIR_SYM_ERR_COUNT (l : Nat) : Fld := ⟨0x60 + 0x4 * l, 0, 32⟩

/-! ### RED: R296 -/

def F.RED_STATUS_BUSY : Fld := ⟨0x0, 0, 1⟩
def F.RED_STATUS_EMPTY : Fld := ⟨0x0, 1, 1⟩
def F.RED_STATUS_STAGE : Fld := ⟨0x0, 2, 2⟩
def F.RED_STATUS_BUCKET : Fld := ⟨0x0, 8, 12⟩
def F.RED_TREE_LEVEL : Fld := ⟨0x4, 0, 5⟩
def F.RED_TREE_ROOT : Fld := ⟨0x4, 8, 1⟩
def F.RED_TREE_DOWN_SRC : Fld := ⟨0x4, 16, 15⟩
def F.RED_TREE_DOWN_VALID : Fld := ⟨0x4, 31, 1⟩
def F.RED_TREE_UP_LEAF_DEST : Fld := ⟨0x8, 0, 15⟩
def F.RED_TREE_UP_LEAF_LOCAL : Fld := ⟨0x8, 15, 1⟩
def F.RED_TREE_UP_NODE_DEST : Fld := ⟨0x8, 16, 15⟩
def F.RED_TREE_UP_NODE_VALID : Fld := ⟨0x8, 31, 1⟩
def F.RED_VERDICT_VALID : Fld := ⟨0xC, 0, 1⟩
def F.RED_VERDICT_CLEAN : Fld := ⟨0xC, 1, 1⟩
def F.RED_VERDICT_VOIDED : Fld := ⟨0xC, 2, 1⟩
def F.RED_VERDICT_NONFIN : Fld := ⟨0xC, 3, 1⟩
def F.RED_VERDICT_NF_BUCKETS : Fld := ⟨0xC, 16, 13⟩
def F.RED_VERDICT_KNOT_LO_KNOT_LO : Fld := ⟨0x10, 0, 32⟩
def F.RED_VERDICT_KNOT_HI_KNOT_HI : Fld := ⟨0x14, 0, 16⟩
def F.RED_VERDICT_STEP_STEP : Fld := ⟨0x18, 0, 32⟩
def F.RED_NF_BUCKET_BUCKET : Fld := ⟨0x1C, 0, 12⟩
def F.RED_NF_BUCKET_LEVEL : Fld := ⟨0x1C, 16, 8⟩
def F.RED_NF_BUCKET_VALID : Fld := ⟨0x1C, 31, 1⟩
def F.RED_NF_RANK_RANK : Fld := ⟨0x20, 0, 15⟩
def F.RED_NF_ELEM_ELEM : Fld := ⟨0x24, 0, 27⟩
def F.RED_STAGES_COUNT : Fld := ⟨0x28, 0, 32⟩
def F.RED_DIGEST_FAIL_COUNT : Fld := ⟨0x2C, 0, 16⟩
def F.RED_ERR_CODE : Fld := ⟨0x30, 0, 4⟩
def F.RED_ERR_SLOT : Fld := ⟨0x30, 8, 17⟩
def F.RED_RING_CTRL_EN : Fld := ⟨0x34, 0, 1⟩
def F.RED_RING_BASE_LO_BASE_LO : Fld := ⟨0x38, 0, 32⟩
def F.RED_RING_BASE_HI_BASE_HI : Fld := ⟨0x3C, 0, 16⟩
def F.RED_RING_POS_LAST : Fld := ⟨0x40, 0, 6⟩

/-! ### UPD: R319 -/

def F.UPD_STATUS_BUSY : Fld := ⟨0x0, 0, 1⟩
def F.UPD_STATUS_EMPTY : Fld := ⟨0x0, 1, 1⟩
def F.UPD_STATUS_KIND : Fld := ⟨0x0, 2, 2⟩
def F.UPD_STATUS_BLOCK : Fld := ⟨0x0, 16, 16⟩
def F.UPD_RECORD_RECORD : Fld := ⟨0x4, 0, 24⟩
def F.UPD_RECORDS_DONE_COUNT : Fld := ⟨0x8, 0, 32⟩
def F.UPD_KEPT_COUNT : Fld := ⟨0xC, 0, 32⟩
def F.UPD_KEPT_INFO_BLOCK : Fld := ⟨0x10, 0, 16⟩
def F.UPD_KEPT_INFO_CAUSE : Fld := ⟨0x10, 16, 3⟩
def F.UPD_KEPT_INFO_VALID : Fld := ⟨0x10, 31, 1⟩
def F.UPD_KEPT_REC_RECORD : Fld := ⟨0x14, 0, 24⟩
def F.UPD_PREC_FAIL_COUNT : Fld := ⟨0x18, 0, 16⟩
def F.UPD_PREC_FAIL_BLOCK : Fld := ⟨0x18, 16, 16⟩
def F.UPD_PREC_STEP_STEP : Fld := ⟨0x1C, 0, 32⟩
def F.UPD_GRAD_MULT_VALUE : Fld := ⟨0x20, 0, 32⟩
def F.UPD_LR_MULT_VALUE : Fld := ⟨0x24, 0, 32⟩
def F.UPD_BC1_VALUE : Fld := ⟨0x28, 0, 32⟩
def F.UPD_BC2_VALUE : Fld := ⟨0x2C, 0, 32⟩
def F.UPD_PUSH_BYTES_LO_BYTES_LO : Fld := ⟨0x30, 0, 32⟩
def F.UPD_PUSH_BYTES_HI_BYTES_HI : Fld := ⟨0x34, 0, 16⟩
def F.UPD_ERR_CODE : Fld := ⟨0x38, 0, 4⟩
def F.UPD_ERR_SLOT : Fld := ⟨0x38, 8, 17⟩
def F.UPD_PREC_BYTES_BYTES : Fld := ⟨0x3C, 0, 26⟩

/-! ### HST: R346 -/

def F.HST_STATUS_GEN : Fld := ⟨0x0, 0, 3⟩
def F.HST_STATUS_WIDTH : Fld := ⟨0x0, 4, 5⟩
def F.HST_STATUS_FLIT : Fld := ⟨0x0, 9, 1⟩
def F.HST_STATUS_SUSPENDED : Fld := ⟨0x0, 10, 1⟩
def F.HST_STATUS_SUSP_CAUSE : Fld := ⟨0x0, 11, 2⟩
def F.HST_STATUS_PREEMPT : Fld := ⟨0x0, 13, 2⟩
def F.HST_STATUS_QUEUED : Fld := ⟨0x0, 16, 3⟩
def F.HST_STATUS_RUNNING : Fld := ⟨0x0, 19, 1⟩
def F.HST_CTRL_RING0_EN : Fld := ⟨0x4, 0, 1⟩
def F.HST_CTRL_KICK_EN : Fld := ⟨0x4, 1, 1⟩
def F.HST_DB_BASE_LO_BASE_LO : Fld := ⟨0x8, 0, 32⟩
def F.HST_DB_BASE_HI_BASE_HI : Fld := ⟨0xC, 0, 32⟩
def F.HST_SQ0_BASE_LO_BASE_LO : Fld := ⟨0x10, 0, 32⟩
def F.HST_SQ0_BASE_HI_BASE_HI : Fld := ⟨0x14, 0, 32⟩
def F.HST_CQ0_BASE_LO_BASE_LO : Fld := ⟨0x18, 0, 32⟩
def F.HST_CQ0_BASE_HI_BASE_HI : Fld := ⟨0x1C, 0, 32⟩
def F.HST_RING0_SIZE_SQ_ENTRIES : Fld := ⟨0x20, 0, 13⟩
def F.HST_RING0_SIZE_CQ_ENTRIES : Fld := ⟨0x20, 16, 13⟩
def F.HST_RINGS_LO_EXISTS : Fld := ⟨0x24, 0, 32⟩
def F.HST_RINGS_HI_EXISTS : Fld := ⟨0x28, 0, 32⟩
def F.HST_SWEEPS_COUNT : Fld := ⟨0x2C, 0, 32⟩
def F.HST_KICKS_COUNT : Fld := ⟨0x30, 0, 32⟩
def F.HST_PREEMPT_KNOT_LO_KNOT_LO : Fld := ⟨0x34, 0, 32⟩
def F.HST_PREEMPT_KNOT_HI_KNOT_HI : Fld := ⟨0x38, 0, 16⟩
def F.HST_SAVE_NS_NS : Fld := ⟨0x3C, 0, 32⟩
def F.HST_HOST_ERR_CODE : Fld := ⟨0x40, 0, 4⟩
def F.HST_HOST_ERR_RING : Fld := ⟨0x40, 8, 6⟩
def F.HST_HOST_ERR_VALID : Fld := ⟨0x40, 31, 1⟩
def F.HST_CMDS_COUNT : Fld := ⟨0x44, 0, 32⟩

/-! ### PWR: R371 -/

def F.PWR_STATUS_CLASS : Fld := ⟨0x0, 0, 3⟩
def F.PWR_STATUS_CLS_RAW : Fld := ⟨0x0, 4, 3⟩
def F.PWR_STATUS_CLS_PEND : Fld := ⟨0x0, 7, 1⟩
def F.PWR_STATUS_EFF_CLASS : Fld := ⟨0x0, 8, 2⟩
def F.PWR_STATUS_BRAKE : Fld := ⟨0x0, 10, 1⟩
def F.PWR_STATUS_VIN_LOW : Fld := ⟨0x0, 11, 1⟩
def F.PWR_STATUS_RATED_OP : Fld := ⟨0x0, 16, 4⟩
def F.PWR_STATUS_RATED_DUTY : Fld := ⟨0x0, 20, 5⟩
def F.PWR_CAP_IN_FORCE : Fld := ⟨0x4, 0, 12⟩
def F.PWR_CAP_SOURCE : Fld := ⟨0x4, 12, 3⟩
def F.PWR_CAP_HOST_CAP : Fld := ⟨0x8, 0, 12⟩
def F.PWR_CAP_MGT_CAP : Fld := ⟨0xC, 0, 12⟩
def F.PWR_CTRL_CFG_GUARD_W : Fld := ⟨0x10, 0, 8⟩
def F.PWR_CTRL_CFG_THR_STEP : Fld := ⟨0x10, 8, 4⟩
def F.PWR_CTRL_CFG_ARR_GATE : Fld := ⟨0x10, 12, 1⟩
def F.PWR_BRAKE_CFG_BRAKE_W : Fld := ⟨0x14, 0, 12⟩
def F.PWR_THERM_CFG_HOOP_THR_C : Fld := ⟨0x18, 0, 8⟩
def F.PWR_THERM_CFG_HOOP_CRIT_C : Fld := ⟨0x18, 8, 8⟩
def F.PWR_THERM_CFG_HYST_C : Fld := ⟨0x18, 16, 4⟩
def F.PWR_ELEC_CFG_DROOP_MV : Fld := ⟨0x1C, 0, 6⟩
def F.PWR_ELEC_CFG_ICC_MAX : Fld := ⟨0x1C, 8, 8⟩
def F.PWR_INPUT_VIN_MV : Fld := ⟨0x20, 0, 16⟩
def F.PWR_INPUT_IIN : Fld := ⟨0x20, 16, 16⟩
def F.PWR_MODULE_W_AVG_W : Fld := ⟨0x24, 0, 12⟩
def F.PWR_MODULE_W_PEAK_W : Fld := ⟨0x24, 16, 12⟩
def F.PWR_FIXED_W_FIXED : Fld := ⟨0x28, 0, 12⟩
def F.PWR_DOMAINS_LO_ON : Fld := ⟨0x2C, 0, 32⟩
def F.PWR_DOMAINS_HI_ON : Fld := ⟨0x30, 0, 4⟩
def F.PWR_HOOP_TEMP_H0 : Fld := ⟨0x34, 0, 8⟩
def F.PWR_HOOP_TEMP_H1 : Fld := ⟨0x34, 8, 8⟩
def F.PWR_HOOP_TEMP_H2 : Fld := ⟨0x34, 16, 8⟩
def F.PWR_HOOP_TEMP_H3 : Fld := ⟨0x34, 24, 8⟩
def F.PWR_SHUTTLE_TEMP_S0 : Fld := ⟨0x38, 0, 8⟩
def F.PWR_SHUTTLE_TEMP_S1 : Fld := ⟨0x38, 8, 8⟩
def F.PWR_THR_ACTIVE_REASONS : Fld := ⟨0x3C, 0, 7⟩
def F.PWR_THR_ACTIVE_POWER_DUTY : Fld := ⟨0x3C, 8, 5⟩
def F.PWR_THR_ACTIVE_MEM_DUTY : Fld := ⟨0x3C, 16, 5⟩
def F.PWR_ERR_CODE : Fld := ⟨0x40, 0, 4⟩
def F.PWR_ERR_DOMAIN : Fld := ⟨0x40, 8, 6⟩
def F.PWR_THR_CNT_COUNT (n : Nat) : Fld := ⟨0x100 + 0x10 * n, 0, 32⟩
def F.PWR_THR_NS_LO_NS_LO (n : Nat) : Fld := ⟨0x104 + 0x10 * n, 0, 32⟩
def F.PWR_THR_NS_HI_NS_HI (n : Nat) : Fld := ⟨0x108 + 0x10 * n, 0, 32⟩

/-! ### SEC: R413 -/

def F.SEC_BOOT_STATUS_STAGE : Fld := ⟨0x0, 0, 4⟩
def F.SEC_BOOT_STATUS_ERR : Fld := ⟨0x0, 4, 4⟩
def F.SEC_BOOT_STATUS_ERR_DETAIL : Fld := ⟨0x0, 8, 8⟩
def F.SEC_BOOT_STATUS_EXT_STATE : Fld := ⟨0x0, 16, 2⟩
def F.SEC_BOOT_STATUS_EXT_SLOT : Fld := ⟨0x0, 18, 1⟩
def F.SEC_BOOT_STATUS_REJ_A : Fld := ⟨0x0, 20, 4⟩
def F.SEC_BOOT_STATUS_REJ_B : Fld := ⟨0x0, 24, 4⟩
def F.SEC_EXT_SVN_SVN : Fld := ⟨0x4, 0, 8⟩
def F.SEC_EXT_SVN_MIN_SVN : Fld := ⟨0x4, 8, 8⟩
def F.SEC_EXT_OPS_OP_FIRST : Fld := ⟨0x8, 0, 8⟩
def F.SEC_EXT_OPS_OP_LAST : Fld := ⟨0x8, 8, 8⟩
def F.SEC_EXT_VERSION_LO_VERSION_LO : Fld := ⟨0xC, 0, 32⟩
def F.SEC_EXT_VERSION_HI_VERSION_HI : Fld := ⟨0x10, 0, 32⟩
def F.SEC_OTP_POLICY_EXT_REQUIRED : Fld := ⟨0x14, 0, 1⟩
def F.SEC_OTP_POLICY_DEBUG_DISABLE : Fld := ⟨0x14, 1, 1⟩
def F.SEC_OTP_POLICY_ROOT_REVOKE : Fld := ⟨0x14, 2, 2⟩
def F.SEC_DEBUG_STATE : Fld := ⟨0x18, 0, 2⟩
def F.SEC_DEBUG_USED : Fld := ⟨0x18, 2, 1⟩
def F.SEC_ID_KEY_OK : Fld := ⟨0x1C, 0, 1⟩
def F.SEC_ID_CERT_OK : Fld := ⟨0x1C, 1, 1⟩
def F.SEC_ID_SIGN_EN : Fld := ⟨0x1C, 2, 1⟩
def F.SEC_ROM_DIGEST_DIGEST (n : Nat) : Fld := ⟨0x20 + 0x4 * n, 0, 32⟩
def F.SEC_EXT_DIGEST_DIGEST (n : Nat) : Fld := ⟨0x40 + 0x4 * n, 0, 32⟩
def F.SEC_SIGN_COUNT_COUNT : Fld := ⟨0x60, 0, 32⟩

/-! ### MGT: R414 -/

def F.MGT_STATUS_DA : Fld := ⟨0x0, 0, 7⟩
def F.MGT_STATUS_DA_VALID : Fld := ⟨0x0, 7, 1⟩
def F.MGT_STATUS_IBI_EN : Fld := ⟨0x0, 8, 1⟩
def F.MGT_STATUS_ALERT : Fld := ⟨0x0, 9, 1⟩
def F.MGT_STATUS_VDM_UP : Fld := ⟨0x0, 10, 1⟩
def F.MGT_STATUS_EVT_QUEUED : Fld := ⟨0x0, 16, 6⟩
def F.MGT_EID_EID_I3C : Fld := ⟨0x4, 0, 8⟩
def F.MGT_EID_EID_PCIE : Fld := ⟨0x4, 8, 8⟩
def F.MGT_SPDM_CONN : Fld := ⟨0x8, 0, 2⟩
def F.MGT_EVT_DROPPED_COUNT : Fld := ⟨0xC, 0, 16⟩
def F.MGT_RX_MSGS_COUNT : Fld := ⟨0x10, 0, 32⟩
def F.MGT_RX_ERR_COUNT : Fld := ⟨0x14, 0, 32⟩
def F.MGT_CAP_SETS_COUNT : Fld := ⟨0x18, 0, 32⟩

/-! ### IRQ: R433 -/

def F.IRQ_STATUS_ASLEEP : Fld := ⟨0x0, 0, 4⟩
def F.IRQ_STATUS_FATAL_LINE : Fld := ⟨0x0, 4, 1⟩
def F.IRQ_FATAL_CODE : Fld := ⟨0x4, 0, 8⟩
def F.IRQ_FATAL_ORIGIN : Fld := ⟨0x4, 8, 3⟩
def F.IRQ_FATAL_MORE : Fld := ⟨0x4, 12, 4⟩
def F.IRQ_FATAL_VALID : Fld := ⟨0x4, 31, 1⟩
def F.IRQ_FATAL_DETAIL_DETAIL : Fld := ⟨0x8, 0, 32⟩
def F.IRQ_FATAL_KNOT_LO_KNOT_LO : Fld := ⟨0xC, 0, 32⟩
def F.IRQ_FATAL_KNOT_HI_KNOT_HI : Fld := ⟨0x10, 0, 16⟩
def F.IRQ_MSIX_SENT_COUNT : Fld := ⟨0x14, 0, 32⟩
def F.IRQ_MASK_MASK (c : Nat) (w : Nat) : Fld := ⟨0x100 + 0x20 * c + 0x4 * w, 0, 32⟩
def F.IRQ_PEND_PEND (w : Nat) : Fld := ⟨0x200 + 0x4 * w, 0, 32⟩
def F.IRQ_ACTIVE_ACTIVE (w : Nat) : Fld := ⟨0x220 + 0x4 * w, 0, 32⟩
def F.IRQ_LINE_LINE (w : Nat) : Fld := ⟨0x240 + 0x4 * w, 0, 32⟩
def F.IRQ_ACK_SOURCE (c : Nat) : Fld := ⟨0x280 + 0x8 * c, 0, 8⟩
def F.IRQ_ACK_HELD (c : Nat) : Fld := ⟨0x280 + 0x8 * c, 31, 1⟩
def F.IRQ_DONE_SOURCE (c : Nat) : Fld := ⟨0x284 + 0x8 * c, 0, 8⟩
def F.IRQ_SRC_CFG_ENABLE (n : Nat) : Fld := ⟨0x400 + 0x4 * n, 0, 1⟩
def F.IRQ_SRC_CFG_MODE (n : Nat) : Fld := ⟨0x400 + 0x4 * n, 1, 1⟩
def F.IRQ_SRC_CFG_TARGET (n : Nat) : Fld := ⟨0x400 + 0x4 * n, 4, 4⟩
def F.IRQ_SRC_CFG_HOST (n : Nat) : Fld := ⟨0x400 + 0x4 * n, 8, 1⟩
def F.IRQ_SRC_CFG_FILTER (n : Nat) : Fld := ⟨0x400 + 0x4 * n, 16, 8⟩
def F.IRQ_SRC_CFG_VECTOR (n : Nat) : Fld := ⟨0x400 + 0x4 * n, 24, 6⟩
def F.IRQ_HOST_EVT_EVT_VECTOR : Fld := ⟨0x800, 0, 6⟩
def F.IRQ_HOST_EVT_MIN_CLASS : Fld := ⟨0x800, 8, 2⟩

/-! ### PMU: R447 -/

def F.PMU_SMP_CFG_PERIOD : Fld := ⟨0x0, 0, 16⟩
def F.PMU_SMP_CFG_ACTIONS : Fld := ⟨0x0, 16, 12⟩
def F.PMU_SMP_CFG_WRAP : Fld := ⟨0x0, 28, 1⟩
def F.PMU_SMP_UNITS_UNIT_LO : Fld := ⟨0x4, 0, 8⟩
def F.PMU_SMP_UNITS_UNIT_HI : Fld := ⟨0x4, 8, 8⟩
def F.PMU_SMP_WMARK_WMARK : Fld := ⟨0x8, 0, 12⟩
def F.PMU_SMP_HEAD_HEAD : Fld := ⟨0xC, 0, 12⟩
def F.PMU_SMP_TAIL_TAIL : Fld := ⟨0x10, 0, 12⟩
def F.PMU_SMP_STATUS_FULL : Fld := ⟨0x14, 0, 1⟩
def F.PMU_SMP_STATUS_LOST : Fld := ⟨0x14, 16, 16⟩
def F.PMU_SMP_SEL_INDEX : Fld := ⟨0x18, 0, 12⟩
def F.PMU_SMP_DATA_DATA (w : Nat) : Fld := ⟨0x40 + 0x4 * w, 0, 32⟩

/-! ### PMUSET: R447 -/

def F.PMU_CYC_LO_CYC_LO : Fld := ⟨0x0, 0, 32⟩
def F.PMU_CYC_HI_CYC_HI : Fld := ⟨0x4, 0, 32⟩
def F.PMU_CTR_LO_CTR_LO (n : Nat) : Fld := ⟨0x8 + 0x8 * n, 0, 32⟩
def F.PMU_CTR_HI_CTR_HI (n : Nat) : Fld := ⟨0xC + 0x8 * n, 0, 16⟩
def F.PMU_CYC_END_LO_CYC_LO : Fld := ⟨0x48, 0, 32⟩
def F.PMU_CYC_END_HI_CYC_HI : Fld := ⟨0x4C, 0, 32⟩
def F.PMU_RES_LO_RES_LO (n : Nat) : Fld := ⟨0x50 + 0x8 * n, 0, 32⟩
def F.PMU_RES_HI_RES_HI (n : Nat) : Fld := ⟨0x54 + 0x8 * n, 0, 16⟩
def F.PMU_EVT_EVENT (n : Nat) : Fld := ⟨0x90 + 0x4 * n, 0, 8⟩
def F.PMU_EVT_MODE (n : Nat) : Fld := ⟨0x90 + 0x4 * n, 8, 1⟩
def F.PMU_EVT_WIN (n : Nat) : Fld := ⟨0x90 + 0x4 * n, 9, 1⟩
def F.PMU_WIN_CFG_UNIT : Fld := ⟨0xB0, 0, 1⟩
def F.PMU_WIN_CFG_KNOTS : Fld := ⟨0xB0, 16, 16⟩
def F.PMU_WIN_NS_NS : Fld := ⟨0xB4, 0, 32⟩
def F.PMU_WIN_SEQ_SEQ : Fld := ⟨0xB8, 0, 32⟩
def F.PMU_SET_CTRL_CLEAR : Fld := ⟨0xBC, 0, 1⟩

/-- One register, or a family of registers at two strides: offset, (stride, count) twice, RW bits, RWK bits, reset. -/
structure RegDef where
  off : Nat
  s1 : Nat
  n1 : Nat
  s2 : Nat
  n2 : Nat
  rw : Nat
  rwk : Nat
  reset : Nat

/-- Does a register family hold the offset (R62, R63)? -/
def RegDef.covers (r : RegDef) (o : Nat) : Bool :=
  if o < r.off then false else
  let d := o - r.off
  let a := if r.s1 = 0 then 0 else Nat.min (d / r.s1) (r.n1 - 1)
  let d' := d - a * r.s1
  let b := if r.s2 = 0 then 0 else Nat.min (d' / r.s2) (r.n2 - 1)
  d' - b * r.s2 == 0

/-- The register table of the GRID block (R59). -/
def regTabGrid : List RegDef := [
  ⟨0x0, 0, 1, 0, 1, 0x0, 0x0, 0x1F0000⟩ /- GRID_STATUS -/,
  ⟨0x4, 0, 1, 0, 1, 0x0, 0x3FF, 0xFF⟩ /- GRID_CTRL -/,
  ⟨0x8, 0, 1, 0, 1, 0x0, 0xFFFFF, 0xC350⟩ /- GRID_KNOT_INT -/,
  ⟨0xC, 0, 1, 0, 1, 0x0, 0xF0FFF, 0x40200⟩ /- GRID_SNAG_CFG -/,
  ⟨0x10, 0, 1, 0, 1, 0x0, 0x3FFFFFFF, 0x3B9ACA00⟩ /- GRID_SYNC_PERIOD -/,
  ⟨0x20, 0, 1, 0, 1, 0x0, 0x0, 0x0⟩ /- GRID_TIME_LO -/,
  ⟨0x24, 0, 1, 0, 1, 0x0, 0x0, 0x0⟩ /- GRID_TIME_HI -/,
  ⟨0x28, 0, 1, 0, 1, 0x0, 0x0, 0x0⟩ /- GRID_KNOT_LO -/,
  ⟨0x2C, 0, 1, 0, 1, 0x0, 0x0, 0x0⟩ /- GRID_KNOT_HI -/,
  ⟨0x30, 0, 1, 0, 1, 0x0, 0x0, 0x0⟩ /- GRID_NEXT_KNOT_LO -/,
  ⟨0x34, 0, 1, 0, 1, 0x0, 0x0, 0x0⟩ /- GRID_NEXT_KNOT_HI -/,
  ⟨0x38, 0, 1, 0, 1, 0x0, 0x0, 0x0⟩ /- GRID_STRETCH_TOTAL -/,
  ⟨0x3C, 0, 1, 0, 1, 0x0, 0x0, 0x0⟩ /- GRID_OFFSET -/,
  ⟨0x40, 0, 1, 0, 1, 0x0, 0x0, 0x0⟩ /- GRID_PATH -/,
  ⟨0x44, 0, 1, 0, 1, 0x0, 0x0, 0x0⟩ /- GRID_MAX_PATH -/,
  ⟨0x48, 0, 1, 0, 1, 0x0, 0x0, 0x0⟩ /- GRID_ROOT_ID_LO -/,
  ⟨0x4C, 0, 1, 0, 1, 0x0, 0x0, 0x0⟩ /- GRID_ROOT_ID_HI -/,
  ⟨0x50, 0, 1, 0, 1, 0x0, 0x0, 0x0⟩ /- GRID_SNAG_COUNT -/,
  ⟨0x54, 0, 1, 0, 1, 0x0, 0x0, 0x0⟩ /- GRID_STRETCH_COUNT -/,
  ⟨0x58, 0, 1, 0, 1, 0x0, 0x0, 0x0⟩ /- GRID_HOLDOVER -/,
  ⟨0x5C, 0, 1, 0, 1, 0x0, 0x0, 0xC350⟩ /- GRID_EFF_INT -/]

/-- The register table of the CFG block (R66). -/
def regTabCfg : List RegDef := [
  ⟨0xFF00, 0, 1, 0, 1, 0x1, 0x0, 0x0⟩ /- CFG_APPLY -/,
  ⟨0xFF04, 0, 1, 0, 1, 0x0, 0x0, 0x0⟩ /- CFG_STATUS -/,
  ⟨0xFF08, 0, 1, 0, 1, 0x0, 0x0, 0x0⟩ /- CFG_REJECT -/,
  ⟨0xFF0C, 0, 1, 0, 1, 0x0, 0x0, 0x0⟩ /- CFG_APPLIED_KNOT -/]

/-- The register table of the DEV block (R77). -/
def regTabDev : List RegDef := [
  ⟨0x0, 0, 1, 0, 1, 0x0, 0x0, 0x4824⟩ /- DEV_ID -/,
  ⟨0x4, 0, 1, 0, 1, 0x0, 0x0, 0x141⟩ /- DEV_REV -/,
  ⟨0x8, 0, 1, 0, 1, 0x0, 0x0, 0x2020003⟩ /- DEV_VERSIONS -/,
  ⟨0xC, 0, 1, 0, 1, 0x0, 0x0, 0x0⟩ /- DEV_SERIAL_LO -/,
  ⟨0x10, 0, 1, 0, 1, 0x0, 0x0, 0x0⟩ /- DEV_SERIAL_HI -/,
  ⟨0x20, 0, 1, 0, 1, 0x0, 0x0, 0x0⟩ /- DEV_STATUS -/,
  ⟨0x30, 0, 1, 0, 1, 0x8000001F, 0x0, 0x0⟩ /- DEV_MODE_REQ -/,
  ⟨0x34, 0, 1, 0, 1, 0xFFFFFFFF, 0x0, 0x0⟩ /- DEV_MODE_TGT_LO -/,
  ⟨0x38, 0, 1, 0, 1, 0xFFFF, 0x0, 0x0⟩ /- DEV_MODE_TGT_HI -/,
  ⟨0x3C, 0, 1, 0, 1, 0x0, 0x0, 0x0⟩ /- DEV_MODE_STATE -/,
  ⟨0x40, 0, 1, 0, 1, 0x0, 0x0, 0x0⟩ /- DEV_MODE_SPLIT -/,
  ⟨0x44, 0, 1, 0, 1, 0x0, 0xFFFFFFFF, 0x0⟩ /- DEV_EVT_BASE_LO -/,
  ⟨0x48, 0, 1, 0, 1, 0x0, 0x1FFFF, 0x0⟩ /- DEV_EVT_SIZE -/,
  ⟨0x4C, 0, 1, 0, 1, 0x0, 0x0, 0x0⟩ /- DEV_EVT_HEAD -/,
  ⟨0x50, 0, 1, 0, 1, 0xFFFF, 0x0, 0x0⟩ /- DEV_EVT_TAIL -/,
  ⟨0x54, 0, 1, 0, 1, 0x0, 0x0, 0x0⟩ /- DEV_EVT_STATUS -/,
  ⟨0x58, 0, 1, 0, 1, 0x0, 0xFFFFFFFF, 0x0⟩ /- DEV_EVT_BASE_HI -/]

/-- The register table of the PRK block (R111). -/
def regTabPrk : List RegDef := [
  ⟨0x0, 0, 1, 0, 1, 0x0, 0x0, 0x0⟩ /- PRK_STATUS -/,
  ⟨0x4, 0, 1, 0, 1, 0x0, 0x0, 0x0⟩ /- PRK_SLOT_COUNT -/,
  ⟨0x8, 0, 1, 0, 1, 0x0, 0x0, 0x0⟩ /- PRK_SLOT_NEXT -/,
  ⟨0xC, 0, 1, 0, 1, 0x0, 0x0, 0x0⟩ /- PRK_MISS -/,
  ⟨0x10, 0, 1, 0, 1, 0x0, 0x0, 0x0⟩ /- PRK_STEP_LO -/,
  ⟨0x14, 0, 1, 0, 1, 0x0, 0x0, 0x0⟩ /- PRK_STEP_HI -/,
  ⟨0x18, 0, 1, 0, 1, 0x0, 0x0, 0x0⟩ /- PRK_STEP_KNOT_LO -/,
  ⟨0x1C, 0, 1, 0, 1, 0x0, 0x0, 0x0⟩ /- PRK_STEP_KNOT_HI -/,
  ⟨0x20, 0, 1, 0, 1, 0x0, 0x0, 0x0⟩ /- PRK_STEP_KNOTS -/,
  ⟨0x100, 0, 1, 0, 1, 0x0, 0xFFF, 0x100⟩ /- PRK_ADMIT_CFG -/,
  ⟨0x104, 0, 1, 0, 1, 0x0, 0x0, 0x0⟩ /- PRK_REJECT -/,
  ⟨0x108, 0, 1, 0, 1, 0x0, 0x0, 0x1FFFF⟩ /- PRK_REJ_SLOT -/,
  ⟨0x10C, 0, 1, 0, 1, 0x0, 0x0, 0x0⟩ /- PRK_REJ_EXCESS -/,
  ⟨0x110, 0, 1, 0, 1, 0x0, 0x0, 0x0⟩ /- PRK_PACE_0 -/,
  ⟨0x114, 0, 1, 0, 1, 0x0, 0x0, 0x0⟩ /- PRK_PACE_1 -/,
  ⟨0x118, 0, 1, 0, 1, 0x0, 0x0, 0x0⟩ /- PRK_ADMIT_TIME -/,
  ⟨0x120, 4, 8, 0, 1, 0x0, 0x0, 0x0⟩ /- PRK_DIGEST -/]

/-- The register table of the ARR block (R135). -/
def regTabArr : List RegDef := [
  ⟨0x0, 0, 1, 0, 1, 0x0, 0x0, 0x100008⟩ /- ARR_STATUS -/,
  ⟨0x4, 0, 1, 0, 1, 0x0, 0xFFFF, 0x4000⟩ /- ARR_CTRL -/,
  ⟨0x8, 0, 1, 0, 1, 0x0, 0x0, 0x0⟩ /- ARR_CUR_SLOT -/,
  ⟨0xC, 0, 1, 0, 1, 0x0, 0x0, 0x0⟩ /- ARR_PASS_DONE -/,
  ⟨0x10, 0, 1, 0, 1, 0x0, 0x0, 0x0⟩ /- ARR_FRZ_FEED -/,
  ⟨0x14, 0, 1, 0, 1, 0x0, 0x0, 0x0⟩ /- ARR_FRZ_DRAIN -/,
  ⟨0x18, 0, 1, 0, 1, 0x0, 0x0, 0x0⟩ /- ARR_FRZ_HOLD -/,
  ⟨0x1C, 0, 1, 0, 1, 0x0, 0x0, 0x0⟩ /- ARR_SAT -/,
  ⟨0x20, 0, 1, 0, 1, 0x0, 0x0, 0x0⟩ /- ARR_ECC -/,
  ⟨0x24, 0, 1, 0, 1, 0x0, 0x0, 0x0⟩ /- ARR_ERR -/,
  ⟨0x28, 0, 1, 0, 1, 0x0, 0x0, 0x0⟩ /- ARR_ERR_KNOT_LO -/,
  ⟨0x2C, 0, 1, 0, 1, 0x0, 0x0, 0x0⟩ /- ARR_ERR_KNOT_HI -/]

/-- The register table of the VEC block (R176, R203). -/
def regTabVec : List RegDef := [
  ⟨0x0, 0, 1, 0, 1, 0x0, 0x0, 0x0⟩ /- VEC_SCL_STATUS -/,
  ⟨0x4, 0, 1, 0, 1, 0x0, 0xFF0F1F, 0x110⟩ /- VEC_TS_POLICY -/,
  ⟨0x8, 0, 1, 0, 1, 0x1F07FF, 0x0, 0x0⟩ /- VEC_TS_SEL -/,
  ⟨0xC, 0, 1, 0, 1, 0x0, 0x0, 0x0⟩ /- VEC_TS_DATA -/,
  ⟨0x10, 0, 1, 0, 1, 0x0, 0x0, 0x0⟩ /- VEC_CVT_SAT -/,
  ⟨0x14, 0, 1, 0, 1, 0x0, 0x0, 0x0⟩ /- VEC_CVT_NONFIN -/,
  ⟨0x100, 0, 1, 0, 1, 0x0, 0x0, 0x0⟩ /- VEC_OP_STATUS -/,
  ⟨0x104, 0, 1, 0, 1, 0x0, 0x0, 0x0⟩ /- VEC_OP_SLOT -/,
  ⟨0x108, 0, 1, 0, 1, 0x0, 0x0, 0x0⟩ /- VEC_DRV_NONFIN -/,
  ⟨0x10C, 0, 1, 0, 1, 0x0, 0x0, 0x0⟩ /- VEC_DROP_ZEROED -/,
  ⟨0x110, 0, 1, 0, 1, 0x0, 0x0, 0x0⟩ /- VEC_SEED_LO -/,
  ⟨0x114, 0, 1, 0, 1, 0x0, 0x0, 0x0⟩ /- VEC_SEED_HI -/,
  ⟨0x118, 0, 1, 0, 1, 0x0, 0x0, 0x0⟩ /- VEC_STEP_NUM -/,
  ⟨0x11C, 0, 1, 0, 1, 0x0, 0x0, 0x0⟩ /- VEC_OP_ERR -/,
  ⟨0x4000, 8, 4096, 0, 1, 0x0, 0xFFFFFFFF, 0x3F800000⟩ /- VEC_CHS_MUL -/,
  ⟨0x4004, 8, 4096, 0, 1, 0x0, 0xFFFF00FF, 0x0⟩ /- VEC_CHS_CTL -/]

/-- The register table of the XPB block (R202). -/
def regTabXpb : List RegDef := [
  ⟨0x0, 64, 2, 0, 1, 0x0, 0x0, 0x0⟩ /- XPB_STATUS -/,
  ⟨0x4, 64, 2, 0, 1, 0x0, 0x0, 0x0⟩ /- XPB_LOADS -/,
  ⟨0x8, 64, 2, 0, 1, 0x0, 0x0, 0x0⟩ /- XPB_STORES -/,
  ⟨0xC, 64, 2, 0, 1, 0x0, 0x0, 0x0⟩ /- XPB_VECTORS -/,
  ⟨0x10, 64, 2, 0, 1, 0x0, 0x0, 0x0⟩ /- XPB_HOLD -/,
  ⟨0x14, 64, 2, 0, 1, 0x0, 0x0, 0x0⟩ /- XPB_ERR -/]

/-- The register table of the BOB block (R224). -/
def regTabBob : List RegDef := [
  ⟨0x0, 64, 32, 0, 1, 0x0, 0x0, 0x0⟩ /- BOB_STATUS -/,
  ⟨0x4, 64, 32, 0, 1, 0x0, 0x0, 0xFFFFFF⟩ /- BOB_TTE -/,
  ⟨0x8, 64, 32, 0, 1, 0x0, 0x0, 0x0⟩ /- BOB_ARMS -/,
  ⟨0xC, 64, 32, 0, 1, 0x0, 0x0, 0x0⟩ /- BOB_REARMS -/,
  ⟨0x10, 64, 32, 0, 1, 0x0, 0x0, 0x0⟩ /- BOB_BEATS_LO -/,
  ⟨0x14, 64, 32, 0, 1, 0x0, 0x0, 0x0⟩ /- BOB_BEATS_HI -/,
  ⟨0x18, 64, 32, 0, 1, 0x0, 0x0, 0x0⟩ /- BOB_ERR -/,
  ⟨0x800, 0, 1, 0, 1, 0x0, 0x0, 0x0⟩ /- BOB_REARM_PEND -/,
  ⟨0x804, 0, 1, 0, 1, 0x0, 0x0, 0x0⟩ /- BOB_FAULT -/,
  ⟨0x808, 0, 1, 0, 1, 0x0, 0x0, 0x0⟩ /- BOB_FAULT_VA_LO -/,
  ⟨0x80C, 0, 1, 0, 1, 0x0, 0x0, 0x0⟩ /- BOB_FAULT_VA_HI -/,
  ⟨0x810, 0, 1, 0, 1, 0x0, 0x0, 0x0⟩ /- BOB_FAULT_POS -/,
  ⟨0x814, 0, 1, 0, 1, 0x0, 0x0, 0x0⟩ /- BOB_FAULT_STREAM -/,
  ⟨0x818, 0, 1, 0, 1, 0x0, 0x0, 0x0⟩ /- BOB_SILENT -/,
  ⟨0x820, 0, 1, 0, 1, 0xFFFFFFFF, 0x0, 0x0⟩ /- BOB_ARM_VA_LO -/,
  ⟨0x824, 0, 1, 0, 1, 0xFFFF, 0x0, 0x0⟩ /- BOB_ARM_VA_HI -/,
  ⟨0x828, 0, 1, 0, 1, 0x8000001F, 0x0, 0x0⟩ /- BOB_ARM -/,
  ⟨0x82C, 0, 1, 0, 1, 0x0, 0x0, 0x0⟩ /- BOB_ARM_STATUS -/]

/-- The register table of the HBM block (R249). -/
def regTabHbm : List RegDef := [
  ⟨0x0, 0, 1, 0, 1, 0x0, 0x0, 0x0⟩ /- HBM_STATUS -/,
  ⟨0x4, 0, 1, 0, 1, 0x0, 0xFFFFF, 0x35F55⟩ /- HBM_THERM_CFG -/,
  ⟨0x8, 0, 1, 0, 1, 0x0, 0xF0F, 0x80C⟩ /- HBM_THR_DUTY -/,
  ⟨0xC, 0, 1, 0, 1, 0x0, 0x0, 0x0⟩ /- HBM_CE_RS -/,
  ⟨0x10, 0, 1, 0, 1, 0x0, 0x0, 0x0⟩ /- HBM_CE_DIE -/,
  ⟨0x14, 0, 1, 0, 1, 0x0, 0x0, 0x0⟩ /- HBM_UE_COUNT -/,
  ⟨0x18, 0, 1, 0, 1, 0x0, 0x0, 0x0⟩ /- HBM_UE_ADDR_LO -/,
  ⟨0x1C, 0, 1, 0, 1, 0x0, 0x0, 0x0⟩ /- HBM_UE_ADDR_HI -/,
  ⟨0x20, 0, 1, 0, 1, 0x0, 0x0, 0x0⟩ /- HBM_UE_INFO -/,
  ⟨0x24, 0, 1, 0, 1, 0x0, 0x0, 0x0⟩ /- HBM_UE_KNOT_LO -/,
  ⟨0x28, 0, 1, 0, 1, 0x0, 0x0, 0x0⟩ /- HBM_UE_KNOT_HI -/,
  ⟨0x2C, 0, 1, 0, 1, 0x0, 0x0, 0x0⟩ /- HBM_THR_CYCLES -/,
  ⟨0x30, 0, 1, 0, 1, 0x0, 0x0, 0x0⟩ /- HBM_SCRUB -/]

/-- The register table of the STR block (R250). -/
def regTabStr : List RegDef := [
  ⟨0x0, 0, 1, 0, 1, 0x0, 0x0, 0x0⟩ /- STR_STATUS -/,
  ⟨0x4, 0, 1, 0, 1, 0x0, 0x0, 0x0⟩ /- STR_CE_LINK -/,
  ⟨0x8, 0, 1, 0, 1, 0x0, 0x0, 0x0⟩ /- STR_UE_COUNT -/,
  ⟨0xC, 0, 1, 0, 1, 0x0, 0x0, 0x0⟩ /- STR_UE_ADDR_LO -/,
  ⟨0x10, 0, 1, 0, 1, 0x0, 0x0, 0x0⟩ /- STR_UE_ADDR_HI -/,
  ⟨0x14, 0, 1, 0, 1, 0x0, 0x0, 0x0⟩ /- STR_UE_INFO -/,
  ⟨0x18, 0, 1, 0, 1, 0x0, 0x0, 0x0⟩ /- STR_UE_KNOT_LO -/,
  ⟨0x1C, 0, 1, 0, 1, 0x0, 0x0, 0x0⟩ /- STR_UE_KNOT_HI -/]

/-- The register table of the NIR block (R278). -/
def regTabNir : List RegDef := [
  ⟨0x0, 0, 1, 0, 1, 0x0, 0x0, 0x1⟩ /- NIR_STATUS -/,
  ⟨0x4, 0, 1, 0, 1, 0x0, 0xFFFF33, 0x401023⟩ /- NIR_CTRL -/,
  ⟨0x8, 0, 1, 0, 1, 0x3, 0x0, 0x0⟩ /- NIR_TRAIN -/,
  ⟨0xC, 0, 1, 0, 1, 0x0, 0x0, 0x0⟩ /- NIR_DOWN -/,
  ⟨0x10, 0, 1, 0, 1, 0x0, 0x0, 0x0⟩ /- NIR_DELAY -/,
  ⟨0x14, 0, 1, 0, 1, 0x0, 0x0, 0x0⟩ /- NIR_SKEW -/,
  ⟨0x18, 0, 1, 0, 1, 0x0, 0x0, 0x0⟩ /- NIR_PEER_LO -/,
  ⟨0x1C, 0, 1, 0, 1, 0x0, 0x0, 0x0⟩ /- NIR_PEER_HI -/,
  ⟨0x20, 0, 1, 0, 1, 0x0, 0x0, 0x0⟩ /- NIR_PEER_INFO -/,
  ⟨0x24, 0, 1, 0, 1, 0x0, 0x0, 0x0⟩ /- NIR_FEC_CORR -/,
  ⟨0x28, 0, 1, 0, 1, 0x0, 0x0, 0x0⟩ /- NIR_FEC_UE -/,
  ⟨0x2C, 0, 1, 0, 1, 0x0, 0x0, 0x0⟩ /- NIR_OS_DROP -/,
  ⟨0x30, 0, 1, 0, 1, 0x0, 0x0, 0x0⟩ /- NIR_CTL -/,
  ⟨0x34, 0, 1, 0, 1, 0x0, 0x0, 0x0⟩ /- NIR_SCHED_TX -/,
  ⟨0x38, 0, 1, 0, 1, 0x0, 0x0, 0x0⟩ /- NIR_SCHED_RX -/,
  ⟨0x3C, 0, 1, 0, 1, 0x0, 0x0, 0x0⟩ /- NIR_SLOT_ERR -/,
  ⟨0x40, 0, 1, 0, 1, 0x0, 0x0, 0x0⟩ /- NIR_SLOT_ERR_KNOT_LO -/,
  ⟨0x44, 0, 1, 0, 1, 0x0, 0x0, 0x0⟩ /- NIR_SLOT_ERR_KNOT_HI -/,
  ⟨0x60, 4, 8, 0, 1, 0x0, 0x0, 0x0⟩ /- NIR_SYM_ERR -/]

/-- The register table of the RED block (R296). -/
def regTabRed : List RegDef := [
  ⟨0x0, 0, 1, 0, 1, 0x0, 0x0, 0x0⟩ /- RED_STATUS -/,
  ⟨0x4, 0, 1, 0, 1, 0x0, 0x0, 0x0⟩ /- RED_TREE -/,
  ⟨0x8, 0, 1, 0, 1, 0x0, 0x0, 0x0⟩ /- RED_TREE_UP -/,
  ⟨0xC, 0, 1, 0, 1, 0x0, 0x0, 0x0⟩ /- RED_VERDICT -/,
  ⟨0x10, 0, 1, 0, 1, 0x0, 0x0, 0x0⟩ /- RED_VERDICT_KNOT_LO -/,
  ⟨0x14, 0, 1, 0, 1, 0x0, 0x0, 0x0⟩ /- RED_VERDICT_KNOT_HI -/,
  ⟨0x18, 0, 1, 0, 1, 0x0, 0x0, 0x0⟩ /- RED_VERDICT_STEP -/,
  ⟨0x1C, 0, 1, 0, 1, 0x0, 0x0, 0x0⟩ /- RED_NF_BUCKET -/,
  ⟨0x20, 0, 1, 0, 1, 0x0, 0x0, 0x0⟩ /- RED_NF_RANK -/,
  ⟨0x24, 0, 1, 0, 1, 0x0, 0x0, 0x0⟩ /- RED_NF_ELEM -/,
  ⟨0x28, 0, 1, 0, 1, 0x0, 0x0, 0x0⟩ /- RED_STAGES -/,
  ⟨0x2C, 0, 1, 0, 1, 0x0, 0x0, 0x0⟩ /- RED_DIGEST_FAIL -/,
  ⟨0x30, 0, 1, 0, 1, 0x0, 0x0, 0x0⟩ /- RED_ERR -/,
  ⟨0x34, 0, 1, 0, 1, 0x0, 0x1, 0x0⟩ /- RED_RING_CTRL -/,
  ⟨0x38, 0, 1, 0, 1, 0x0, 0xFFFFFFFF, 0x0⟩ /- RED_RING_BASE_LO -/,
  ⟨0x3C, 0, 1, 0, 1, 0x0, 0xFFFF, 0x0⟩ /- RED_RING_BASE_HI -/,
  ⟨0x40, 0, 1, 0, 1, 0x0, 0x0, 0x0⟩ /- RED_RING_POS -/]

/-- The register table of the UPD block (R319). -/
def regTabUpd : List RegDef := [
  ⟨0x0, 0, 1, 0, 1, 0x0, 0x0, 0x0⟩ /- UPD_STATUS -/,
  ⟨0x4, 0, 1, 0, 1, 0x0, 0x0, 0x0⟩ /- UPD_RECORD -/,
  ⟨0x8, 0, 1, 0, 1, 0x0, 0x0, 0x0⟩ /- UPD_RECORDS_DONE -/,
  ⟨0xC, 0, 1, 0, 1, 0x0, 0x0, 0x0⟩ /- UPD_KEPT -/,
  ⟨0x10, 0, 1, 0, 1, 0x0, 0x0, 0x0⟩ /- UPD_KEPT_INFO -/,
  ⟨0x14, 0, 1, 0, 1, 0x0, 0x0, 0x0⟩ /- UPD_KEPT_REC -/,
  ⟨0x18, 0, 1, 0, 1, 0x0, 0x0, 0x0⟩ /- UPD_PREC_FAIL -/,
  ⟨0x1C, 0, 1, 0, 1, 0x0, 0x0, 0x0⟩ /- UPD_PREC_STEP -/,
  ⟨0x20, 0, 1, 0, 1, 0x0, 0x0, 0x3F800000⟩ /- UPD_GRAD_MULT -/,
  ⟨0x24, 0, 1, 0, 1, 0x0, 0x0, 0x3F800000⟩ /- UPD_LR_MULT -/,
  ⟨0x28, 0, 1, 0, 1, 0x0, 0x0, 0x3F800000⟩ /- UPD_BC1 -/,
  ⟨0x2C, 0, 1, 0, 1, 0x0, 0x0, 0x3F800000⟩ /- UPD_BC2 -/,
  ⟨0x30, 0, 1, 0, 1, 0x0, 0x0, 0x0⟩ /- UPD_PUSH_BYTES_LO -/,
  ⟨0x34, 0, 1, 0, 1, 0x0, 0x0, 0x0⟩ /- UPD_PUSH_BYTES_HI -/,
  ⟨0x38, 0, 1, 0, 1, 0x0, 0x0, 0x0⟩ /- UPD_ERR -/,
  ⟨0x3C, 0, 1, 0, 1, 0x0, 0x0, 0x0⟩ /- UPD_PREC_BYTES -/]

/-- The register table of the HST block (R346). -/
def regTabHst : List RegDef := [
  ⟨0x0, 0, 1, 0, 1, 0x0, 0x0, 0x0⟩ /- HST_STATUS -/,
  ⟨0x4, 0, 1, 0, 1, 0x0, 0x3, 0x2⟩ /- HST_CTRL -/,
  ⟨0x8, 0, 1, 0, 1, 0x0, 0xFFFFFFFF, 0x0⟩ /- HST_DB_BASE_LO -/,
  ⟨0xC, 0, 1, 0, 1, 0x0, 0xFFFFFFFF, 0x0⟩ /- HST_DB_BASE_HI -/,
  ⟨0x10, 0, 1, 0, 1, 0x0, 0xFFFFFFFF, 0x0⟩ /- HST_SQ0_BASE_LO -/,
  ⟨0x14, 0, 1, 0, 1, 0x0, 0xFFFFFFFF, 0x0⟩ /- HST_SQ0_BASE_HI -/,
  ⟨0x18, 0, 1, 0, 1, 0x0, 0xFFFFFFFF, 0x0⟩ /- HST_CQ0_BASE_LO -/,
  ⟨0x1C, 0, 1, 0, 1, 0x0, 0xFFFFFFFF, 0x0⟩ /- HST_CQ0_BASE_HI -/,
  ⟨0x20, 0, 1, 0, 1, 0x0, 0x1FFF1FFF, 0x0⟩ /- HST_RING0_SIZE -/,
  ⟨0x24, 0, 1, 0, 1, 0x0, 0x0, 0x0⟩ /- HST_RINGS_LO -/,
  ⟨0x28, 0, 1, 0, 1, 0x0, 0x0, 0x0⟩ /- HST_RINGS_HI -/,
  ⟨0x2C, 0, 1, 0, 1, 0x0, 0x0, 0x0⟩ /- HST_SWEEPS -/,
  ⟨0x30, 0, 1, 0, 1, 0x0, 0x0, 0x0⟩ /- HST_KICKS -/,
  ⟨0x34, 0, 1, 0, 1, 0x0, 0x0, 0x0⟩ /- HST_PREEMPT_KNOT_LO -/,
  ⟨0x38, 0, 1, 0, 1, 0x0, 0x0, 0x0⟩ /- HST_PREEMPT_KNOT_HI -/,
  ⟨0x3C, 0, 1, 0, 1, 0x0, 0x0, 0x0⟩ /- HST_SAVE_NS -/,
  ⟨0x40, 0, 1, 0, 1, 0x0, 0x0, 0x0⟩ /- HST_HOST_ERR -/,
  ⟨0x44, 0, 1, 0, 1, 0x0, 0x0, 0x0⟩ /- HST_CMDS -/,
  ⟨0x9000, 4, 2, 0, 1, 0x0, 0x0, 0x0⟩ /- MSI-X pending bits -/]

/-- The register table of the PWR block (R371). -/
def regTabPwr : List RegDef := [
  ⟨0x0, 0, 1, 0, 1, 0x0, 0x0, 0x500377⟩ /- PWR_STATUS -/,
  ⟨0x4, 0, 1, 0, 1, 0x0, 0x0, 0x1258⟩ /- PWR_CAP -/,
  ⟨0x8, 0, 1, 0, 1, 0x0, 0x0, 0xD48⟩ /- PWR_CAP_HOST -/,
  ⟨0xC, 0, 1, 0, 1, 0x0, 0x0, 0xD48⟩ /- PWR_CAP_MGT -/,
  ⟨0x10, 0, 1, 0, 1, 0x0, 0x1FFF, 0x121E⟩ /- PWR_CTRL_CFG -/,
  ⟨0x14, 0, 1, 0, 1, 0x0, 0xFFF, 0x258⟩ /- PWR_BRAKE_CFG -/,
  ⟨0x18, 0, 1, 0, 1, 0x0, 0xFFFFF, 0x36E64⟩ /- PWR_THERM_CFG -/,
  ⟨0x1C, 0, 1, 0, 1, 0x0, 0xFF3F, 0x5A28⟩ /- PWR_ELEC_CFG -/,
  ⟨0x20, 0, 1, 0, 1, 0x0, 0x0, 0x0⟩ /- PWR_INPUT -/,
  ⟨0x24, 0, 1, 0, 1, 0x0, 0x0, 0x0⟩ /- PWR_MODULE_W -/,
  ⟨0x28, 0, 1, 0, 1, 0x0, 0x0, 0x0⟩ /- PWR_FIXED_W -/,
  ⟨0x2C, 0, 1, 0, 1, 0x0, 0x0, 0x0⟩ /- PWR_DOMAINS_LO -/,
  ⟨0x30, 0, 1, 0, 1, 0x0, 0x0, 0x0⟩ /- PWR_DOMAINS_HI -/,
  ⟨0x34, 0, 1, 0, 1, 0x0, 0x0, 0x0⟩ /- PWR_HOOP_TEMP -/,
  ⟨0x38, 0, 1, 0, 1, 0x0, 0x0, 0x0⟩ /- PWR_SHUTTLE_TEMP -/,
  ⟨0x3C, 0, 1, 0, 1, 0x0, 0x0, 0x101000⟩ /- PWR_THR_ACTIVE -/,
  ⟨0x40, 0, 1, 0, 1, 0x0, 0x0, 0x0⟩ /- PWR_ERR -/,
  ⟨0x100, 16, 7, 0, 1, 0x0, 0x0, 0x0⟩ /- PWR_THR_CNT -/,
  ⟨0x104, 16, 7, 0, 1, 0x0, 0x0, 0x0⟩ /- PWR_THR_NS_LO -/,
  ⟨0x108, 16, 7, 0, 1, 0x0, 0x0, 0x0⟩ /- PWR_THR_NS_HI -/]

/-- The register table of the SEC block (R413). -/
def regTabSec : List RegDef := [
  ⟨0x0, 0, 1, 0, 1, 0x0, 0x0, 0x0⟩ /- SEC_BOOT_STATUS -/,
  ⟨0x4, 0, 1, 0, 1, 0x0, 0x0, 0x0⟩ /- SEC_EXT_SVN -/,
  ⟨0x8, 0, 1, 0, 1, 0x0, 0x0, 0x0⟩ /- SEC_EXT_OPS -/,
  ⟨0xC, 0, 1, 0, 1, 0x0, 0x0, 0x0⟩ /- SEC_EXT_VERSION_LO -/,
  ⟨0x10, 0, 1, 0, 1, 0x0, 0x0, 0x0⟩ /- SEC_EXT_VERSION_HI -/,
  ⟨0x14, 0, 1, 0, 1, 0x0, 0x0, 0x0⟩ /- SEC_OTP_POLICY -/,
  ⟨0x18, 0, 1, 0, 1, 0x0, 0x0, 0x0⟩ /- SEC_DEBUG -/,
  ⟨0x1C, 0, 1, 0, 1, 0x0, 0x0, 0x0⟩ /- SEC_ID -/,
  ⟨0x20, 4, 8, 0, 1, 0x0, 0x0, 0x0⟩ /- SEC_ROM_DIGEST -/,
  ⟨0x40, 4, 8, 0, 1, 0x0, 0x0, 0x0⟩ /- SEC_EXT_DIGEST -/,
  ⟨0x60, 0, 1, 0, 1, 0x0, 0x0, 0x0⟩ /- SEC_SIGN_COUNT -/]

/-- The register table of the MGT block (R414). -/
def regTabMgt : List RegDef := [
  ⟨0x0, 0, 1, 0, 1, 0x0, 0x0, 0x0⟩ /- MGT_STATUS -/,
  ⟨0x4, 0, 1, 0, 1, 0x0, 0x0, 0x0⟩ /- MGT_EID -/,
  ⟨0x8, 0, 1, 0, 1, 0x0, 0x0, 0x0⟩ /- MGT_SPDM -/,
  ⟨0xC, 0, 1, 0, 1, 0x0, 0x0, 0x0⟩ /- MGT_EVT_DROPPED -/,
  ⟨0x10, 0, 1, 0, 1, 0x0, 0x0, 0x0⟩ /- MGT_RX_MSGS -/,
  ⟨0x14, 0, 1, 0, 1, 0x0, 0x0, 0x0⟩ /- MGT_RX_ERR -/,
  ⟨0x18, 0, 1, 0, 1, 0x0, 0x0, 0x0⟩ /- MGT_CAP_SETS -/]

/-- The register table of the IRQ block (R433). -/
def regTabIrq : List RegDef := [
  ⟨0x0, 0, 1, 0, 1, 0x0, 0x0, 0x0⟩ /- IRQ_STATUS -/,
  ⟨0x4, 0, 1, 0, 1, 0x0, 0x0, 0x0⟩ /- IRQ_FATAL -/,
  ⟨0x8, 0, 1, 0, 1, 0x0, 0x0, 0x0⟩ /- IRQ_FATAL_DETAIL -/,
  ⟨0xC, 0, 1, 0, 1, 0x0, 0x0, 0x0⟩ /- IRQ_FATAL_KNOT_LO -/,
  ⟨0x10, 0, 1, 0, 1, 0x0, 0x0, 0x0⟩ /- IRQ_FATAL_KNOT_HI -/,
  ⟨0x14, 0, 1, 0, 1, 0x0, 0x0, 0x0⟩ /- IRQ_MSIX_SENT -/,
  ⟨0x100, 32, 4, 4, 8, 0xFFFFFFFF, 0x0, 0xFFFFFFFF⟩ /- IRQ_MASK -/,
  ⟨0x200, 4, 8, 0, 1, 0x0, 0x0, 0x0⟩ /- IRQ_PEND -/,
  ⟨0x220, 4, 8, 0, 1, 0x0, 0x0, 0x0⟩ /- IRQ_ACTIVE -/,
  ⟨0x240, 4, 8, 0, 1, 0x0, 0x0, 0x0⟩ /- IRQ_LINE -/,
  ⟨0x280, 8, 4, 0, 1, 0xFF, 0x0, 0x0⟩ /- IRQ_ACK -/,
  ⟨0x284, 8, 4, 0, 1, 0xFF, 0x0, 0x0⟩ /- IRQ_DONE -/,
  ⟨0x400, 4, 256, 0, 1, 0x0, 0x3FFF01F3, 0x40000⟩ /- IRQ_SRC_CFG -/,
  ⟨0x800, 0, 1, 0, 1, 0x0, 0x33F, 0x3F⟩ /- IRQ_HOST_EVT -/]

/-- The register table of the PMU block (R447). -/
def regTabPmu : List RegDef := [
  ⟨0x0, 0, 1, 0, 1, 0x0, 0x1FFFFFFF, 0x0⟩ /- PMU_SMP_CFG -/,
  ⟨0x4, 0, 1, 0, 1, 0x0, 0xFFFF, 0xFF00⟩ /- PMU_SMP_UNITS -/,
  ⟨0x8, 0, 1, 0, 1, 0x0, 0xFFF, 0x800⟩ /- PMU_SMP_WMARK -/,
  ⟨0xC, 0, 1, 0, 1, 0x0, 0x0, 0x0⟩ /- PMU_SMP_HEAD -/,
  ⟨0x10, 0, 1, 0, 1, 0xFFF, 0x0, 0x0⟩ /- PMU_SMP_TAIL -/,
  ⟨0x14, 0, 1, 0, 1, 0x0, 0x0, 0x0⟩ /- PMU_SMP_STATUS -/,
  ⟨0x18, 0, 1, 0, 1, 0xFFF, 0x0, 0x0⟩ /- PMU_SMP_SEL -/,
  ⟨0x40, 4, 16, 0, 1, 0x0, 0x0, 0x0⟩ /- PMU_SMP_DATA -/]

/-- The register table of the PMUSET block (R447). -/
def regTabPmuSet : List RegDef := [
  ⟨0x0, 0, 1, 0, 1, 0x0, 0x0, 0x0⟩ /- PMU_CYC_LO -/,
  ⟨0x4, 0, 1, 0, 1, 0x0, 0x0, 0x0⟩ /- PMU_CYC_HI -/,
  ⟨0x8, 8, 8, 0, 1, 0x0, 0x0, 0x0⟩ /- PMU_CTR_LO -/,
  ⟨0xC, 8, 8, 0, 1, 0x0, 0x0, 0x0⟩ /- PMU_CTR_HI -/,
  ⟨0x48, 0, 1, 0, 1, 0x0, 0x0, 0x0⟩ /- PMU_CYC_END_LO -/,
  ⟨0x4C, 0, 1, 0, 1, 0x0, 0x0, 0x0⟩ /- PMU_CYC_END_HI -/,
  ⟨0x50, 8, 8, 0, 1, 0x0, 0x0, 0x0⟩ /- PMU_RES_LO -/,
  ⟨0x54, 8, 8, 0, 1, 0x0, 0x0, 0x0⟩ /- PMU_RES_HI -/,
  ⟨0x90, 4, 8, 0, 1, 0x0, 0x3FF, 0x0⟩ /- PMU_EVT -/,
  ⟨0xB0, 0, 1, 0, 1, 0x0, 0xFFFF0001, 0x0⟩ /- PMU_WIN_CFG -/,
  ⟨0xB4, 0, 1, 0, 1, 0x0, 0xFFFFFFFF, 0x0⟩ /- PMU_WIN_NS -/,
  ⟨0xB8, 0, 1, 0, 1, 0x0, 0x0, 0x0⟩ /- PMU_WIN_SEQ -/,
  ⟨0xBC, 0, 1, 0, 1, 0x1, 0x0, 0x0⟩ /- PMU_SET_CTRL -/]

/-! ### Where a register lies (R61, R62) -/

def Blk.base : Blk → Nat
  | .dev => 0x000000
  | .grid => 0x010000
  | .hst => 0x020000
  | .pwr => 0x030000
  | .sec => 0x040000
  | .mgt => 0x050000
  | .prk d => 0x800000 * (d + 1)
  | .arr a => 0x800000 * (a / 2 + 1) + 0x10000 * (1 + a % 2)
  | .vec h => 0x800000 * (h + 1) + 0x30000
  | .xpb h => 0x800000 * (h + 1) + 0x40000
  | .bob d => 0x800000 * (d + 1) + (if d < 4 then 0x50000 else 0x40000)
  | .hbm m => 0x800000 * (m / 6 + 1) + 0x60000 + 0x10000 * (m % 6)
  | .nir p => if p < 16 then 0x800000 * (p / 4 + 1) + 0xC0000 + 0x10000 * (p % 4)
              else 0x800000 * (p - 16 + 5) + 0x50000
  | .red s => 0x800000 * (s + 5) + 0x10000
  | .upd s => 0x800000 * (s + 5) + 0x20000
  | .str s => 0x800000 * (s + 5) + 0x30000
  | .irq d => 0x800000 * (d + 1) + (if d < 4 then 0x100000 else 0x60000)
  | .pmu d => 0x800000 * (d + 1) + (if d < 4 then 0x110000 else 0x70000)

/-- The block whose 64 KiB window holds a BAR0 offset (R62). -/
def blkAt (a : Nat) : Option Blk :=
  let w := a / 0x800000
  let i := a % 0x800000 / 0x10000
  if w = 0 then
    match i with
    | 0 => some .dev | 1 => some .grid | 2 => some .hst | 3 => some .pwr | 4 => some .sec | 5 => some .mgt
    | _ => none
  else if w ≤ 4 then
    let h := w - 1
    if i = 0 then some (.prk h) else if i ≤ 2 then some (.arr (2 * h + (i - 1)))
    else if i = 3 then some (.vec h) else if i = 4 then some (.xpb h) else if i = 5 then some (.bob h)
    else if i ≤ 11 then some (.hbm (6 * h + (i - 6))) else if i ≤ 15 then some (.nir (4 * h + (i - 12)))
    else if i = 16 then some (.irq h) else if i = 17 then some (.pmu h) else none
  else if w ≤ 6 then
    let s := w - 5
    match i with
    | 0 => some (.prk (4 + s)) | 1 => some (.red s) | 2 => some (.upd s) | 3 => some (.str s)
    | 4 => some (.bob (4 + s)) | 5 => some (.nir (16 + s)) | 6 => some (.irq (4 + s)) | 7 => some (.pmu (4 + s))
    | _ => none
  else none

/-- Die and block window index of a block, as R77, R424 and R425 code them; die 7 for a device-wide block. -/
def Blk.die (b : Blk) : Nat := let w := b.base / 0x800000; if w = 0 then 7 else w - 1
def Blk.index (b : Blk) : Nat := b.base % 0x800000 / 0x10000

def regFind (t : List RegDef) (o : Nat) : Option RegDef := t.find? fun r => r.covers o

/-- The register at an offset of a block's window; registers that exist in some windows only are found only there
(R111, R224, R433, R434, R447). -/
def regAt (b : Blk) (o : Nat) : Option RegDef :=
  if o ≥ 0xFF00 then regFind regTabCfg o else
  match b with
  | .dev => regFind regTabDev o
  | .grid => regFind regTabGrid o
  | .hst => regFind regTabHst o
  | .pwr => regFind regTabPwr o
  | .sec => regFind regTabSec o
  | .mgt => regFind regTabMgt o
  | .prk d => if o ≥ 0x100 && d != 4 then none else regFind regTabPrk o
  | .arr _ => regFind regTabArr o
  | .vec _ => regFind regTabVec o
  | .xpb _ => regFind regTabXpb o
  | .bob d => if d ≥ 4 && 0x200 ≤ o && o < 0x800 then none else regFind regTabBob o
  | .hbm _ => regFind regTabHbm o
  | .nir _ => regFind regTabNir o
  | .red _ => regFind regTabRed o
  | .upd _ => regFind regTabUpd o
  | .str _ => regFind regTabStr o
  | .irq d => if o = 0x800 && d != 4 then none else regFind regTabIrq o
  | .pmu d =>
    if o < 0x1000 then (if d < 4 then regFind regTabPmu o else none)
    else if o < 0x1000 + 0x100 * (if d < 4 then 17 else 6) then regFind regTabPmuSet (o % 0x100) else none

/-- The register a BAR0 offset names (R63). -/
def regInfo (a : Nat) : Option RegDef :=
  match blkAt a with
  | some b => regAt b (a % 0x10000)
  | none => none

/-- Reset value of a register word, zero where no register lies (R63, R76). -/
def regReset (a : Nat) : Word :=
  match regInfo a with
  | some r => BitVec.ofNat 32 r.reset
  | none => 0

/-- Bits a write takes at once, and bits it writes to the shadow (R65). -/
def rwMask (a : Nat) : Nat := match regInfo a with | some r => r.rw | none => 0
def rwkMask (a : Nat) : Nat := match regInfo a with | some r => r.rwk | none => 0

end Sys2Proof.Machine
end

