-- ==== Sys2Proof/Machine/Ops.lean ====
section
/-! DEFINITION. The named operations over registers, memory and the outside: sparse tables, register fields, 64-bit
register pairs, device memory, event entries, MSI-X messages and completions. -/

namespace Sys2Proof.Machine

/-! ### Sparse tables -/

/-- The value of a key; `d` is what an unlisted key reads as. -/
def tget {α : Type} (d : α) : Table α → Nat → α
  | [], _ => d
  | (a, v) :: r, k => if a = k then v else tget d r k

def tinsert {α : Type} (k : Nat) (v : α) : Table α → Table α
  | [] => [(k, v)]
  | (a, x) :: r => if k ≤ a then (k, v) :: (a, x) :: r else (a, x) :: tinsert k v r

/-- Write a key; writing what an unlisted key reads as removes the entry, so equal tables are equal data. -/
def tput {α : Type} [DecidableEq α] (d : α) (t : Table α) (k : Nat) (v : α) : Table α :=
  let t' := t.filter fun p => p.1 != k
  if v = d then t' else tinsert k v t'

/-- Apply a function to one key's value. -/
def tmod {α : Type} [DecidableEq α] (d : α) (t : Table α) (k : Nat) (f : α → α) : Table α :=
  tput d t k (f (tget d t k))

/-- Keys strictly rising and no entry equal to the default. -/
def tableWf {α : Type} [DecidableEq α] (d : α) : Table α → Bool
  | [] => true
  | [(_, v)] => v != d
  | (a, v) :: (b, w) :: r => v != d && decide (a < b) && tableWf d ((b, w) :: r)

/-! ### Small arithmetic -/

def ceilDiv (a b : Nat) : Nat := (a + b - 1) / b

/-- Modular comparison of 48-bit knot numbers: a precedes b (R45). -/
def knotBefore (a b : Nat) : Bool :=
  let d := (b + 2 ^ 48 - a % 2 ^ 48) % 2 ^ 48
  decide (1 ≤ d) && decide (d ≤ 2 ^ 47)

/-- Modular comparison of global times: a precedes b (R30). -/
def timeBefore (a b : Nat) : Bool :=
  let d := (b + 2 ^ 64 - a % 2 ^ 64) % 2 ^ 64
  decide (1 ≤ d) && decide (d ≤ 2 ^ 63)

/-- Knots from a to b, modulo 2^48. -/
def knotDiff (a b : Nat) : Nat := (b + 2 ^ 48 - a % 2 ^ 48) % 2 ^ 48

/-- A number of nanoseconds as 48.16 time. -/
def nsT (n : Nat) : Nat := n * 2 ^ 16

/-- Two's complement of a w-bit field. -/
def signed (w x : Nat) : Int := if x ≥ 2 ^ (w - 1) then (x : Int) - 2 ^ w else x

def unsigned (w : Nat) (x : Int) : Nat := (x % 2 ^ w).toNat

/-! ### Registers -/

def State.rd (s : State) (a : Nat) : Word := tget (regReset a) s.regs a

def State.wr (s : State) (a : Nat) (v : Word) : State := { s with regs := tput (regReset a) s.regs a v }

/-- Bits of a register word. -/
def fldGet (f : Fld) (w : Word) : Nat := w.toNat / 2 ^ f.lo % 2 ^ f.w

def fldPut (f : Fld) (w : Word) (v : Nat) : Word :=
  BitVec.ofNat 32 (w.toNat - w.toNat / 2 ^ f.lo % 2 ^ f.w * 2 ^ f.lo + v % 2 ^ f.w * 2 ^ f.lo)

/-- Read a field in force. -/
def State.g (s : State) (b : Blk) (f : Fld) : Nat := fldGet f (s.rd (b.base + f.off))

/-- Write a field in force (a value wider than the field is cut to it). -/
def State.p (s : State) (b : Blk) (f : Fld) (v : Nat) : State :=
  s.wr (b.base + f.off) (fldPut f (s.rd (b.base + f.off)) v)

def State.gb (s : State) (b : Blk) (f : Fld) : Bool := s.g b f == 1
def State.pb (s : State) (b : Blk) (f : Fld) (v : Bool) : State := s.p b f (if v then 1 else 0)

/-- Add to a saturating counter field. -/
def State.inc (s : State) (b : Blk) (f : Fld) (n : Nat) : State := s.p b f (min (s.g b f + n) (2 ^ f.w - 1))

/-- Registers that hold one value in two halves. -/
def State.g2 (s : State) (b : Blk) (lo hi : Fld) : Nat := s.g b lo + 2 ^ lo.w * s.g b hi
def State.p2 (s : State) (b : Blk) (lo hi : Fld) (v : Nat) : State :=
  (s.p b lo (v % 2 ^ lo.w)).p b hi (v / 2 ^ lo.w)

/-- Return a block's registers in [lo, hi) to their reset values. -/
def State.clearRange (s : State) (b : Blk) (lo hi : Nat) : State :=
  { s with regs := s.regs.filter fun p => !(decide (b.base + lo ≤ p.1) && decide (p.1 < b.base + hi)) }

/-! ### Device memory (R225): one byte space by device physical address -/

/-- What an unlisted byte reads as: HBM3 and SRAM are zeroed at start-up (R233, R243); see log entry 6, DESIGN CHOICE. -/
def memDefault : Byte := 0

def memWfList : List Host.Cell → Bool := tableWf memDefault

/-- The device memory is in its canonical form. -/
abbrev Memory.wf (m : List Host.Cell) : Prop := memWfList m = true

def State.readByte (s : State) (a : Nat) : Byte := tget memDefault s.mem a

def State.writeByte (s : State) (a : Nat) (v : Byte) : State := { s with mem := tput memDefault s.mem a v }

/-- Consecutive bytes as cells, zero bytes left out. -/
def cellsOf (a : Nat) : List Byte → List Host.Cell
  | [] => []
  | b :: r => if b = memDefault then cellsOf (a + 1) r else (a, b) :: cellsOf (a + 1) r

/-- Write a run of bytes at once: the cells below, the run, the cells above. -/
def memWrite (m : List Host.Cell) (a : Nat) (bs : List Byte) : List Host.Cell :=
  m.filter (fun c => decide (c.1 < a)) ++ cellsOf a bs ++ m.filter (fun c => decide (a + bs.length ≤ c.1))

/-- Bytes of one protected unit: an HBM3 pair, an SRAM word; the slow tier carries no check bits (R229, R240, R243). -/
def unitBytes (a : Nat) : Nat := if a < 0x09000000000 then 64 else if a < 0x20000000000 then 0 else 8

/-- Does the write [a, a + n) cover the bad unit b wholly, or only in part? -/
def coversUnit (a n b : Nat) : Bool := decide (a ≤ b) && decide (b + unitBytes b ≤ a + n)
def touchesUnit (a n b : Nat) : Bool := decide (a < b + unitBytes b) && decide (b < a + n)

/-- n bytes from address a out of cells that rise from at least a. -/
def runOf (a : Nat) : Nat → List Host.Cell → List Byte
  | 0, _ => []
  | n + 1, [] => memDefault :: runOf (a + 1) n []
  | n + 1, (k, v) :: r =>
    if k = a then v :: runOf (a + 1) n r else memDefault :: runOf (a + 1) n ((k, v) :: r)

/-- Read a run of n bytes. -/
def memRead (m : List Host.Cell) (a n : Nat) : List Byte :=
  runOf a n (m.filter fun c => decide (a ≤ c.1) && decide (c.1 < a + n))

def State.readMem (s : State) (a n : Nat) : List Byte := memRead s.mem a n

/-- Bytes of a run that a partial write to a bad unit leaves as they are (R231). -/
def keepBad (m : List Host.Cell) (a : Nat) (bad : List Nat) : List Byte → List Byte
  | bs => (bs.zip (List.range bs.length)).map fun p =>
      if bad.any fun b => decide (b ≤ a + p.2) && decide (a + p.2 < b + unitBytes b) then tget memDefault m (a + p.2) else p.1

/-- Write a run of bytes. A bad unit written whole is good again; one written in part keeps its bytes and is noted for
R238 (R231, R243). -/
def State.writeMem (s : State) (a : Nat) (bs : List Byte) : State :=
  if s.badPairs = [] then { s with mem := memWrite s.mem a bs }
  else
    let part := s.badPairs.filter fun b => touchesUnit a bs.length b && !coversUnit a bs.length b
    { s with
      mem := memWrite s.mem a (keepBad s.mem a part bs)
      badPairs := s.badPairs.filter fun b => !coversUnit a bs.length b
      ueHits := s.ueHits ++ part }

/-- The first bad unit that a read of [a, a + n) meets (R238). -/
def State.badIn (s : State) (a n : Nat) : Option Nat :=
  (s.badPairs.filter fun b => touchesUnit a n b).foldl (fun m b => match m with
    | none => some b
    | some x => some (min x b)) none

/-! ### The outside -/

/-- The host port has a link (R320, R346); without one no write, read or message reaches the host. -/
def State.hostUp (s : State) : Bool := s.g .hst F.HST_STATUS_GEN != 0

/-- Something leaves the device; towards the host only while the port has a link.
Readings: log entry 44, DESIGN CHOICE. -/
def State.emit (s : State) (o : Out) : State :=
  let host := match o with
    | .hostWrite _ _ => true
    | .msix _ => true
    | .readData _ _ => true
    | _ => false
  if host && !s.hostUp then s else { s with out := o :: s.out }

/-- A free value the spec leaves open: drawn afresh each time (log entry 1, DESIGN CHOICE). -/
def State.draw (s : State) : State := { s with fresh := s.fresh + 1 }

/-- A unit drives an interrupt line high (R427); the glitch filter of R428 sees it in IRQ_LINE_FILTERED. -/
def State.line (s : State) (die src : Nat) : State :=
  { s with lines := if (die * 256 + src) ∈ s.lines then s.lines else s.lines ++ [die * 256 + src] }

/-! ### MSI-X (R320, R323, R431) -/

/-- Readings: log entry 36, PRESUMED. -/
def msixReset (i : Nat) : Word := if i % 4 = 3 then 1 else 0

def F.MSIX_PENDING (w : Nat) : Fld := ⟨0x9000 + 4 * w, 0, 32⟩

def State.msixMasked (s : State) (v : Nat) : Bool := (tget (msixReset (4 * v + 3)) s.msix (4 * v + 3)).toNat % 2 == 1

/-- Send one of the 64 vectors: recorded as pending while masked; at most one message per vector per microsecond (R323). -/
def State.sendMsix (s : State) (v : Nat) : State :=
  let w := v / 32
  if v ≥ 64 then s
  else if s.msixMasked v then
    s.wr (Blk.hst.base + 0x9000 + 4 * w) (s.rd (Blk.hst.base + 0x9000 + 4 * w) ||| (1 <<< (v % 32)))
  else
    let last := tget 0 s.msixLast v
    if last ≠ 0 && (s.grid.time + 2 ^ 64 + 1 - last) % 2 ^ 64 < nsT 1000 then
      { s with msixHeld := if v ∈ s.msixHeld then s.msixHeld else s.msixHeld ++ [v] }
    else { (s.emit (.msix v)) with msixLast := tput 0 s.msixLast v (s.grid.time + 1) }

/-- Messages that the rate limit held leave once their microsecond has passed. -/
def State.flushMsix (s : State) : State :=
  let l := s.msixHeld
  l.foldl (fun s v => s.sendMsix v) { s with msixHeld := [] }

/-! ### Event ring (R73, R74, R425, R426, R432) -/

/-- One event before it is placed in the ring (R425, R426). -/
structure Event where
  type : Nat
  cls : Nat
  die : Nat
  block : Nat
  inst : Nat := 0
  code : Nat := 0
  data : Nat := 0
deriving DecidableEq, Repr

/-- Local knot number or, in FREE and ACQUIRING, the count of local ticks (R425). -/
def State.knotNow (s : State) : Nat :=
  if s.g .grid F.GRID_STATUS_LOCK_STATE ≥ 2 then s.grid.knot else s.grid.ticks % 2 ^ 48

/-- The 32 bytes of an event entry (R425). -/
def eventBytes (phase : Bool) (time knot : Nat) (e : Event) : List Byte :=
  leBytes 2 e.type ++ leBytes 1 (e.cls + if phase then 128 else 0) ++ leBytes 1 e.die ++ leBytes 1 e.block
    ++ leBytes 1 e.inst ++ leBytes 2 0 ++ leBytes 8 time ++ leBytes 6 knot ++ leBytes 1 e.code ++ leBytes 1 0
    ++ leBytes 8 e.data

def State.evtEntries (s : State) : Nat := s.g .dev F.DEV_EVT_SIZE_ENTRIES

def State.evtFull (s : State) : Bool :=
  (s.g .dev F.DEV_EVT_HEAD_HEAD + 1) % s.evtEntries == s.g .dev F.DEV_EVT_TAIL_TAIL

/-- Write one entry at HEAD and advance it; PHASE inverts as HEAD wraps (R74, R425). -/
def State.evtWrite (s : State) (e : Event) : State :=
  let h := s.g .dev F.DEV_EVT_HEAD_HEAD
  let base := s.g2 .dev F.DEV_EVT_BASE_LO_BASE_LO F.DEV_EVT_BASE_HI_BASE_HI
  let h' := (h + 1) % s.evtEntries
  let s := s.emit (.hostWrite (base + 32 * h) (eventBytes s.evtPhase s.grid.time s.knotNow e))
  let s := (s.p .dev F.DEV_EVT_HEAD_HEAD h').line 4 7
  { s with evtPhase := if h' = 0 then !s.evtPhase else s.evtPhase }

/-- The dropped count goes first once there is space again (R74). -/
def State.evtSettle (s : State) : State :=
  if s.evtOwed && s.evtEntries ≠ 0 && !s.evtFull then
    { (s.evtWrite { type := 1, cls := 0, die := 7, block := 0, data := s.g .dev F.DEV_EVT_STATUS_DROPPED }).p
        .dev F.DEV_EVT_STATUS_OVERFLOW 0 with evtOwed := false }
  else s

/-- Log an event (R73, R74); entries of at least MIN_CLASS, and every FATAL entry, send the event vector (R432). With no
ring applied nothing is logged. -/
def State.event (s : State) (e : Event) : State :=
  if s.evtEntries = 0 then s else
  let s := s.evtSettle
  if s.evtFull then
    { (s.inc .dev F.DEV_EVT_STATUS_DROPPED 1).p .dev F.DEV_EVT_STATUS_OVERFLOW 1 with evtOwed := true }
  else
    let s := s.evtWrite e
    if e.cls ≥ s.g (.irq 4) F.IRQ_HOST_EVT_MIN_CLASS || e.type = 0xF0 then
      s.sendMsix (s.g (.irq 4) F.IRQ_HOST_EVT_EVT_VECTOR)
    else s

/-! ### The master and its agents (R17) -/

def State.fatalSet (s : State) : Bool := s.gb .dev F.DEV_STATUS_FATAL

/-- The control clusters of H0 to H3 and S1: the agents of the master on S0 (R17). -/
def agentDies : List Nat := [0, 1, 2, 3, 5]

/-- The master hands every agent its share of a command: source 5 of each (R17, R427). Agents halt in the fail-safe state
(R420). -/
def State.tellAgents (s : State) : State :=
  if s.fatalSet then s else agentDies.foldl (fun s d => s.line d 5) s

/-- The agents report that their shares are done: source 5 of S0 (R17, R427). -/
def State.agentsReport (s : State) : State := if s.fatalSet then s else s.line 4 5

/-! ### Rings and completions (R321 to R325) -/

def State.ring (s : State) (i : Nat) : Option Ring := tget none s.rings i

def State.setRing (s : State) (i : Nat) (r : Option Ring) : State :=
  let b := if i < 32 then F.HST_RINGS_LO_EXISTS else F.HST_RINGS_HI_EXISTS
  let w := s.g .hst b
  let m := 2 ^ (i % 32)
  let w' := w - (if w / m % 2 = 1 then m else 0) + (if r.isSome then m else 0)
  { s.p .hst b w' with rings := tput none s.rings i r }

/-- The 16 bytes of a completion entry (R323). -/
def completionBytes (phase : Bool) (c : Completion) : List Byte :=
  leBytes 8 c.result ++ leBytes 2 c.sqHead ++ leBytes 2 c.cid ++ leBytes 1 c.status
    ++ leBytes 1 (if phase then 1 else 0) ++ leBytes 2 0

def Ring.full (r : Ring) : Bool := (r.cqTail + 1) % r.cqN == r.cqHead

/-- Write one completion at the CQ tail and send the queue's vector (R323). -/
def State.cqWrite (s : State) (i : Nat) (r : Ring) (c : Completion) : State :=
  let t := (r.cqTail + 1) % r.cqN
  let s := s.emit (.hostWrite (r.cqBase + 16 * r.cqTail) (completionBytes r.phase c))
  let s := s.setRing i (some { r with cqTail := t, phase := if t = 0 then !r.phase else r.phase })
  s.sendMsix r.vector

/-- Post a completion: at once, later when the CQ is full, never on a stopped ring (R323). -/
def State.postTo (s : State) (i : Nat) (c : Completion) : State :=
  match s.ring i with
  | none => s
  | some r =>
    if r.stopped then s
    else if r.full || !r.deferred.isEmpty then s.setRing i (some { r with deferred := r.deferred ++ [c] })
    else s.cqWrite i r c

/-- The next entry of a ring may start from now on: a command has completed, or has been queued (R325). -/
def State.ringFree (s : State) (i : Nat) : State :=
  match s.ring i with
  | none => s
  | some r => s.setRing i (some { r with doneAt := some s.grid.time })

/-- A command ends with a completion code (R323, R327); it counts in HST_CMDS. -/
def State.complete (s : State) (c : Cmd) (status result : Nat) : State :=
  let s := (s.agentsReport.inc .hst F.HST_CMDS_COUNT 1).ringFree c.ring
  let s := { s with cmds := s.cmds.filter (· != c) }
  if c.silent then s else s.postTo c.ring ⟨result, c.sqHead, c.cid, status⟩

/-- A queued START_STEP ends without having begun, or a step's START_STEP completes (R332). -/
def State.completeStep (s : State) (q : QStep) (status result : Nat) : State :=
  let s := s.agentsReport.inc .hst F.HST_CMDS_COUNT 1
  if q.silent then s else s.postTo q.ring ⟨result, q.sqHead, q.cid, status⟩

def State.cmdOf (s : State) (opcode : Nat) : Option Cmd := s.cmds.find? fun c => c.opcode == opcode
def State.cmdOn (s : State) (ring opcode : Nat) : Option Cmd := s.cmds.find? fun c => c.ring == ring && c.opcode == opcode

/-- Host-error codes of HST_HOST_ERR (R346). -/
def hostErrCode : HostErr → Nat
  | .timeout => 1 | .unsupported => 2 | .abort => 3 | .poisoned => 4

/-- Record a host-memory error with its ring, and its HOST_ERR event (R321, R323, R327, R346). -/
def State.hostErr (s : State) (code ring : Nat) : State :=
  let s := ((s.p .hst F.HST_HOST_ERR_CODE code).p .hst F.HST_HOST_ERR_RING ring).p .hst F.HST_HOST_ERR_VALID 1
  (s.line 4 162).event { type := 0x60, cls := 0, die := 7, block := 2, inst := ring, code := code }

/-! ### Completion codes (R104, R327) -/

namespace Code
def success := 0x00
def format := 0x01
def version := 0x02
def digest := 0x03
def reserved := 0x04
def interval := 0x05
def grid := 0x06
def mode := 0x07
def range := 0x08
def order := 0x09
def unit := 0x0A
def dependency := 0x0B
def deadline := 0x0C
def bandwidth := 0x0D
def sram := 0x0E
def mapping := 0x0F
def pace := 0x10
def busy := 0x11
def lengthClass := 0x12
def invalidOpcode := 0x20
def level := 0x21
def state := 0x22
def address := 0x23
def lockTimeout := 0x24
def cancelled := 0x25
def suspended := 0x26
def mapConflict := 0x27
def prot := 0x28
def saveArea := 0x29
def resumeMismatch := 0x2A
def fatal := 0x2B
def media := 0x2C
end Code

/-! ### Device-wide predicates -/

def State.lockState (s : State) : Nat := s.g .grid F.GRID_STATUS_LOCK_STATE
def State.isRoot (s : State) : Bool := s.gb .grid F.GRID_STATUS_IS_ROOT
def State.ready (s : State) : Bool := s.gb .dev F.DEV_STATUS_READY
def State.expert (s : State) : Bool := s.gb .dev F.DEV_MODE_STATE_CUR_EXPERT
/-- Viltum T2 emulation is in force (R156). -/
def State.t2 (s : State) : Bool := s.g .dev F.DEV_MODE_STATE_CUR_MODE == 1
def State.admitted (s : State) : Bool := s.img.isSome

/-- Identity of this device on the grid: priority over serial (R32). -/
def State.identity (s : State) : Nat :=
  s.g .grid F.GRID_CTRL_ROOT_PRIO * 2 ^ 56 + s.g2 .dev F.DEV_SERIAL_LO_SERIAL_LO F.DEV_SERIAL_HI_SERIAL_HI

/-- Rank of the admitted pricking (R49). -/
def State.rank (s : State) : Nat := match s.img with | some p => p.rank | none => 0

/-- The running step, unless it is already voided. -/
def State.liveRun (s : State) : Option Run := match s.run with | some r => if r.voided then none else some r | none => none

/-- Apply a state function to every index below n. -/
def State.forN (s : State) (n : Nat) (f : Nat → State → State) : State := (List.range n).foldl (fun s i => f i s) s

end Sys2Proof.Machine
end

