-- ==== Sys2Proof/Machine/ConfigRegs.lean ====
section
/-! DEFINITION. Shadows, snapshots, the consistency checks of every block and the apply at an apply knot
(R14, R65 to R70, and the check table of each block chapter). -/

namespace Sys2Proof.Machine

/-- Write the RW bits at once and the RWK bits to the shadow (R65); reserved and RO bits keep what they are (R12). -/
def State.regWriteBits (s : State) (a : Nat) (v : Word) : State :=
  let rw := BitVec.ofNat 32 (rwMask a)
  let rwk := BitVec.ofNat 32 (rwkMask a)
  let s := if rw = 0 then s else s.wr a ((s.rd a &&& ~~~rw) ||| (v &&& rw))
  if rwk = 0 then s
  else
    let old := tget (regReset a) s.shadows a
    { s with shadows := tput (regReset a) s.shadows a ((old &&& ~~~rwk) ||| (v &&& rwk)) }

def State.shadow (s : State) (a : Nat) : Word := tget (regReset a) s.shadows a

/-- Addresses of a block's registers listed in a table. -/
def blockKeys (b : Blk) (t : Table Word) : List Nat :=
  (t.filter fun p => decide (b.base ≤ p.1) && decide (p.1 < b.base + 0xFF00)).map (·.1)

/-- DIRTY: some shadow of the block differs from the value in force (R66). -/
def State.dirty (s : State) (b : Blk) : Bool :=
  (blockKeys b s.regs ++ blockKeys b s.shadows).any fun a =>
    let m := BitVec.ofNat 32 (rwkMask a)
    (s.rd a &&& m) != (s.shadow a &&& m)

/-- CFG_APPLY.GO: copy the block's shadows into a snapshot and set PEND; a second GO replaces it (R67, R69). -/
def State.cfgGo (s : State) (b : Blk) : State :=
  let snap := s.shadows.filter fun p => decide (b.base ≤ p.1) && decide (p.1 < b.base + 0xFF00)
  { s.p b F.CFG_STATUS_PEND 1 with
    snaps := (s.snaps.filter fun p => p.1 != b.base) ++ [(b.base, s.grid.time, snap)] }

/-- The word a register of the block would hold after the apply. -/
def cfgWord (s : State) (snap : Table Word) (a : Nat) : Word :=
  let m := BitVec.ofNat 32 (rwkMask a)
  (s.rd a &&& ~~~m) ||| (tget (regReset a) snap a &&& m)

/-- Registers of the block that the apply may change. -/
def cfgKeys (s : State) (b : Blk) (snap : Table Word) : List Nat :=
  (blockKeys b snap ++ (blockKeys b s.regs).filter fun a => rwkMask a != 0 && !(snap.any fun p => p.1 == a))

def powerOf2In (n lo hi : Nat) : Bool := decide (lo ≤ n) && decide (n ≤ hi) && n == 2 ^ Nat.log2 n

/-- Event codes of R438 that a set of a die has. -/
def pmuCodes (die set : Nat) : Nat :=
  if die < 4 then
    if set ≤ 1 then 10 else if set = 2 then 9 else if set ≤ 6 then 8 else if set ≤ 12 then 9 else 10
  else if set = 0 then 6 else if set = 1 then 8 else if set = 2 then 8 else if set = 3 then 5 else if set = 4 then 10
  else if die = 4 then 8 else 0

/-- Failing fields of a snapshot as (offset, RULE): R14 and the block's own check table. `w` is the word a register
would hold. Where a check spans several registers, the base register is the one named (log entry 15, DESIGN CHOICE). -/
def cfgFails (s : State) (b : Blk) (keys : List Nat) (w : Nat → Word) : List (Nat × Nat) :=
  let f (x : Fld) : Nat := fldGet x (w x.off)
  let bad (c : Bool) (off rule : Nat) : List (Nat × Nat) := if c then [(off, rule)] else []
  let changed (lo hi : Nat) : List Nat :=
    (keys.filter fun a => decide (b.base + lo ≤ a) && decide (a < b.base + hi) && w (a - b.base) != s.rd a).map (· - b.base)
  match b with
  | .grid =>
    -- R44, R60
    let i := f F.GRID_KNOT_INT_INTERVAL
    bad (f F.GRID_CTRL_SYNC_EN = 1 && f F.GRID_CTRL_ROOT_PRIO = 0xFF) 0x004 0x03
      ++ bad (i < 2000 || i > 1000000 || (s.isRoot && i < s.g .grid F.GRID_MAX_PATH_MAX_PATH + 1024)) 0x008 0x02
      ++ bad (s.isRoot && s.grid.chg.isSome && i ≠ s.g .grid F.GRID_KNOT_INT_INTERVAL) 0x008 0x10
      ++ bad (f F.GRID_SNAG_CFG_HORIZON < 3 || f F.GRID_SNAG_CFG_HORIZON > 8) 0x00C 0x02
      ++ bad (f F.GRID_SYNC_PERIOD_PERIOD < 1000 || f F.GRID_SYNC_PERIOD_PERIOD > 1000000000) 0x010 0x02
  | .dev =>
    -- R77
    bad (f F.DEV_EVT_BASE_LO_BASE_LO % 4096 ≠ 0) 0x044 0x02
      ++ bad (!powerOf2In (f F.DEV_EVT_SIZE_ENTRIES) 64 65536) 0x048 0x02
  | .hst =>
    -- R346
    let en := f F.HST_CTRL_RING0_EN = 1
    let sq := f F.HST_RING0_SIZE_SQ_ENTRIES
    let cq := f F.HST_RING0_SIZE_CQ_ENTRIES
    let sqa := f F.HST_SQ0_BASE_LO_BASE_LO + 2 ^ 32 * f F.HST_SQ0_BASE_HI_BASE_HI
    let cqa := f F.HST_CQ0_BASE_LO_BASE_LO + 2 ^ 32 * f F.HST_CQ0_BASE_HI_BASE_HI
    bad (f F.HST_DB_BASE_LO_BASE_LO % 4096 ≠ 0) 0x008 0x02
      ++ bad (en && f F.HST_DB_BASE_LO_BASE_LO = 0 && f F.HST_DB_BASE_HI_BASE_HI = 0) 0x008 0x03
      ++ bad (f F.HST_SQ0_BASE_LO_BASE_LO % 4096 ≠ 0) 0x010 0x02
      ++ bad (en && sqa < cqa + 16 * cq && cqa < sqa + 64 * sq) 0x010 0x03
      ++ bad (f F.HST_CQ0_BASE_LO_BASE_LO % 4096 ≠ 0) 0x018 0x02
      ++ bad (en && (!powerOf2In sq 16 4096 || !powerOf2In cq 16 4096)) 0x020 0x02
  | .arr _ => bad (f F.ARR_CTRL_FREEZE_LIMIT < 256) 0x004 0x02
  | .vec _ =>
    -- R176
    let chs := (keys.map (· - b.base)).filter fun o => decide (0x4000 ≤ o) && decide (o < 0xC000)
    bad (f F.VEC_TS_POLICY_HIST_DEPTH < 1 || f F.VEC_TS_POLICY_HIST_DEPTH > 16 || f F.VEC_TS_POLICY_INIT_EXP = 0x80)
        0x004 0x02
      ++ (if s.admitted then (changed 0x004 0x008 ++ changed 0x4000 0xC000).map fun o => (o, 0x10) else [])
      ++ chs.flatMap fun o =>
          let n := (o - 0x4000) / 8
          let mul := f (F.VEC_CHS_MUL_MUL n)
          let kind0 := f (F.VEC_CHS_CTL_KIND n) = 0
          bad (kind0 && (mul < 0x00800000 || mul ≥ 0x7F800000)) (0x4000 + 8 * n) 0x03
            ++ bad (kind0 && (f (F.VEC_CHS_CTL_SHIFT n) ≠ 0 || f (F.VEC_CHS_CTL_RND n) ≠ 0 || f (F.VEC_CHS_CTL_ZP n) ≠ 0))
              (0x4004 + 8 * n) 0x03
  | .hbm _ =>
    -- R249
    let l := f F.HBM_THERM_CFG_LIGHT_C
    let h := f F.HBM_THERM_CFG_HEAVY_C
    bad (l < 60 || l > 99 || h > 100 || f F.HBM_THERM_CFG_HYST_C = 0) 0x004 0x02
      ++ bad (h ≤ l) 0x004 0x03
      ++ bad (f F.HBM_THR_DUTY_LIGHT = 0 || f F.HBM_THR_DUTY_HEAVY = 0) 0x008 0x02
      ++ bad (f F.HBM_THR_DUTY_HEAVY > f F.HBM_THR_DUTY_LIGHT) 0x008 0x03
  | .nir _ =>
    bad (f F.NIR_CTRL_MAX_VER ≠ 1 && f F.NIR_CTRL_MAX_VER ≠ 2) 0x004 0x01
      ++ bad (f F.NIR_CTRL_UE_LIMIT = 0 || f F.NIR_CTRL_SER_LIMIT = 0) 0x004 0x02
  | .red n =>
    -- R293, R296: the 32 MiB ring lies wholly in this Shuttle's slow tier (R225)
    let base := f F.RED_RING_BASE_LO_BASE_LO + 2 ^ 32 * f F.RED_RING_BASE_HI_BASE_HI
    let lo := 0x10000000000 + n * 2 ^ 39
    (if s.admitted then (changed 0x034 0x040).map fun o => (o, 0x10) else [])
      ++ bad (f F.RED_RING_CTRL_EN = 1 && f F.RED_RING_BASE_LO_BASE_LO % 2 ^ 21 ≠ 0) 0x038 0x03
      ++ bad (f F.RED_RING_CTRL_EN = 1 && !(decide (lo ≤ base) && decide (base + 2 ^ 25 ≤ lo + 2 ^ 39))) 0x038 0x02
  | .pwr =>
    let t := f F.PWR_THERM_CFG_HOOP_THR_C
    let c := f F.PWR_THERM_CFG_HOOP_CRIT_C
    bad (f F.PWR_CTRL_CFG_THR_STEP = 0) 0x010 0x02
      ++ bad (f F.PWR_BRAKE_CFG_BRAKE_W < 600 || f F.PWR_BRAKE_CFG_BRAKE_W > 3400) 0x014 0x02
      ++ bad (t < 70 || t > 114 || c > 115 || f F.PWR_THERM_CFG_HYST_C = 0) 0x018 0x02
      ++ bad (c ≤ t) 0x018 0x03
      ++ bad (f F.PWR_ELEC_CFG_DROOP_MV < 10 || f F.PWR_ELEC_CFG_DROOP_MV > 60 || f F.PWR_ELEC_CFG_ICC_MAX < 10
          || f F.PWR_ELEC_CFG_ICC_MAX > 90) 0x01C 0x02
  | .irq _ =>
    -- R433
    ((keys.map (· - b.base)).filter fun o => decide (0x400 ≤ o) && decide (o < 0x800)).flatMap fun o =>
      let n := (o - 0x400) / 4
      bad (f (F.IRQ_SRC_CFG_FILTER n) = 0) o 0x02
        ++ bad (n ≠ 2 && f (F.IRQ_SRC_CFG_ENABLE n) = 1 && f (F.IRQ_SRC_CFG_TARGET n) = 0 && f (F.IRQ_SRC_CFG_HOST n) = 0)
          o 0x03
  | .pmu d =>
    -- R447
    bad (d < 4 && f F.PMU_SMP_UNITS_UNIT_LO > f F.PMU_SMP_UNITS_UNIT_HI) 0x004 0x03
      ++ bad (d < 4 && f F.PMU_SMP_WMARK_WMARK = 0) 0x008 0x02
      ++ (((keys.map (· - b.base)).filter fun o => decide (0x1000 ≤ o)).flatMap fun o =>
        let set := (o - 0x1000) / 0x100
        let r := o % 0x100
        let v := (w o).toNat
        if d = 5 && set = 5 then bad (v ≠ 0) o 0x01
        else if 0x90 ≤ r && r < 0xB0 then bad (v % 256 > pmuCodes d set) o 0x01
        else if r = 0xB4 then bad (1 ≤ v && v ≤ 999) o 0x02 else [])
  | _ => []

/-- The lowest register that carries a failing field; of several failing checks of one register, the RULE of the first in
`cfgFails` (R68, log entry 15, DESIGN CHOICE). -/
def lowestFail : List (Nat × Nat) → Option (Nat × Nat)
  | [] => none
  | p :: r => match lowestFail r with
    | none => some p
    | some q => if q.1 < p.1 then some q else some p

/-- The die whose interrupt controller sees a block's apply outcome (R427): device-wide blocks by the Shuttle that
carries them. -/
def Blk.irqDie (b : Blk) : Nat :=
  match b with
  | .grid => 5 | .pwr => 5
  | b => if b.die = 7 then 4 else b.die

/-- The apply outcome's event (R68, R426). -/
def State.cfgEvent (s : State) (b : Blk) (rule off : Nat) (refused : Bool) : State :=
  (s.line b.irqDie 1).event
    { type := 2, cls := 0, die := b.die, block := b.index, code := rule, data := (if refused then 1 else 0) + off * 2 ^ 16 }

/-- Move a block's snapshot into force (R68); PEND clears and the applied knot is recorded; at a local tick,
where there is none, the count of local ticks as R425 has it for events (log entry 15, DESIGN CHOICE). -/
def State.cfgTake (s : State) (b : Blk) (snap : Table Word) : State :=
  let s' := (cfgKeys s b snap).foldl (fun t a => t.wr a (cfgWord s snap a)) s
  ((s'.p b F.CFG_REJECT_REJECTED 0).p b F.CFG_APPLIED_KNOT_KNOT_LO (s.knotNow % 2 ^ 32)).p b F.CFG_STATUS_PEND 0

/-- Refuse a snapshot: the old configuration stays (R68). -/
def State.cfgRefuse (s : State) (b : Blk) (rule off : Nat) : State :=
  (((s.p b F.CFG_REJECT_REJECTED 1).p b F.CFG_REJECT_RULE rule).p b F.CFG_REJECT_FIRST_OFFSET off).p b F.CFG_STATUS_PEND 0

/-! ### Ring 0 and the event ring, as their applies leave them -/

/-- Commands of a ring that has gone complete silently (R323, R346). -/
def State.silence (s : State) (i : Nat) : State :=
  { s with cmds := s.cmds.map fun c => if c.ring = i then { c with silent := true } else c
           queue := s.queue.map fun q => if q.ring = i then { q with silent := true } else q
           run := s.run.map fun r => if r.q.ring = i then { r with q := { r.q with silent := true } } else r }

/-- The effect of an accepted HST_ apply on ring 0 (R346). -/
def State.hstEffect (old s : State) : State :=
  let en := s.gb .hst F.HST_CTRL_RING0_EN
  let was := old.gb .hst F.HST_CTRL_RING0_EN
  let key (t : State) : List Word := [0x010, 0x014, 0x018, 0x01C, 0x020].map fun o => t.rd (Blk.hst.base + o)
  if !en then (if was then (s.silence 0).setRing 0 none else s)
  else if !was || key old != key s then
    s.setRing 0 (some {
      vector := 0
      sqN := s.g .hst F.HST_RING0_SIZE_SQ_ENTRIES
      cqN := s.g .hst F.HST_RING0_SIZE_CQ_ENTRIES
      sqBase := s.g2 .hst F.HST_SQ0_BASE_LO_BASE_LO F.HST_SQ0_BASE_HI_BASE_HI
      cqBase := s.g2 .hst F.HST_CQ0_BASE_LO_BASE_LO F.HST_CQ0_BASE_HI_BASE_HI })
  else s

/-- The effect of an accepted DEV_ apply on the event ring: HEAD and TAIL return to 0 when it moves or changes size (R74). -/
def State.devEffect (old s : State) : State :=
  let key (t : State) : List Word := [0x044, 0x048, 0x058].map fun o => t.rd (Blk.dev.base + o)
  if key old != key s then
    let s := (s.p .dev F.DEV_EVT_HEAD_HEAD 0).p .dev F.DEV_EVT_TAIL_TAIL 0
    { (s.p .dev F.DEV_EVT_STATUS_DROPPED 0).p .dev F.DEV_EVT_STATUS_OVERFLOW 0 with evtPhase := true, evtOwed := false }
  else s

/-- The effect of an accepted GRID_ apply: on the root, a new interval takes effect at knot j + 4 (R46). A device that is
no root shows its own interval in no register but GRID_KNOT_INT (R43). -/
def State.gridEffect (old s : State) : State :=
  let i := s.g .grid F.GRID_KNOT_INT_INTERVAL
  if s.isRoot && i ≠ old.g .grid F.GRID_KNOT_INT_INTERVAL then
    { s with grid := { s.grid with chg := some ((s.grid.knot + 4) % 2 ^ 48, i) } }
  else s

/-- The effect of an accepted PMU_ apply: counters whose EVENT, MODE or WIN changed restart, and a change of the window
restarts every windowed counter of the set (R437, R439). -/
def State.pmuEffect (old s : State) (d : Nat) : State :=
  s.forN (if d < 4 then 17 else 6) fun k s =>
    let b := Blk.pmu d
    let base := b.base + 0x1000 + 0x100 * k
    let win := [0xB0, 0xB4].any fun o => old.rd (base + o) != s.rd (base + o)
    let s := if win then
        { s with winEnd := tput 0 s.winEnd (32 * d + k) ((s.grid.time + nsT (s.rd (base + 0xB4)).toNat) % 2 ^ 64) }
      else s
    s.forN 8 fun n s =>
      let cfg := s.rd (base + 0x90 + 4 * n)
      if old.rd (base + 0x90 + 4 * n) != cfg || (win && cfg.toNat / 512 % 2 == 1) then
        (s.wr (base + 0x08 + 8 * n) 0).wr (base + 0x0C + 8 * n) 0
      else s

end Sys2Proof.Machine
end

