-- ==== Sys2Proof/Machine/Gate.lean ====
section
/-! DEFINITION. Which BAR0 writes the device takes: start-up, the fail-safe state and the control level (R64, R329, R393,
R421), and the record of the others in the event ring. -/

namespace Sys2Proof.Machine

/-- The MSI-X table of the host port (R320). -/
def inMsixTable (a : Nat) : Bool := decide (Blk.hst.base + 0x8000 ≤ a) && decide (a < Blk.hst.base + 0x8400)

/-- Does any register, or the MSI-X table, lie at this offset (R63)? -/
def regExists (a : Nat) : Bool := (regInfo a).isSome || inMsixTable a

/-- What the basic control level may write (R329). -/
def basicWritable (a : Nat) : Bool :=
  match blkAt a with
  | some .hst => true
  | some .dev => [0x30, 0x34, 0x38, 0x44, 0x48, 0x4C, 0x50, 0x54, 0x58, 0xFF00].contains (a % 0x10000)
  | some (.pmu _) => true
  | _ => false

/-- WRITE_IGNORED (R426): why, and where.
Readings: log entry 9, DEDUCED. -/
def State.writeIgnored (s : State) (code a : Nat) : State :=
  let b := (blkAt a).getD .dev
  s.event { type := 3, cls := 0, die := b.die, block := b.index, code := code, data := a % 2 ^ 26 }

/-- Run a 32-bit host write's effect where the device takes it: a link, READY, and the control level; in the fail-safe
state only the event tail and the MSI-X table (R329, R393, R421). A write where no register lies is ignored (R63). -/
def State.hostWrite (s : State) (a : Nat) (f : State → State) : State :=
  if !s.hostUp || !regExists a then s
  else if s.fatalSet then (if a = Blk.dev.base + F.DEV_EVT_TAIL_TAIL.off || inMsixTable a then f s else s)
  else if !s.ready then s
  else if !s.expert && !basicWritable a then s.writeIgnored 2 a
  else f s

end Sys2Proof.Machine
end

