-- ==== Sys2Proof/Machine/Image.lean ====
section
/-! DEFINITION. The pricking image as bytes: header, directory, sections, slot entries, segments, and the mapping of
reference positions to a pace class (R78 to R96, R87, R88). -/

namespace Sys2Proof.Machine

abbrev Image := List Byte

/-- Offset and size of section i (R78, R79). -/
def Image.secOff (im : Image) (i : Nat) : Nat := leAt im (0x30 + 8 * i) 4
def Image.secSize (im : Image) (i : Nat) : Nat := leAt im (0x34 + 8 * i) 4
def Image.sec (im : Image) (i : Nat) : List Byte := (im.drop (im.secOff i)).take (im.secSize i)

/-- Entry k of section i with entries of n bytes. -/
def Image.entry (im : Image) (i n k : Nat) : List Byte := (im.drop (im.secOff i + n * k)).take n

def Image.knotInt (im : Image) : Nat := leAt im 0x10 4
def Image.segCount (im : Image) : Nat := leAt im 0x14 1
def Image.lcCount (im : Image) : Nat := leAt im 0x15 1
def Image.mbCount (im : Image) : Nat := leAt im 0x16 2
def Image.jobId (im : Image) : Nat := leAt im 0x18 8
def Image.rank (im : Image) : Nat := leAt im 0x20 2
def Image.rankM1 (im : Image) : Nat := leAt im 0x22 2
def Image.digest (im : Image) : List Byte := (im.drop 0xC0).take 32

/-- Split a byte string into entries of n bytes. -/
def chunks (n : Nat) : Nat → List Byte → List (List Byte)
  | 0, _ => []
  | k + 1, bs => bs.take n :: chunks n k (bs.drop n)

def entries (n : Nat) (bs : List Byte) : List (List Byte) := chunks n (bs.length / n) bs

/-- A slot entry (R81). -/
def slotOf (b : List Byte) : SlotEntry :=
  let w0 := leAt b 0 4
  let w1 := leAt b 4 4
  let w3 := leAt b 12 4
  { knotOfs := bits w0 15 0, action := bits w0 23 16, unit := bits w0 31 24, startNs := bits w1 19 0, mb := bits w1 30 20
    operand := leAt b 8 4, dlNs := bits w3 19 0, dlKnots := bits w3 27 20, chain := bit w3 28, raw := b }

def Image.slotTable (im : Image) (die : Nat) : List SlotEntry := (entries 16 (im.sec die)).map slotOf

/-- A segment (R86). -/
structure Segment where
  ref : Nat
  scaled : Bool
  phase : Nat
deriving DecidableEq, Repr

def Image.segments (im : Image) : List Segment :=
  (entries 8 (im.sec 10)).map fun b => ⟨leAt b 0 2, leAt b 2 1 == 1, leAt b 3 1⟩

/-- Pace classes (R87): rating in W, operating point, duty, NUM, DEN, and the array clock in tenths of GHz. -/
structure PaceClass where
  rating : Nat
  op : Nat
  duty : Nat
  num : Nat
  den : Nat
  f10 : Nat
deriving DecidableEq, Repr

def paceClass (c : Nat) : PaceClass :=
  if c = 0 then ⟨3400, 15, 16, 1, 1, 36⟩ else if c = 1 then ⟨3000, 14, 16, 18, 17, 34⟩
  else if c = 2 then ⟨1500, 5, 16, 9, 4, 16⟩ else ⟨600, 0, 5, 96, 5, 6⟩

/-- Length of a segment at a class (R88). -/
def segLen (pc : PaceClass) (g : Segment) : Nat := if g.scaled then ceilDiv (g.ref * pc.num) pc.den else g.ref

/-- Rated pace at a class, in knots (R89). -/
def ratedPace (pc : PaceClass) (gs : List Segment) : Nat := (gs.map (segLen pc)).foldl (· + ·) 0

/-- Map a reference position (ns from the step's first knot) into (knot, offset) at a class (R88). The position is taken
in the first segment that holds it; `dl` takes the segment's end knot as inside the segment. -/
def mapPos (pc : PaceClass) (interval : Nat) (dl : Bool) : List Segment → (refStart clsStart pos : Nat) → Nat × Nat
  | [], _, k, _ => (k, 0)
  | g :: gs, r, k, pos =>
    let endRef := (r + g.ref) * interval
    if pos < endRef || (dl && pos = endRef) then
      if dl && pos = endRef then (k + segLen pc g, 0)
      else
        let u := pos - r * interval
        let u2 := if g.scaled then ceilDiv (u * pc.num) pc.den else u
        (k + u2 / interval, u2 % interval)
    else mapPos pc interval dl gs (r + g.ref) (k + segLen pc g) pos

/-- A LINK start moves up to the next scheduled-slot start of the interval, or to the first slot of the next knot
(R88, R256). -/
def linkUp (interval : Nat) (p : Nat × Nat) : Nat × Nat :=
  let o := ceilDiv p.2 64 * 64
  if o + 64 ≤ interval then (p.1, o) else (p.1 + 1, 0)

def isLink (a : Nat) : Bool := a == 5 || a == 6

def slotStart (pc : PaceClass) (im : Image) (e : SlotEntry) : Nat × Nat :=
  let p := mapPos pc im.knotInt false im.segments 0 0 (e.knotOfs * im.knotInt + e.startNs)
  if isLink e.action then linkUp im.knotInt p else p

def slotDeadline (pc : PaceClass) (im : Image) (e : SlotEntry) : Nat × Nat :=
  mapPos pc im.knotInt true im.segments 0 0 ((e.knotOfs + e.dlKnots) * im.knotInt + e.dlNs)

/-- Reference knot at which the first PHASE 5 segment starts, at a class; the step's length when there is none
(R86, R165). -/
def verdictOfs (pc : PaceClass) (gs : List Segment) : Nat :=
  ratedPace pc (gs.takeWhile fun g => g.phase != 5)

def hasPhase5 (gs : List Segment) : Bool := gs.any fun g => g.phase == 5

/-- Phase of the segment that holds a knot offset of the running step at a class. -/
def phaseAt (pc : PaceClass) : List Segment → Nat → Nat
  | [], _ => 0
  | g :: gs, k => if k < segLen pc g then g.phase else phaseAt pc gs (k - segLen pc g)

/-- MAX_LEN of the class of a micro-batch (R91). -/
def Image.maxLen (im : Image) (mb : Nat) : Nat :=
  let cls := leAt (im.entry 12 2 mb) 0 2 % 8
  leAt (im.entry 11 8 cls) 0 4 % 2 ^ 21

/-! ### Descriptor access of an admitted pricking -/

def Pricking.im (p : Pricking) : Image := p.image
def Pricking.pc (p : Pricking) : PaceClass := paceClass p.pace
def Pricking.pass (p : Pricking) (k : Nat) : List Byte := Image.entry p.image 7 64 k
def Pricking.vxop (p : Pricking) (k : Nat) : List Byte := Image.entry p.image 8 32 k
def Pricking.stream (p : Pricking) (k : Nat) : List Byte := Image.entry p.image 6 64 k
def Pricking.slot (p : Pricking) (die i : Nat) : Option SlotEntry := (p.slots.getD die [])[i]?

end Sys2Proof.Machine
end

