-- ==== Sys2Proof/Machine/Rated.lean ====
section
/-! DEFINITION. Array domains and clocks, the power cap, the effective class and the rated point (R350 to R359), and the
rate each array runs at. -/

namespace Sys2Proof.Machine

/-! ### Array domains (R350, R352) -/

def State.domainSet (s : State) (n : Nat) (on : Bool) : State :=
  if n < 32 then s.pb .pwr ⟨F.PWR_DOMAINS_LO_ON.off, n, 1⟩ on else s.pb .pwr ⟨F.PWR_DOMAINS_HI_ON.off, n - 32, 1⟩ on

def State.domainOn (s : State) (n : Nat) : Bool :=
  if n < 32 then s.gb .pwr ⟨F.PWR_DOMAINS_LO_ON.off, n, 1⟩ else s.gb .pwr ⟨F.PWR_DOMAINS_HI_ON.off, n - 32, 1⟩

def arrayDomain (a : Nat) : Nat := 7 * (a / 2) + a % 2

/-! ### Cycle counts (R434, R435) -/

/-- Clock of a set in tenths of GHz (R434). -/
def State.setClock (s : State) (die k : Nat) : Nat :=
  if die < 4 then
    if k ≤ 1 then 6 + 2 * s.g (.arr (2 * die + k)) F.ARR_STATUS_OP
    else if 7 ≤ k ∧ k ≤ 12 then 16 else 18
  else 16

/-- Cycles of a clock up to a local time. -/
def cyclesAt (f10 t : Nat) : Nat := t * f10 / (10 * 2 ^ 16)

/-- The cycle counter of a set (R435): while an array's domain is off it holds. -/
def State.cycOf (s : State) (die k : Nat) : Nat :=
  let key := die * 32 + k
  let off := die < 4 && k ≤ 1 && s.g .pwr ⟨F.PWR_DOMAINS_LO_ON.off, arrayDomain (2 * die + k), 1⟩ == 0
  let acc := tget 0 s.cycAcc key
  if off then acc % 2 ^ 64
  else (acc + (cyclesAt (s.setClock die k) s.grid.time + 2 ^ 64 - tget 0 s.cycFrom key)) % 2 ^ 64

/-- Fix the cycle counter of a set at a value, counting on from now. -/
def State.cycSet (s : State) (die k v : Nat) : State :=
  let key := die * 32 + k
  { s with cycAcc := tput 0 s.cycAcc key v
           cycFrom := tput 0 s.cycFrom key (cyclesAt (s.setClock die k) s.grid.time) }

/-- Run a change of an array's clock or domain without losing cycles counted so far (R435). -/
def State.keepCycles (s : State) (a : Nat) (f : State → State) : State :=
  let v := s.cycOf (a / 2) (a % 2)
  (f s).cycSet (a / 2) (a % 2) v

/-- Does the admitted pricking have an ARRAY_PASS slot with V above zero on array a? -/
def Pricking.usesArray (p : Pricking) (a : Nat) : Bool :=
  (p.slots.getD (a / 2) []).any fun e =>
    e.action == 1 && e.unit == a % 2 && bits (leAt (p.pass e.operand) 4 4) 12 0 != 0

/-- Array domains as R352 has them: all on with ARR_GATE clear, those the admitted pricking uses with it set, none in
the fail-safe state; a domain switched off loses its state. -/
def State.gateArrays (s : State) : State := s.forN 8 fun a s =>
  let on := !s.fatalSet &&
    (!s.gb .pwr F.PWR_CTRL_CFG_ARR_GATE || (match s.img with | some p => p.usesArray a | none => false))
  let was := s.domainOn (arrayDomain a)
  let s := s.keepCycles a (·.domainSet (arrayDomain a) on)
  if was && !on then
    { s with arrays := tmod {} s.arrays a fun u => { u with passes := [], buf0 := none, buf1 := none, drain := [], held := [] } }
  else s

/-! ### The power cap (R353, R355, R369) -/

/-- Attachment rating of a CLS code (R353). -/
def attachRating (code : Nat) : Nat := if code = 1 then 1500 else if code = 2 then 3000 else if code = 3 then 3400 else 600

/-- Pace class of a CLS code (R353). -/
def codeClass (code : Nat) : Nat := if code = 1 then 2 else if code = 2 then 1 else if code = 3 then 0 else 3

/-- Fastest class whose rating does not exceed a number of W (R87). -/
def fastestClass (w : Nat) : Nat := if w ≥ 3400 then 0 else if w ≥ 3000 then 1 else if w ≥ 1500 then 2 else 3

/-- The four caps with their sources, in the order that settles a tie (R355, R369): brake, attachment, host, management. -/
def State.caps (s : State) : List (Nat × Nat) :=
  (if s.gb .pwr F.PWR_STATUS_BRAKE then [(s.g .pwr F.PWR_BRAKE_CFG_BRAKE_W, 4)] else [])
    ++ [(attachRating (s.g .pwr F.PWR_STATUS_CLASS), 1), (s.g .pwr F.PWR_CAP_HOST_CAP, 2), (s.g .pwr F.PWR_CAP_MGT_CAP, 3)]

def leastCap : List (Nat × Nat) → Nat × Nat
  | [] => (3400, 2)
  | [c] => c
  | c :: r => let m := leastCap r; if m.1 < c.1 then m else c

/-! ### The rate of the arrays (R357, R359, R363) -/

/-- Bring an array to an operating point: down at once, up once the voltage has settled (R359). -/
def State.arrayOp (s : State) (a op : Nat) : State :=
  let cur := s.g (.arr a) F.ARR_STATUS_OP
  let s := { s with arrays := tmod {} s.arrays a fun u => { u with opTarget := if cur < op then some op else none } }
  if op < cur then s.keepCycles a (·.p (.arr a) F.ARR_STATUS_OP op) else s

/-- Every array runs at the lowest point and the lowest duty that any rule sets (R357, R361, R363, R364, R366). -/
def State.arrayRates (s : State) : State := s.forN 8 fun a s =>
  let s := s.arrayOp a (min s.pwr.op (tget 15 s.pwr.thermOp (a / 2)))
  s.p (.arr a) F.ARR_STATUS_DUTY (min (min (s.g .pwr F.PWR_STATUS_RATED_DUTY) (s.g .pwr F.PWR_THR_ACTIVE_POWER_DUTY))
    (min (tget 16 s.pwr.thermDuty (a / 2)) (tget {} s.arrays a).droop))

/-- Form the cap in force, the effective class and the rated point (R87, R355, R357). A point or duty that power does not
hold down follows the rated point; no actuator stays above it (log entry 27, DEDUCED). -/
def State.refreshPower (s : State) : State :=
  let (cap, src) := leastCap s.caps
  let eff := fastestClass (min (attachRating (s.g .pwr F.PWR_STATUS_CLASS)) cap)
  let pc := paceClass (match s.img with | some p => p.pace | none => eff)
  let op0 := s.g .pwr F.PWR_STATUS_RATED_OP
  let d0 := s.g .pwr F.PWR_STATUS_RATED_DUTY
  let dp := s.g .pwr F.PWR_THR_ACTIVE_POWER_DUTY
  let s := ((s.p .pwr F.PWR_CAP_IN_FORCE cap).p .pwr F.PWR_CAP_SOURCE src).p .pwr F.PWR_STATUS_EFF_CLASS eff
  let s := (s.p .pwr F.PWR_STATUS_RATED_OP pc.op).p .pwr F.PWR_STATUS_RATED_DUTY pc.duty
  let s := { s with pwr := { s.pwr with op := if s.pwr.op ≥ op0 then pc.op else min s.pwr.op pc.op } }
  let s := if d0 = pc.duty then s else s.p .pwr F.PWR_THR_ACTIVE_POWER_DUTY (if dp ≥ d0 then pc.duty else min dp pc.duty)
  s.arrayRates

end Sys2Proof.Machine
end

