-- ==== Sys2Proof/Machine/Wire.lean ====
section
/-! DEFINITION. Ordered sets and control flits on a Nirid lane, byte for byte, with their CRC-32
(R261, R263, R264, R266 to R271, R35, R49). -/

namespace Sys2Proof.Machine

/-- One bit of CRC-32 of IEEE 802.3, reflected. -/
def crcBit (c : Nat) : Nat := if c % 2 = 1 then Nat.xor (c / 2) 0xEDB88320 else c / 2

def crcByte (c : Nat) (b : Byte) : Nat :=
  let x := Nat.xor c b.toNat
  crcBit (crcBit (crcBit (crcBit (crcBit (crcBit (crcBit (crcBit x)))))))

/-- CRC-32 of IEEE 802.3 over a byte string (R261, R264, R270). -/
def crc32 (bs : List Byte) : Nat := Nat.xor (bs.foldl crcByte 0xFFFFFFFF) 0xFFFFFFFF

/-! ### Contents -/

/-- A beacon (R35, R266). -/
structure Beacon where
  rootId : Nat
  epoch : Nat
  hop : Nat
  sendTime : Nat
  nextKnot : Nat
  t0 : Nat
  t1 : Nat
  interval : Nat
  stretch : Nat
  backupId : Nat
  voidStep : Bool
  intChg : Nat
deriving DecidableEq, Repr

/-- A snag (R49, R268). -/
structure Snag where
  cause : Nat
  target : Nat
  lateness : Nat
  sSeen : Nat
  rank : Nat
  stepEnd : Nat
deriving DecidableEq, Repr

/-- A FAULT (R269). -/
structure FaultSet where
  rank : Nat
  noPricking : Bool
  die : Nat
  code : Nat
  knot : Nat
  identity : Nat
  stepEnd : Nat
deriving DecidableEq, Repr

/-- A DELAY_REQ, and a DELAY_RESP with its times and PATH (R267). -/
structure DelayReq where
  seq : Nat
  t1 : Nat
deriving DecidableEq, Repr

structure DelayResp where
  seq : Nat
  t1 : Nat
  t2 : Nat
  t3 : Nat
  path : Nat
  valid : Bool
deriving DecidableEq, Repr

/-- A SLOT_CHECK (R270). -/
structure SlotCheck where
  slot : Nat
  knot : Nat
  map : Nat
  crc : Nat
  ctlAck : Nat
  credit : Nat
  nak : Bool
deriving DecidableEq, Repr

/-- A TRAIN (R271). -/
structure Train where
  state : Nat
  maxVer : Nat
  precode : Bool
  ack : Bool
  switch : Bool
  identity : Nat
  fwdSlots : Nat
  lane : Nat
deriving DecidableEq, Repr

/-- Pad a content to bytes 0 to 59 and append the CRC (R264). -/
def osSeal (bs : List Byte) : List Byte :=
  let c := bs ++ List.replicate (60 - bs.length) 0#8
  c ++ leBytes 4 (crc32 c)

def encBeacon (b : Beacon) : List Byte :=
  osSeal (leBytes 1 1 ++ leBytes 1 (b.hop % 32 + if b.voidStep then 32 else 0) ++ leBytes 1 b.epoch ++ leBytes 1 b.intChg
    ++ leBytes 8 b.rootId ++ leBytes 8 b.sendTime ++ leBytes 8 (b.nextKnot % 2 ^ 48) ++ leBytes 8 b.t0 ++ leBytes 8 b.t1
    ++ leBytes 4 b.stretch ++ leBytes 8 b.backupId ++ leBytes 4 (b.interval % 2 ^ 20))

def encSnag (x : Snag) : List Byte :=
  osSeal (leBytes 1 4 ++ leBytes 1 (x.cause % 16) ++ leBytes 2 x.target ++ leBytes 2 x.lateness ++ leBytes 3 x.sSeen
    ++ leBytes 1 0 ++ leBytes 2 (x.rank % 2 ^ 15) ++ leBytes 6 x.stepEnd)

def encFault (x : FaultSet) : List Byte :=
  osSeal (leBytes 1 5 ++ leBytes 2 (x.rank % 2 ^ 15 + if x.noPricking then 2 ^ 15 else 0) ++ leBytes 1 x.die
    ++ leBytes 1 x.code ++ leBytes 1 0 ++ leBytes 6 x.knot ++ leBytes 8 x.identity ++ leBytes 6 x.stepEnd)

def encDelayReq (x : DelayReq) : List Byte :=
  osSeal (leBytes 1 2 ++ leBytes 1 x.seq ++ leBytes 2 0 ++ leBytes 8 x.t1)

def encDelayResp (x : DelayResp) : List Byte :=
  osSeal (leBytes 1 3 ++ leBytes 1 x.seq ++ leBytes 2 0 ++ leBytes 8 x.t1 ++ leBytes 8 x.t2 ++ leBytes 8 x.t3
    ++ leBytes 4 (x.path % 2 ^ 20 + if x.valid then 2 ^ 31 else 0))

def encTrain (x : Train) : List Byte :=
  osSeal (leBytes 1 6 ++ leBytes 1 x.state ++ leBytes 1 x.maxVer
    ++ leBytes 1 ((if x.precode then 1 else 0) + (if x.ack then 2 else 0) + (if x.switch then 4 else 0))
    ++ leBytes 8 x.identity ++ leBytes 1 x.fwdSlots ++ leBytes 1 x.lane)

def encPortDown (reason : Nat) : List Byte := osSeal (leBytes 1 7 ++ leBytes 1 reason)

def encSlotCheck (x : SlotCheck) : List Byte :=
  osSeal (leBytes 1 0x10 ++ leBytes 1 0 ++ leBytes 2 x.slot ++ leBytes 6 x.knot ++ leBytes 2 0 ++ leBytes 8 (x.map % 2 ^ 50)
    ++ leBytes 4 x.crc ++ leBytes 2 x.ctlAck ++ leBytes 1 x.credit ++ leBytes 1 (if x.nak then 1 else 0))

/-! ### Receiving -/

/-- What arrives in a place of a frame: IDLE, a set of a known TYPE whose CRC checks, or one to drop (R264). -/
inductive OsRx where
  | idle
  | set (type : Nat) (bytes : List Byte)
  | drop
deriving DecidableEq, Repr

def osRx (os : OrdSet) : OsRx :=
  let bs := leBytes 64 os.toNat
  if os = 0 then .idle
  else if crc32 (bs.take 60) ≠ leAt bs 60 4 then .drop
  else
    let t := leAt bs 0 1
    if t = 0x10 || (1 ≤ t && t ≤ 7) then .set t bs else .drop

/-- The bytes of a set of the TYPE that a receive event names. -/
def osOf (type : Nat) (os : OrdSet) : Option (List Byte) :=
  match osRx os with
  | .set t bs => if t = type then some bs else none
  | _ => none

def decBeacon (os : OrdSet) : Option Beacon :=
  (osOf 1 os).map fun b =>
    { rootId := leAt b 4 8, epoch := leAt b 2 1, hop := leAt b 1 1 % 32, sendTime := leAt b 12 8
      nextKnot := leAt b 20 6, t0 := leAt b 28 8, t1 := leAt b 36 8, interval := leAt b 56 4 % 2 ^ 20
      stretch := leAt b 44 4, backupId := leAt b 48 8, voidStep := bit (leAt b 1 1) 5, intChg := leAt b 3 1 }

def decSnag (os : OrdSet) : Option Snag :=
  (osOf 4 os).map fun b =>
    { cause := leAt b 1 1 % 16, target := leAt b 2 2, lateness := leAt b 4 2, sSeen := leAt b 6 3
      rank := leAt b 10 2 % 2 ^ 15, stepEnd := leAt b 12 6 }

def decFault (os : OrdSet) : Option FaultSet :=
  (osOf 5 os).map fun b =>
    { rank := leAt b 1 2 % 2 ^ 15, noPricking := bit (leAt b 1 2) 15, die := leAt b 3 1 % 8, code := leAt b 4 1
      knot := leAt b 6 6, identity := leAt b 12 8, stepEnd := leAt b 20 6 }

def decDelayReq (os : OrdSet) : Option DelayReq := (osOf 2 os).map fun b => ⟨leAt b 1 1, leAt b 4 8⟩

def decDelayResp (os : OrdSet) : Option DelayResp :=
  (osOf 3 os).map fun b =>
    ⟨leAt b 1 1, leAt b 4 8, leAt b 12 8, leAt b 20 8, leAt b 28 4 % 2 ^ 20, bit (leAt b 28 4) 31⟩

def decTrain (os : OrdSet) : Option Train :=
  (osOf 6 os).map fun b =>
    { state := leAt b 1 1, maxVer := leAt b 2 1, precode := bit (leAt b 3 1) 0, ack := bit (leAt b 3 1) 1
      switch := bit (leAt b 3 1) 2, identity := leAt b 4 8, fwdSlots := leAt b 12 1, lane := leAt b 13 1 }

def decSlotCheck (os : OrdSet) : Option SlotCheck :=
  (osOf 0x10 os).map fun b =>
    { slot := leAt b 2 2, knot := leAt b 4 6, map := leAt b 12 8 % 2 ^ 50, crc := leAt b 20 4, ctlAck := leAt b 24 2
      credit := leAt b 26 1, nak := bit (leAt b 27 1) 0 }

/-! ### Control flits (R261, R263) -/

def ctlSeal (bs : List Byte) : List Byte :=
  let c := bs ++ List.replicate (252 - bs.length) 0#8
  c ++ leBytes 4 (crc32 c)

def encCtl (seq : Nat) (m : CtlMsg) : List Byte :=
  match m with
  | .null => ctlSeal []
  | .release d r f k => ctlSeal (leBytes 1 1 ++ leBytes 1 0 ++ leBytes 2 seq ++ leBytes 2 12 ++ leBytes 2 0
      ++ leBytes 2 d ++ leBytes 2 r ++ leBytes 2 f ++ leBytes 2 0 ++ leBytes 4 k)
  | .joinReport i r e h b p => ctlSeal (leBytes 1 2 ++ leBytes 1 0 ++ leBytes 2 seq ++ leBytes 2 32 ++ leBytes 2 0
      ++ leBytes 8 i ++ leBytes 8 r ++ leBytes 1 e ++ leBytes 1 h ++ leBytes 1 (if b then 1 else 0) ++ leBytes 1 0
      ++ leBytes 4 p ++ leBytes 8 0)
  | .other m => ctlSeal (leBytes 1 m ++ leBytes 1 0 ++ leBytes 2 seq)

/-- A received control flit: its SEQ and message, or none when the CRC fails (R261). -/
def decCtl (f : CtlFlit) : Option (Nat × CtlMsg) :=
  let b := leBytes 256 f.toNat
  if crc32 (b.take 252) ≠ leAt b 252 4 then none else
  let m := leAt b 0 1
  some (leAt b 2 2,
    if m = 0 then .null
    else if m = 1 then .release (leAt b 8 2) (leAt b 10 2) (leAt b 12 2) (leAt b 16 4)
    else if m = 2 then .joinReport (leAt b 8 8) (leAt b 16 8) (leAt b 24 1) (leAt b 25 1) (leAt b 26 1 == 1) (leAt b 28 4)
    else .other m)

end Sys2Proof.Machine
end

