-- ==== Sys2Proof/Machine/Control.lean ====
section
/-! DEFINITION. What every error comes to: snags, the void of a step, the withdrawal of admission, the end of a step and
the fail-safe state (R42, R48 to R53, R108, R133, R186, R193, R221, R291, R294, R312, R332, R343, R415 to R424). -/

namespace Sys2Proof.Machine

/-! ### Sensor events (R411) -/

/-- Queue a sensor event: the oldest is dropped from a full queue; ALERT# and the in-band interrupt follow. -/
def State.sensor (s : State) (e : SensorEvent) : State :=
  let s := if s.sensorQ.length ≥ 32 then
      let s := s.inc .mgt F.MGT_EVT_DROPPED_COUNT 1
      { s with sensorQ := s.sensorQ.drop 1, mgt := { s.mgt with evtId := s.mgt.evtId % 0xFFFE + 1 } }
    else s
  let s := { s with sensorQ := s.sensorQ ++ [e] }
  let s := (s.p .mgt F.MGT_STATUS_EVT_QUEUED s.sensorQ.length).p .mgt F.MGT_STATUS_ALERT 1
  if s.gb .mgt F.MGT_STATUS_IBI_EN && s.gb .mgt F.MGT_STATUS_DA_VALID then s.emit (.ibi 0xAE) else s

/-- A change of a state sensor (R410, R411); nothing when the state stays. -/
def State.sensorState (s : State) (id offset old new : Nat) : State :=
  if old = new then s else s.sensor ⟨id, offset, true, new, old⟩

/-! ### Errors as the event ring shows them -/

/-- A unit's error: its event with class, instance, error code and slot (R134, R426). -/
def State.unitErr (s : State) (b : Blk) (inst cls code slot : Nat) : State :=
  s.event { type := 0x30, cls := cls, die := b.die, block := b.index, inst := inst, code := code, data := slot }

/-! ### Bobbin state words -/

def Arm.kind (a : Arm) : Nat := leAt a.desc 0 4 % 16

/-- Bring BOB_STATUS_n and BOB_REARM_PEND in line with the arms of a bobbin (R212, R224). -/
def State.bobSync (s : State) (die n : Nat) : State :=
  let mine := s.arms.filter fun a => a.die == die && a.bobbin == n
  let live := (mine.filter fun a => a.phase == .live).length
  let pend := mine.any fun a => a.phase == .pending
  let f (x : Fld) : Fld := ⟨x.off + 0x40 * n, x.lo, x.w⟩
  let s := (s.p (.bob die) (f ⟨0, 0, 3⟩) live).pb (.bob die) (f ⟨0, 3, 1⟩) pend
  s.pb (.bob die) ⟨0x800, n, 1⟩ pend

def bobbins (die : Nat) : Nat := if die < 4 then 32 else 8

def State.bobSyncAll (s : State) : State := s.forN 6 fun d s => s.forN (bobbins d) fun n s => s.bobSync d n

/-! ### Counters (R434, R436) -/

/-- A register of counter set k in its die's window (R434). -/
def setFld (k : Nat) (x : Fld) : Fld := ⟨x.off + 0x1000 + 0x100 * k, x.lo, x.w⟩

def setsOf (die : Nat) : Nat := if die < 4 then 17 else 6

/-- Is a windowed counter of the set enabled: is its window's length above zero (R439)? -/
def State.winOn (s : State) (die k : Nat) : Bool :=
  let b := Blk.pmu die
  if s.g b (setFld k F.PMU_WIN_CFG_UNIT) = 0 then s.g b (setFld k F.PMU_WIN_CFG_KNOTS) != 0
  else s.g b (setFld k F.PMU_WIN_NS_NS) != 0

/-- Add to counter n of a set, modulo 2^48; a wrap pulses source 128 + k (R436). -/
def State.ctrAdd (s : State) (die k n amount : Nat) : State :=
  let b := Blk.pmu die
  let v := s.g2 b (setFld k (F.PMU_CTR_LO_CTR_LO n)) (setFld k (F.PMU_CTR_HI_CTR_HI n)) + amount
  let s := s.p2 b (setFld k (F.PMU_CTR_LO_CTR_LO n)) (setFld k (F.PMU_CTR_HI_CTR_HI n)) (v % 2 ^ 48)
  if v ≥ 2 ^ 48 then s.line die (128 + k) else s

/-- An event of a unit, with its amount: every counter of the set that selects it counts, LEVEL the amount, EDGE one
occurrence (R436, R438).
Readings: log entry 18, DESIGN CHOICE. -/
def State.count (s : State) (die k ev amount : Nat) : State :=
  if amount = 0 || !(s.regs.any fun p => decide ((Blk.pmu die).base + 0x1000 ≤ p.1) && decide (p.1 < (Blk.pmu die).base + 0x3000))
  then s
  else s.forN 8 fun n s =>
    let b := Blk.pmu die
    let w := s.rd (b.base + 0x1000 + 0x100 * k + 0x90 + 4 * n)
    if fldGet ⟨0, 0, 8⟩ w ≠ ev || (bit w.toNat 9 && !s.winOn die k) then s
    else s.ctrAdd die k n (if bit w.toNat 8 then 1 else amount)

/-! ### Stopping the units (R418) -/

/-- Freeze and hold cycles that the passes inside an array have had so far: counted cycle by cycle, as many as free values
say (R124).
Readings: log entry 51, DEDUCED. -/
def State.arrFreezes (s : State) (a : Nat) : State :=
  if !(tget {} s.arrays a).passes.any (·.begun) then s
  else
    let n (i : Nat) : Nat := Config.free (s.fresh + i) % 2 ^ 32
    let b := Blk.arr a
    let t := ((s.inc b F.ARR_FRZ_FEED_CYCLES (n 0)).inc b F.ARR_FRZ_DRAIN_CYCLES (n 1)).inc b F.ARR_FRZ_HOLD_CYCLES (n 2)
    ((t.count (a / 2) (a % 2) 3 (n 0)).count (a / 2) (a % 2) 4 (n 1)).draw.draw.draw

/-- Arrays abandon their passes and run empty (R133). -/
def State.stopArrays (s : State) : State := s.forN 8 fun a s =>
  let s := s.arrFreezes a
  let s := { s with arrays := tmod {} s.arrays a fun u => { u with passes := [], held := [] } }
  (((s.p (.arr a) F.ARR_STATUS_BUSY 0).p (.arr a) F.ARR_STATUS_HOLD 0).p (.arr a) F.ARR_STATUS_EMPTY 1).p (.arr a)
    F.ARR_CUR_SLOT_VALID 0

/-- Vector units abandon their operation and run empty (R193). -/
def State.stopVectors (s : State) : State := s.forN 4 fun h s =>
  let s := { s with units := tput none s.units (8 * h) none }
  ((s.p (.vec h) F.VEC_OP_STATUS_BUSY 0).p (.vec h) F.VEC_OP_STATUS_EMPTY 1).p (.vec h) F.VEC_OP_SLOT_VALID 0

/-- Transposing buffers stop; a half that was loading is empty (R186). -/
def State.stopXpbs (s : State) : State := s.forN 8 fun k s =>
  let u := tget {} s.xpbs k
  let s := { s with units := tput none s.units (8 * (k / 2) + 3 + k % 2) none }
  match u.load with
  | none => s
  | some _ =>
    let s := { s with xpbs := tput {} s.xpbs k { u with load := none, held := false, waiting := [] } }
    if u.held then s
    else s.p (.xpb (k / 2)) (if u.loadHalf then F.XPB_STATUS_HALF1 (k % 2) else F.XPB_STATUS_HALF0 (k % 2)) 0

/-- Bobbins stop their transfers, clear the pending slot and run empty (R221). -/
def State.stopBobbins (s : State) : State :=
  let stop (a : Arm) : Arm := if a.phase = .live || a.phase = .pending then { a with phase := .stopped } else a
  let s := { s with links := [], arms := s.arms.map stop }
  s.bobSyncAll.forN 6 fun d s => s.forN (bobbins d) fun n s => s.p (.bob d) ⟨0x40 * n, 4, 1⟩ 1

/-- The reduction engine of Shuttle k runs nothing (R296). -/
def State.redIdle (s : State) (k : Nat) : State :=
  ({ s with units := tput none s.units (8 * (4 + k) + 1) none }.p (.red k) F.RED_STATUS_BUSY 0).p (.red k) F.RED_STATUS_STAGE 0

/-- Does the engine run the VERDICT slot of a voided step, which a void leaves to run (R294)? -/
def State.verdictRuns (s : State) (k : Nat) : Bool :=
  match tget none s.units (8 * (4 + k) + 1), s.run, s.img with
  | some u, some r, some p =>
    r.voided && !s.fatalSet && (match p.slot (4 + k) u.slot with | some e => e.action == 8 | none => false)
  | _, _, _ => false

/-- Reduction engines stop and run empty (R294). -/
def State.stopReduction (s : State) : State := s.forN 2 fun k s =>
  (if s.verdictRuns k then s else s.redIdle k).p (.red k) F.RED_STATUS_EMPTY 1

/-- Update engines stop and run empty (R312, R315). -/
def State.stopUpdate (s : State) : State := s.forN 2 fun k s =>
  let s := { s with units := tput none s.units (8 * (4 + k) + 2) none }
  ((s.p (.upd k) F.UPD_STATUS_BUSY 0).p (.upd k) F.UPD_STATUS_KIND 0).p (.upd k) F.UPD_STATUS_EMPTY 1

/-- Every unit stops as on a void (R418).
Readings: log entry 17, DESIGN CHOICE. -/
def State.stopUnits (s : State) : State :=
  s.stopArrays.stopVectors.stopXpbs.stopBobbins.stopReduction.stopUpdate

/-- No slot runs empty any more: the step has ended (R133, R193, R221, R294, R312). -/
def State.clearEmpty (s : State) : State :=
  let s := s.forN 8 fun a s => s.p (.arr a) F.ARR_STATUS_EMPTY 0
  let s := s.forN 4 fun h s => s.p (.vec h) F.VEC_OP_STATUS_EMPTY 0
  let s := s.forN 6 fun d s => s.forN (bobbins d) fun n s => s.p (.bob d) ⟨0x40 * n, 4, 1⟩ 0
  s.forN 2 fun k s => (s.p (.red k) F.RED_STATUS_EMPTY 0).p (.upd k) F.UPD_STATUS_EMPTY 0

/-! ### The void of the running step (R418) -/

/-- Void the running step: units stop, slots run empty from here, one VOID event. `cause` is non-zero when this rank's
own unit raised it. Further voids of the same step change nothing. -/
def State.voidRun (s : State) (cause : Nat) (host : Bool) : State :=
  match s.run with
  | none => s
  | some r =>
    if r.voided then s
    else
      let s := { s with run := some { r with voided := true, hostVoid := host } }
      let s := s.stopUnits.forN 6 fun d s => (s.p (.prk d) F.PRK_STATUS_VOIDED 1).line d 3
      s.event { type := 0x13, cls := 2, die := 7, block := 1, code := cause, data := if cause = 0 then 0 else 1 }

/-! ### The end of a step (R105, R332) -/

/-- Outcome bits of START_STEP (R332). -/
def Run.verdictBits (r : Run) : Nat :=
  if r.hostVoid then 3 else if r.voided then 2 else match r.verdict with | some 1 => 1 | some 2 => 2 | some 3 => 3 | _ => 0

/-- The step leaves the units; its START_STEP completes with SUCCESS, its first knot and the verdict; the next-step
value follows (R332, R341). What a step without a verdict has collected goes with it (R162, R165). -/
def State.leaveStep (s : State) (verdict : Nat) : State :=
  match s.run with
  | none => s
  | some r =>
    let s := s.forN 6 fun d s => (s.p (.prk d) F.PRK_STATUS_RUNNING 0).p (.prk d) F.PRK_STATUS_VOIDED 0
    let s := (s.clearEmpty.forN 2 fun k s => s.redIdle k).p .hst F.HST_STATUS_RUNNING 0
    let s := { s with
      run := none
      lastRun := some ⟨r.first, r.endKnot, decide (verdict ≥ 2), r.q.step⟩
      nextStep := if verdict ≥ 2 then r.q.step else (r.q.step + 1) % 2 ^ 32
      stepStat := if r.verdict.isSome then s.stepStat else []
      grid := { s.grid with voidCauses := [] } }
    s.completeStep r.q Code.success (r.first % 2 ^ 48 + verdict * 2 ^ 48)

def State.endRun (s : State) : State :=
  match s.run with
  | none => s
  | some r => s.leaveStep r.verdictBits

/-- Cancel every queued START_STEP (R108, R335, R339, R343). -/
def State.cancelQueue (s : State) : State :=
  let q := s.queue
  q.foldl (fun s x => s.completeStep x Code.cancelled 0) ({ s with queue := [] }.p .hst F.HST_STATUS_QUEUED 0)

/-! ### Withdrawal of admission (R108) -/

/-- Clear ADMITTED on every die; pages are no longer pinned; array domains follow. -/
def State.dropAdmission (s : State) : State :=
  let s := { s with img := none, tlb := [], tlbBad := [], removals := [], removed := [], restores := []
                    pwr := { s.pwr with withdrawAtEnd := false } }
  (s.forN 6 fun d s => s.p (.prk d) F.PRK_STATUS_ADMITTED 0).gateArrays.refreshPower

/-! ### Snags (R48, R49, R51, R53, R60, R265) -/

/-- Queue an ordered set on a port that is UP at 2.0 (R265, R273). -/
def State.queueOs (s : State) (port : Nat) (bs : List Byte) (times : Nat) : State :=
  if s.g (.nir port) F.NIR_STATUS_STATE = 8 && s.g (.nir port) F.NIR_STATUS_VER = 2 then
    { s with ports := tmod {} s.ports port fun u => { u with osq := u.osq ++ List.replicate times bs } }
  else s

def State.beaconPort (s : State) : Nat := s.g .grid F.GRID_STATUS_BEACON_PORT

/-- Send an ordered set towards the root: twice, on the beacon port (R50, R265). -/
def State.sendUp (s : State) (bs : List Byte) : State :=
  if s.beaconPort < 18 then s.queueOs s.beaconPort bs 2 else s

/-- The running step's identity in a snag or FAULT: its end knot, 0 when none runs (R49, R269). -/
def State.stepEnd (s : State) : Nat := match s.run with | some r => r.endKnot | none => 0

def State.stretch (s : State) : Nat := s.g .grid F.GRID_STRETCH_TOTAL_QUANTA

/-! ### The fail-safe state (R420 to R424) -/

/-- IRQ_FATAL of a die: the first fatal source it saw, later ones counted (R424, R433). -/
def State.noteFatal (s : State) (origin code detail knot d : Nat) : State :=
  if s.gb (.irq d) F.IRQ_FATAL_VALID then s.inc (.irq d) F.IRQ_FATAL_MORE 1
  else
    let s := ((s.p (.irq d) F.IRQ_FATAL_CODE code).p (.irq d) F.IRQ_FATAL_ORIGIN origin).p (.irq d) F.IRQ_FATAL_VALID 1
    let s := (s.p (.irq d) F.IRQ_FATAL_DETAIL_DETAIL detail).p2 (.irq d) F.IRQ_FATAL_KNOT_LO_KNOT_LO
      F.IRQ_FATAL_KNOT_HI_KNOT_HI knot
    (s.p (.irq d) F.IRQ_STATUS_FATAL_LINE 1).line d 2

/-- The host port stops with these sources (R421): a regulator fault in domain 28, 30, 34 or 35. -/
def stopsHost (code detail : Nat) : Bool :=
  code == 5 && (detail == 28 || detail == 30 || detail == 34 || detail == 35)

/-- A device in the fail-safe state takes no part in the grid (R422). -/
def State.gridFree (s : State) : State :=
  let old := s.lockState
  let s := (((s.p .grid F.GRID_STATUS_LOCK_STATE 0).p .grid F.GRID_STATUS_IS_ROOT 0).p .grid F.GRID_STATUS_BEACON_PORT
    0x1F).p .grid F.GRID_STATUS_HOP_COUNT 0
  let s := { s with grid := { s.grid with running := false, chg := none, pend := [], voidEnd := none, takeover := 0
                                          voidSeen := false, waitSync := false, adopted := false, raised := []
                                          voidCauses := [], beacons := [], partnerPath := [], members := [] } }
  if old = 0 then s
  else (s.event { type := 0x10, cls := 0, die := 7, block := 1, code := 0, inst := old, data := 0x1F }).sensorState 18 0
    (old + 1) 1

/-- The running step ends with a code (R327, R421). -/
def State.completeRun (s : State) (code : Nat) : State :=
  match s.run with
  | none => s
  | some r =>
    let s := s.forN 6 fun d s => (s.p (.prk d) F.PRK_STATUS_RUNNING 0).p (.prk d) F.PRK_STATUS_VOIDED 0
    ({ s with run := none }.p .hst F.HST_STATUS_RUNNING 0).completeStep r.q code 0

/-- Complete every command in progress and every running or queued START_STEP with a code (R327, R421). -/
def State.completeAll (s : State) (code : Nat) : State :=
  let cs := s.cmds
  let s := (cs.foldl (fun s c => s.complete c code 0) s).completeRun code
  let q := s.queue
  q.foldl (fun s x => s.completeStep x code 0)
    ({ s with queue := [], grid := { s.grid with leaving := false } }.p .hst F.HST_STATUS_QUEUED 0)

/-- A fatal source on a die (R420 to R424): recorded on every die; the first one takes the device into the fail-safe
state. -/
def State.fatal (s : State) (die code detail : Nat) : State :=
  let first := !s.fatalSet
  let s := s.forN 6 fun d s => s.noteFatal die code detail s.knotNow d
  if !first then s else
  let fault := encFault { rank := s.rank, noPricking := !s.admitted, die := die, code := code, knot := s.knotNow
                          identity := s.identity, stepEnd := s.stepEnd }
  let old := if s.ready then 2 else 1
  let s := s.sensorState 17 0 old 3
  let s := { s.p .dev F.DEV_STATUS_FATAL 1 with faultOs := fault, pinFault := true }
  let s := if stopsHost code detail then (s.p .hst F.HST_STATUS_GEN 0).p .hst F.HST_STATUS_WIDTH 0 else s
  let s := s.stopUnits
  let s := s.event { type := 0xF0, cls := 3, die := die, block := 0, inst := die, code := code, data := detail }
  let s := (s.completeAll Code.fatal).dropAdmission.clearEmpty.gridFree
  let s := (s.p .hst F.HST_STATUS_SUSPENDED 0).p .hst F.HST_STATUS_SUSP_CAUSE 0
  { s.p (.prk 4) F.PRK_STATUS_ADMITTING 0 with
    admitting := none, save := none, suspendNext := false
    ports := s.ports.map fun p => (p.1, { p.2 with osq := [], txq := [], replay := [] }) }

/-! ### Voids, as the root raises them and as a rank learns of them -/

/-- A void for knot interval n reaches this rank (R53): the step that holds it is voided; learned after the verdict
knot it is fatal (R291). -/
def State.seeVoid (s : State) (n : Nat) : State :=
  let inStep (first endK : Nat) : Bool := decide (knotDiff first n < knotDiff first endK)
  let late (s : State) (step : Nat) : State :=
    let s := s.forN 2 fun k s => (s.p (.red k) F.RED_ERR_CODE 6).unitErr (.red k) 0 3 6 0
    s.fatal 4 0x0E step
  match s.run with
  | some r =>
    if inStep r.first r.endKnot then
      if r.voided then s
      else if r.verdict.isSome then late s r.q.step
      else s.voidRun (match s.grid.voidCauses with | [] => 0 | c :: _ => c) false
    else match s.lastRun with
      | some e => if inStep e.first e.endKnot && !e.voided then late s e.step else s
      | none => s
  | none =>
    match s.lastRun with
    | some e => if inStep e.first e.endKnot && !e.voided then late s e.step else s
    | none => s

/-- The beacons this root sends carry VOID_STEP (R39, R53). -/
def State.beaconVoid (s : State) : Bool := s.grid.voidEnd.isSome || s.grid.takeover != 0

/-- The root raises the void of a step by its end knot; one whose end is 0 or not after the current knot changes
nothing (R53). -/
def State.rootVoid (s : State) (stepEnd : Nat) : State :=
  if stepEnd = 0 || !knotBefore s.grid.knot stepEnd then s
  else
    let e := match s.grid.voidEnd with
      | some e => if knotBefore e stepEnd then stepEnd else e
      | none => stepEnd
    let s := { s with grid := { s.grid with voidEnd := some e, voidSeen := true } }
    let t := s.seeVoid s.grid.knot
    { t with grid := { t.grid with voidCauses := [] } }

/-- The root takes a snag (R49, R51, R53). -/
def State.rootSnag (s : State) (x : Snag) : State :=
  if x.cause = 0 || x.cause > 7 then { s with grid := { s.grid with dropped := s.grid.dropped + 1 } }
  else if x.cause ≥ 4 then s.rootVoid x.stepEnd
  else
    let j := s.grid.knot
    let target := (x.target + 2 ^ 16 - j % 2 ^ 16) % 2 ^ 16
    if target < 2 then s.rootVoid x.stepEnd
    else
      let granted := (s.stretch + 2 ^ 32 - x.sSeen) % 2 ^ 24
      if x.lateness ≤ granted then s
      else { s with grid := { s.grid with
               pend := tmod 0 s.grid.pend ((j + 2) % 2 ^ 48) fun p => max p (x.lateness - granted) } }

/-- Raise a snag: counted, logged, sent towards the root or taken by the root itself; one per cause and interval
(R49, R60, R427). -/
def State.raiseSnag (s : State) (die : Nat) (x : Snag) (void : Bool) : State :=
  if x.cause ∈ s.grid.raised then s
  else
    let s := { s with grid := { s.grid with raised := x.cause :: s.grid.raised } }
    let s := s.inc .grid F.GRID_SNAG_COUNT_SENT 1
    let s := if void then s.inc .grid F.GRID_SNAG_COUNT_VOIDS 1 else s
    let s := (s.line die 4).event { type := 0x11, cls := 0, die := 7, block := 1, code := x.cause
                                    data := x.target + x.lateness * 2 ^ 16 + x.sSeen * 2 ^ 32 }
    if s.isRoot then s.rootSnag x else s.sendUp (encSnag x)

/-- A VOID-kind snag for the running step. Outside a step, or in one already voided, a contained source raises none
(R417). It is raised again at each knot until VOID_STEP shows (R265).
Readings: log entry 37, DEDUCED. -/
def State.raiseVoid (s : State) (die cause : Nat) : State :=
  match s.liveRun with
  | none => s
  | some r =>
    let s := { s with grid := { s.grid with
                 voidCauses := if cause ∈ s.grid.voidCauses then s.grid.voidCauses else s.grid.voidCauses ++ [cause] } }
    let s := if cause = 4 then { s with suspendNext := true } else s
    s.raiseSnag die ⟨cause, s.grid.knot % 2 ^ 16, 0, s.stretch % 2 ^ 24, s.rank, r.endKnot⟩ true

/-- A LATE-kind snag (R48, R218, R340). -/
def State.raiseLate (s : State) (die cause target lateness : Nat) : State :=
  s.raiseSnag die ⟨cause, target % 2 ^ 16, min lateness 0xFFFF, s.stretch % 2 ^ 24, s.rank, s.stepEnd⟩ false

/-- The snag of a step that a withdrawal has ended: an UNCOVERED one that names its end knot (R108). -/
def State.endSnag (s : State) (endKnot : Nat) : State :=
  s.raiseSnag 4 ⟨6, s.grid.knot % 2 ^ 16, 0, s.stretch % 2 ^ 24, s.rank, endKnot⟩ true

/-- Withdraw admission at once (R108): a running step is voided and ends at this instant, queued steps are cancelled. A
device that has left the grid sends no snag. The void that a root raises for itself finds the step already ended. -/
def State.withdraw (s : State) (snag : Bool) : State :=
  if !s.admitted then s
  else
    let live := s.liveRun
    let s := match s.run with
      | none => s
      | some _ => (s.voidRun 6 false).leaveStep 2
    let s := match snag, live with
      | true, some r => s.endSnag r.endKnot
      | _, _ => s
    s.cancelQueue.dropAdmission

/-- Withdrawal at a knot that may hold a running step, with its snag (change knot, target knot: R108). -/
def State.withdrawAtKnot (s : State) : State := s.withdraw true

/-! ### Lock state (R40, R42) -/

/-- Change the lock state: its event and its sensor. Leaving LOCKED during a step is a contained error; the device may
hear no beacon from then on, so it voids its own step at once (R42). -/
def State.setLock (s : State) (new : Nat) : State :=
  let old := s.lockState
  if old = new then s
  else
    let s := s.p .grid F.GRID_STATUS_LOCK_STATE new
    let s := if new = 2 then { s with grid := { s.grid with stepHold := true } } else s
    let s := s.event { type := 0x10, cls := 0, die := 7, block := 1, code := new, inst := old, data := s.beaconPort }
    let s := s.sensorState 18 0 (old + 1) (new + 1)
    if old = 2 && (new = 1 || new = 3) then (s.raiseVoid 5 7).voidRun 7 false else s

/-- Enter the suspended state with its cause; queued steps are cancelled (R343). -/
def State.suspend (s : State) (cause : Nat) : State :=
  let s := (s.p .hst F.HST_STATUS_SUSPENDED 1).p .hst F.HST_STATUS_SUSP_CAUSE cause
  let owner := match s.img with | some p => some (p.jobId, p.digest) | none => none
  ({ s with suspOwner := owner, suspendNext := false }).cancelQueue

end Sys2Proof.Machine
end

