-- ==== Sys2Proof/Machine/Memory.lean ====
section
/-! DEFINITION. The memories: the physical address space and its interleave, the HBM3 code, the page map and the TLBs,
and what an uncorrectable error or a translation fault does (R225 to R231, R238, R241, R243 to R248). -/

namespace Sys2Proof.Machine

/-! ### The physical address space (R225 to R228) -/

/-- The memory that holds a DPA (R225). -/
inductive Mem where
  | hbm (hoop : Nat)
  | slow (shuttle : Nat)
  | sram (die : Nat)
deriving DecidableEq, Repr

def hoopHbm : Nat := 0x2400000000
def slowBase (s : Nat) : Nat := 0x10000000000 + s * 0x8000000000

/-- First DPA of a die's SRAM (R225). -/
def dieSram (d : Nat) : Nat := if d < 4 then 0x20000000000 + d * 0x10000000 else 0x20040000000 + (d - 4) * 0x4000000
def dieSramSize (d : Nat) : Nat := if d < 4 then 0x10000000 else 0x4000000

def memOf (dpa : Nat) : Option Mem :=
  if dpa < 4 * hoopHbm then some (.hbm (dpa / hoopHbm))
  else if 0x10000000000 ≤ dpa ∧ dpa < 0x20000000000 then some (.slow ((dpa - 0x10000000000) / 0x8000000000))
  else if 0x20000000000 ≤ dpa ∧ dpa < 0x20040000000 then some (.sram ((dpa - 0x20000000000) / 0x10000000))
  else if 0x20040000000 ≤ dpa ∧ dpa < 0x20048000000 then some (.sram (4 + (dpa - 0x20040000000) / 0x4000000))
  else none

/-- Stack, stack-local address and pseudo-channel of an HBM3 DPA (R226). -/
def hbmStack (dpa : Nat) : Nat := 6 * (dpa / hoopHbm) + dpa % hoopHbm / 64 % 6
def hbmLocal (dpa : Nat) : Nat := dpa % hoopHbm / 64 / 6 * 64 + dpa % 64
def hbmPc (dpa : Nat) : Nat := let a := hbmLocal dpa; Nat.xor (a / 64) (a / 65536) % 32

/-- The DPA of a stack-local pair address (R226, inverse). -/
def hbmDpa (stack a : Nat) : Nat := (stack / 6) * hoopHbm + ((a / 64) * 6 + stack % 6) * 64 + a % 64

/-- Slow-tier channel of a DPA (R227). -/
def slowChannel (dpa : Nat) : Nat :=
  let o := dpa % 0x8000000000
  Nat.xor (o / 256 % 32) (o / 8192 % 32)

/-! ### The HBM3 code (R229) -/

def gfTimes2 (x : Nat) : Nat := if x ≥ 128 then Nat.xor (2 * x - 256) 0x1D else 2 * x

/-- Multiplication in GF(2^8) with x^8 + x^4 + x^3 + x^2 + 1. -/
def gfMul : Nat → Nat → Nat → Nat
  | 0, _, _ => 0
  | n + 1, a, b => Nat.xor (if b % 2 = 1 then a else 0) (gfMul n (gfTimes2 a) (b / 2))

def gfPow (k : Nat) : Nat := (List.range k).foldl (fun a _ => gfTimes2 a) 1

/-- Syndrome i of an error pattern: symbol p of the codeword is the coefficient of x^(66 - p). -/
def syndrome (i : Nat) (errs : List (Fin 67 × Byte)) : Nat :=
  errs.foldl (fun a e => Nat.xor a (gfMul 8 e.2.toNat (gfPow (i * (66 - e.1.val))))) 0

/-- What the controller's code makes of a read (R229, R230): the bits still wrong in the delivered data, and the symbols
corrected; none when it detects an error it cannot correct. -/
def rsDecode (errs : List (Fin 67 × Byte)) : Option (List (Fin 67 × Byte) × Nat) :=
  let s0 := syndrome 0 errs
  let s1 := syndrome 1 errs
  let s2 := syndrome 2 errs
  if s0 = 0 && s1 = 0 && s2 = 0 then some (errs, 0)
  else if s0 = 0 then none
  else
    match (List.finRange 67).find? fun p => gfMul 8 s0 (gfPow (66 - p.val)) == s1 with
    | none => none
    | some p =>
      if gfMul 8 s1 (gfPow (66 - p.val)) = s2 then some (errs ++ [(p, BitVec.ofNat 8 s0)], 1) else none

/-- Apply the remaining wrong bits to the 64 data bytes. -/
def applyErrs (errs : List (Fin 67 × Byte)) (bs : List Byte) : List Byte :=
  errs.foldl (fun bs e => if e.1.val < 64 then bs.modify e.1.val (· ^^^ e.2) else bs) bs

/-! ### Pages (R244 to R248) -/

def Page.covers (p : Page) (va : Nat) : Bool := decide (p.va ≤ va) && decide (va < p.va + p.size)

def pageOf (ps : List Page) (va : Nat) : Option Page := ps.find? fun p => p.covers va

/-- A page map entry as the mapping commands carry it (R244). -/
def decPage (b : List Byte) : Page :=
  let w0 := leAt b 0 8
  let w1 := leAt b 8 8
  { va := bits w0 47 21 * 2 ^ 21, dpa := bits w1 47 21 * 2 ^ 21, size := if bit w0 1 then 2 ^ 30 else 2 ^ 21
    readOnly := !bit w0 2 }

/-- Reserved bits of an entry, and VALID (R13, R244). -/
def pageReserved (b : List Byte) : Bool :=
  let w0 := leAt b 0 8
  let w1 := leAt b 8 8
  !bit w0 0 || bits w0 20 3 != 0 || bits w0 63 48 != 0 || bits w1 20 0 != 0 || bits w1 63 48 != 0

/-- The rules of R245 on one entry: an aligned frame that lies wholly in one range, no 1 GiB page on SRAM. -/
def Page.ok (p : Page) : Bool :=
  p.va % p.size == 0 && p.dpa % p.size == 0 &&
  match memOf p.dpa, memOf (p.dpa + p.size - 1) with
  | some (.sram d), some m => p.size == 2 ^ 21 && m == .sram d
  | some a, some b => a == b
  | _, _ => false

def Page.overlaps (p q : Page) : Bool := decide (p.va < q.va + q.size) && decide (q.va < p.va + p.size)

/-- Walk a range through a page list: runs of (dpa, length), or none where a byte has no page (or may not be written).
`fuel` bounds the pages crossed. -/
def walk (ps : List Page) (write : Bool) : Nat → Nat → Nat → Option (List (Nat × Nat))
  | _, _, 0 => some []
  | 0, _, _ => none
  | fuel + 1, va, len =>
    match pageOf ps va with
    | none => none
    | some p =>
      if write && p.readOnly then none
      else
        let n := min len (p.va + p.size - va)
        match walk ps write fuel (va + n) (len - n) with
        | none => none
        | some r => some ((p.dpa + (va - p.va), n) :: r)

def walkFuel (len : Nat) : Nat := len / 2 ^ 21 + 2

def walkRange (ps : List Page) (write : Bool) (va len : Nat) : Option (List (Nat × Nat)) :=
  walk ps write (walkFuel len) va len

/-- What a die's TLB holds now: pinned pages less the entries that failed parity there (R246, R247). -/
def State.tlbOf (s : State) (die : Nat) : List Page := s.tlb.filter fun p => !((die, p.va) ∈ s.tlbBad)

/-- Translate one address for a unit of a die; none is a translation fault (R247). -/
def State.xlat (s : State) (die : Nat) (write : Bool) (va : Nat) : Option Nat :=
  if va ≥ 2 ^ 48 then none
  else match pageOf (s.tlbOf die) va with
    | some p => if write && p.readOnly then none else some (p.dpa + (va - p.va))
    | none => none

/-- Have two ranges, each a first byte and a length, a byte in common? -/
def rangesMeet (a b : Nat × Nat) : Bool :=
  decide (a.2 ≠ 0) && decide (b.2 ≠ 0) && decide (a.1 < b.1 + b.2) && decide (b.1 < a.1 + a.2)

/-- Read bytes through walked runs. -/
def State.readRuns (s : State) (rs : List (Nat × Nat)) : List Byte := rs.flatMap fun r => s.readMem r.1 r.2

/-- Write bytes through walked runs. -/
def State.writeRuns (s : State) : List (Nat × Nat) → List Byte → State
  | [], _ => s
  | r :: rs, bs => (s.writeMem r.1 (bs.take r.2)).writeRuns rs (bs.drop r.2)

/-- The first bad unit that walked runs meet, as an offset into the range (R238, R327). -/
def State.badRuns (s : State) : List (Nat × Nat) → Nat → Option (Nat × Nat)
  | [], _ => none
  | r :: rs, off =>
    match s.badIn r.1 r.2 with
    | some b => some (b, off + (b - r.1))
    | none => s.badRuns rs (off + r.2)

/-! ### Uncorrectable errors (R238, R241, R243, R247) -/

/-- The phase of the segment that the running step is in at the current knot; 0 when no step runs (R86). -/
def State.phaseNow (s : State) : Nat :=
  match s.run, s.img with
  | some r, some p => phaseAt p.pc p.im.segments (knotDiff r.first s.grid.knot)
  | _, _ => 0

/-- Who met the error: a unit that serves a slot, one whose transfer is live no more (R417), scrub on a pair, or a host access
(R238). -/
inductive UeKind where
  | unit
  | late
  | scrub
  | host
deriving DecidableEq, Repr

/-- Do the pinned pages cover a frame that holds this DPA? -/
def State.pinned (s : State) (dpa : Nat) : Bool := s.tlb.any fun p => decide (p.dpa ≤ dpa) && decide (dpa < p.dpa + p.size)

/-- The die whose control cluster answers for a memory. -/
def Mem.die : Mem → Nat
  | .hbm h => h
  | .slow s => 4 + s
  | .sram d => d

def Mem.phase5Source : Mem → Nat
  | .hbm _ => 1
  | .slow _ => 2
  | .sram _ => 3

/-- Performance counters of an uncorrectable error (R438): of the stack, of the slow tier, of the Hoop's SRAM, or of both
engines of a Shuttle for its SRAM. -/
def State.countUe (s : State) (dpa : Nat) : Mem → State
  | .hbm h => s.count h (7 + hbmStack dpa % 6) 9 1
  | .slow k => s.count (4 + k) 3 4 1
  | .sram d => if d < 4 then s.count d 2 8 1 else (s.count d 0 6 1).count d 1 8 1

/-- A single-bit error of a die's SRAM is corrected: counted, and reported with its offset (R243, R438). -/
def State.sramCe (s : State) (die off : Nat) : State :=
  let s := if die < 4 then s.count die 2 7 1 else (s.count die 0 5 1).count die 1 7 1
  s.event { type := 0x20, cls := 1, die := die, block := 0, code := 3, data := off }

/-- Registers, counters, event and class of one uncorrectable error (R238, R241, R243). `src` is 1 read, 2 partial write,
3 scrub; `reader` is the READER code of STR_UE_INFO.
Readings: log entry 19, DEDUCED. -/
def State.memUe (s : State) (dpa src reader : Nat) (kind : UeKind) : State :=
  match memOf dpa with
  | none => s
  | some m =>
    let fatal := decide (s.phaseNow = 5) && (kind == .unit || kind == .late)
    let voids := !fatal && s.liveRun.isSome && (kind == .unit || (kind == .scrub && s.pinned dpa))
    let knot := s.knotNow
    let tail (x : Nat) : Nat := x + if voids then 2 ^ 48 else 0
    let cls := if fatal then 3 else 2
    let s := s.countUe dpa m
    let s := match m with
      | .hbm _ =>
        let b := Blk.hbm (hbmStack dpa)
        let s := (s.inc b F.HBM_UE_COUNT_COUNT 1).p2 b F.HBM_UE_ADDR_LO_ADDR_LO F.HBM_UE_ADDR_HI_ADDR_HI (dpa / 64 * 64)
        let s := ((s.p b F.HBM_UE_INFO_VALID 1).p b F.HBM_UE_INFO_SOURCE src).pb b F.HBM_UE_INFO_VOIDED voids
        let s := (s.pb b F.HBM_UE_INFO_FATAL fatal).p b F.HBM_UE_INFO_PC (hbmPc dpa)
        let s := (s.p2 b F.HBM_UE_KNOT_LO_KNOT_LO F.HBM_UE_KNOT_HI_KNOT_HI knot).line (b.die) (100 + hbmStack dpa % 6)
        s.event { type := 0x21, cls := cls, die := b.die, block := b.index, inst := hbmStack dpa, code := src
                  data := tail (dpa / 64 * 64) }
      | .slow k =>
        let b := Blk.str k
        let s := (s.inc b F.STR_UE_COUNT_COUNT 1).p2 b F.STR_UE_ADDR_LO_ADDR_LO F.STR_UE_ADDR_HI_ADDR_HI (dpa / 32 * 32)
        let s := ((s.p b F.STR_UE_INFO_VALID 1).p b F.STR_UE_INFO_READER reader).pb b F.STR_UE_INFO_VOIDED voids
        let s := (s.pb b F.STR_UE_INFO_FATAL fatal).p b F.STR_UE_INFO_CHANNEL (slowChannel dpa)
        let s := (s.p2 b F.STR_UE_KNOT_LO_KNOT_LO F.STR_UE_KNOT_HI_KNOT_HI knot).line (4 + k) 36
        s.event { type := 0x21, cls := cls, die := b.die, block := b.index, inst := slowChannel dpa, code := src
                  data := tail (dpa / 32 * 32) }
      | .sram d => s.event { type := 0x21, cls := cls, die := d, block := 0, code := src, data := tail (dpa - dieSram d) }
    if fatal then s.fatal m.die 0x0C m.phase5Source
    else if voids then s.raiseVoid m.die 4 else s

/-- A translation fault of a unit of a die (R247): classed as an uncorrectable error, with its DVA. -/
def State.xlatFault (s : State) (die va : Nat) (host : Bool) : State :=
  let fatal := decide (s.phaseNow = 5) && !host
  let voids := !fatal && !host && s.liveRun.isSome
  let s := s.event { type := 0x21, cls := if fatal then 3 else 2, die := die, block := 0, code := 4
                     data := va % 2 ^ 48 + if voids then 2 ^ 48 else 0 }
  if fatal then s.fatal die 0x0C 4 else if voids then s.raiseVoid die 4 else s

/-- Partial writes that met bad units in the command at work: each is dropped and handled under R238 (R231). -/
def State.settleUe (s : State) (kind : UeKind) : State :=
  let l := s.ueHits
  l.foldl (fun s b => s.memUe b 2 0 kind) { s with ueHits := [] }

/-- A unit reads a region of a die's memory: the first bad unit in it is an uncorrectable error (R238). Answers whether
the read may be used. -/
def State.unitReads (s : State) (regions : List (Nat × Nat)) (reader : Nat) : State × Bool :=
  match regions.findSome? fun r => s.badIn r.1 r.2 with
  | none => (s, true)
  | some b => (s.memUe b 1 reader .unit, false)

/-- A unit of memory is uncorrectable from now on, until it is written whole (R238); the slow tier keeps no such mark
(R240). -/
def State.markBad (s : State) (dpa : Nat) : State :=
  let u := unitBytes dpa
  if u = 0 then s
  else
    let b := dpa / u * u
    if b ∈ s.badPairs then s else { s with badPairs := s.badPairs ++ [b] }

/-- DPA of the byte at an offset of walked runs. -/
def runAt : List (Nat × Nat) → Nat → Option Nat
  | [], _ => none
  | r :: rs, off => if off < r.2 then some (r.1 + off) else runAt rs (off - r.2)

/-- What stops a copy of the host port (R238): the first unit that is bad already, or that the copy's own read at an offset
finds to be, as its DPA and its offset. -/
def State.copyBad (s : State) (rs : List (Nat × Nat)) (media : Option Nat) : Option (Nat × Nat) :=
  let fresh := media.bind fun off => (runAt rs off).map fun d => (d, off)
  match s.badRuns rs 0, fresh with
  | some a, some b => some (if b.2 < a.2 then b else a)
  | some a, none => some a
  | none, x => x

/-- A copy of the host port ends at an uncorrectable read (R238). -/
def State.copyUe (s : State) (dpa : Nat) : State := (s.markBad dpa).memUe dpa 1 0 .host

/-- A corrected error's event, at most one per stack or channel and knot interval (R230, R241). -/
def State.memCe (s : State) (b : Blk) (key inst code dpa : Nat) : State :=
  if key ∈ s.ceSeen then s
  else ({ s with ceSeen := key :: s.ceSeen }).event
    { type := 0x20, cls := 1, die := b.die, block := b.index, inst := inst, code := code, data := dpa }

/-- Zero a range of memory and the check bits of its units. -/
def State.zeroRange (s : State) (a n : Nat) : State :=
  { s with
    mem := s.mem.filter fun c => decide (c.1 < a) || decide (a + n ≤ c.1)
    badPairs := s.badPairs.filter fun b => decide (b < a) || decide (a + n ≤ b) }

end Sys2Proof.Machine
end

