-- ==== Sys2Proof/Machine/Pmu.lean ====
section
/-! DEFINITION. Counters, windows and precise samples (R434 to R447), the advance of local time, and what the completion
of a slot leaves (R107, R444). -/

namespace Sys2Proof.Machine

/-! ### Cycle events and local time -/

/-- Key of a slot in the run's table. -/
def slotKey (die i : Nat) : Nat := die * 2 ^ 17 + i

def slotNone : SlotRec := ⟨false, false, 0, 0, 0, 0, false⟩

/-- The domain of an array is off: its set holds its counts (R435). -/
def State.arrayOff (s : State) (die k : Nat) : Bool :=
  s.g .pwr ⟨F.PWR_DOMAINS_LO_ON.off, arrayDomain (2 * die + k), 1⟩ == 0

/-- Low-power wait of a unit (R54): its slots anchored to the current knot, and to those before, are complete, and its next slot
starts at a later knot, more than 200 ns from now. A unit with no slot ahead waits too (log entry 12, DEDUCED). -/
def State.lowPower (s : State) (die unit : Nat) : Bool :=
  match s.run, s.img with
  | some r, some p =>
    let k := knotDiff r.first s.grid.knot
    let wake := (s.grid.time + nsT 200) % 2 ^ 64
    let starts := p.starts.getD die []
    let ahead (x : SlotEntry × Nat) : Bool :=
      let at_ := starts.getD x.2 (0, 0)
      k + 1 < at_.1 || (k < at_.1 && timeBefore wake (s.grid.next0 + nsT at_.2))
    ((p.slots.getD die []).zipIdx.filter fun x => x.1.unit == unit && x.1.action != 0).all fun x =>
      (tget slotNone r.slots (slotKey die x.2)).done || ahead x
  | _, _ => true

/-- Cycle events that no command and no register shows cycle by cycle: ramps of an array, and what they leave of its working
cycles; arbitrations lost; refreshes; the matrix unit; the PCIe link in L1 (R438). As many of the cycles that could be theirs
count as a free value says.
Readings: log entry 18, DESIGN CHOICE. -/
def openCycles (die k ev : Nat) : Bool :=
  if die < 4 then
    (k ≤ 1 && (ev == 1 || ev == 6)) || (decide (3 ≤ k ∧ k ≤ 6) && ev == 6) || (decide (7 ≤ k ∧ k ≤ 12) && ev == 5)
  else (k == 1 && ev == 4) || (k == 2 && ev == 6) || (k == 3 && ev == 5) || (k == 5 && ev == 8)

/-- Amounts that no command shows: row activations, and the bytes, TLPs and replays of the PCIe link (R438). A free value says
how many.
Readings: log entry 18, DESIGN CHOICE. -/
def openAmount (die k ev : Nat) : Bool :=
  (decide (die < 4 ∧ 7 ≤ k ∧ k ≤ 12) && ev == 3) || (die == 4 && k == 5 && decide (1 ≤ ev ∧ ev ≤ 5))

/-- Does a unit meet a cycle event of R438 now? Answers how many of 16 cycles count, or could count (`openCycles`). -/
def State.cycleShare (s : State) (die k ev : Nat) : Nat :=
  let yes (c : Bool) : Nat := if c then 16 else 0
  if die < 4 then
    if k ≤ 1 then
      let b := Blk.arr (2 * die + k)
      let busy := s.gb b F.ARR_STATUS_BUSY
      let hold := s.gb b F.ARR_STATUS_HOLD
      let d := s.g b F.ARR_STATUS_DUTY
      if s.arrayOff die k then 0 else
      match ev with
      | 1 => if busy && !hold then d else 0
      | 2 => if busy then 16 - d else 0
      | 5 => yes hold
      | 6 => yes (busy && !hold)
      | 9 => yes (!busy && s.lowPower die k)
      | _ => 0
    else if k = 2 then
      match ev with
      | 1 => yes (s.gb (.vec die) F.VEC_OP_STATUS_BUSY)
      | 4 => yes ((tget {} s.xpbs (2 * die)).held || (tget {} s.xpbs (2 * die + 1)).held)
      | _ => 0
    else if k ≤ 6 then
      let mine := (List.range 8).map fun n => 8 * (k - 3) + n
      match ev with
      | 2 => yes (mine.any fun n => s.gb (.bob die) (F.BOB_STATUS_PEND n))
      | 5 => yes (mine.any fun n => s.g (.bob die) (F.BOB_STATUS_LIVE n) == 6)
      | 6 => yes (mine.any fun n => s.g (.bob die) (F.BOB_STATUS_LIVE n) != 0)
      | _ => 0
    else if k ≤ 12 then
      match ev with
      | 5 => 16
      | 6 => yes (s.g (.hbm (6 * die + (k - 7))) F.HBM_STATUS_LEVEL != 0)
      | _ => 0
    else
      let p := 4 * die + (k - 13)
      match ev with
      | 9 => yes (!(tget {} s.ports p).txq.isEmpty && s.g (.nir p) F.NIR_CTL_CREDITS == 0)
      | 10 => yes (s.g (.nir p) F.NIR_STATUS_STATE == 8)
      | _ => 0
  else
    let p := 16 + (die - 4)
    match k, ev with
    | 0, 1 => yes (s.gb (.red (die - 4)) F.RED_STATUS_BUSY)
    | 1, 1 => yes (s.gb (.upd (die - 4)) F.UPD_STATUS_BUSY)
    | 2, 2 => yes ((List.range 8).any fun n => s.gb (.bob die) (F.BOB_STATUS_PEND n))
    | 1, 4 => yes (s.gb (.upd (die - 4)) F.UPD_STATUS_BUSY)
    | 2, 5 => yes ((List.range 8).any fun n => s.g (.bob die) (F.BOB_STATUS_LIVE n) == 6)
    | 2, 6 => yes ((List.range 8).any fun n => s.g (.bob die) (F.BOB_STATUS_LIVE n) != 0)
    | 3, 5 => 16
    | 5, 8 => 16
    | 4, 9 => yes (!(tget {} s.ports p).txq.isEmpty && s.g (.nir p) F.NIR_CTL_CREDITS == 0)
    | 4, 10 => yes (s.g (.nir p) F.NIR_STATUS_STATE == 8)
    | _, _ => 0

/-- Programmed counters, as (die, set, counter, event), found among the registers that differ from reset. -/
def State.programmed (s : State) : List (Nat × Nat × Nat × Nat) :=
  s.regs.filterMap fun p =>
    let die := p.1 / 0x800000 - 1
    let o := p.1 - (Blk.pmu die).base
    if p.1 < 0x800000 || die ≥ 6 || p.1 < (Blk.pmu die).base + 0x1000 || o ≥ 0x3000 then none
    else if 0x90 ≤ o % 0x100 && o % 0x100 < 0xB0 then
      some (die, (o - 0x1000) / 0x100, (o % 0x100 - 0x90) / 4, p.2.toNat % 256)
    else none

/-- Stacks at Light or Heavy: their cycles count in HBM_THR_CYCLES (R249). -/
def State.throttledStacks (s : State) : List Nat :=
  (List.range 24).filter fun m =>
    s.regs.any (fun p => p.1 == (Blk.hbm m).base) && s.g (.hbm m) F.HBM_STATUS_LEVEL != 0

/-- Set local time, without losing cycles counted so far (R435). -/
def State.setTime (s : State) (t : Nat) : State :=
  let held := (List.range 6).flatMap fun d => (List.range (setsOf d)).map fun k => (d, k, s.cycOf d k)
  held.foldl (fun s h => s.cycSet h.1 h.2.1 h.2.2) { s with grid := { s.grid with time := t } }

/-- Counter c = (die, set, counter, event) counts the cycles from t0 to t1: in LEVEL mode those in which its event stood, in
EDGE mode the rise of an event that did not stand before (R436, R438). -/
def State.countCycles (s : State) (t0 t1 : Nat) (c : Nat × Nat × Nat × Nat) : State :=
  let (die, k, n, ev) := c
  let w := s.rd ((Blk.pmu die).base + 0x1000 + 0x100 * k + 0x90 + 4 * n)
  let key := 256 * die + 8 * k + n
  let share := s.cycleShare die k ev
  let cycles := (cyclesAt (s.setClock die k) t1 - cyclesAt (s.setClock die k) t0) * share / 16
  let open_ := openCycles die k ev || openAmount die k ev
  let amount :=
    if open_ then Config.free s.fresh % (if openAmount die k ev then 2 ^ 48 else cycles + 1)
    else if bit w.toNat 8 then (if share != 0 && !s.edges.contains key then 1 else 0)
    else cycles
  let s := if open_ then s.draw else s
  let s := { s with edges := s.edges.filter (· != key) ++ if share != 0 && bit w.toNat 8 then [key] else [] }
  if amount = 0 || (bit w.toNat 9 && !s.winOn die k) then s else s.ctrAdd die k n amount

/-- Local time moves on to t (48.16): cycle events and throttled cycles are counted on the way (R436, R249). Time never
moves back (R31). -/
def State.advanceTo (s : State) (t : Nat) : State :=
  if !timeBefore s.grid.time t then s
  else
    let t0 := s.grid.time
    let t1 := t0 + (t + 2 ^ 64 - t0 % 2 ^ 64) % 2 ^ 64
    let s := s.programmed.foldl (fun s c => s.countCycles t0 t1 c) s
    let s := s.throttledStacks.foldl (fun s m =>
      s.inc (.hbm m) F.HBM_THR_CYCLES_CYCLES (cyclesAt 16 t1 - cyclesAt 16 t0)) s
    let s := { s with grid := { s.grid with time := t1 } }
    if t1 < 2 ^ 64 then s else s.setTime (t % 2 ^ 64)

/-! ### Clearing and windows -/

/-- Clear a set: cycle counter, counters, results and PMU_WIN_SEQ (R437). -/
def State.setClear (s : State) (die k : Nat) : State :=
  let b := Blk.pmu die
  let o := 0x1000 + 0x100 * k
  ((s.clearRange b (o + 0x08) (o + 0x48)).clearRange b (o + 0x50) (o + 0x90)).clearRange b (o + 0xB8) (o + 0xBC) |>.cycSet die k 0

/-- A window of the set ends: windowed counters copy and restart, the sequence number counts, source 152 pulses
(R439, R440). -/
def State.windowEnd (s : State) (die k : Nat) : State :=
  if !s.winOn die k then s
  else
    let b := Blk.pmu die
    let s := s.forN 8 fun n s =>
      if s.gb b (setFld k (F.PMU_EVT_WIN n)) then
        let v := s.g2 b (setFld k (F.PMU_CTR_LO_CTR_LO n)) (setFld k (F.PMU_CTR_HI_CTR_HI n))
        (s.p2 b (setFld k (F.PMU_RES_LO_RES_LO n)) (setFld k (F.PMU_RES_HI_RES_HI n)) v).p2 b
          (setFld k (F.PMU_CTR_LO_CTR_LO n)) (setFld k (F.PMU_CTR_HI_CTR_HI n)) 0
      else s
    (s.p b (setFld k F.PMU_WIN_SEQ_SEQ) (s.g b (setFld k F.PMU_WIN_SEQ_SEQ) + 1)).line die 152

/-- Sets whose knot window ends at this knot or tick number (R439). -/
def State.knotWindows (s : State) (n : Nat) : State :=
  let cfgs := s.regs.filterMap fun p =>
    let die := p.1 / 0x800000 - 1
    let o := p.1 - (Blk.pmu die).base
    if p.1 < 0x800000 || die ≥ 6 || p.1 < (Blk.pmu die).base + 0x1000 || o ≥ 0x3000 || o % 0x100 ≠ 0xB0 then none
    else some (die, (o - 0x1000) / 0x100, p.2.toNat)
  cfgs.foldl (fun s c =>
    let knots := c.2.2 / 65536
    if bit c.2.2 0 || knots = 0 || n % knots ≠ 0 then s else s.windowEnd c.1 c.2.1) s

/-! ### Precise samples (R443 to R446) -/

def State.matchesSample (s : State) (h : Nat) (e : SlotEntry) : Bool :=
  let b := Blk.pmu h
  decide (e.action < 12) && bit (s.g b F.PMU_SMP_CFG_ACTIONS) e.action
    && decide (s.g b F.PMU_SMP_UNITS_UNIT_LO ≤ e.unit) && decide (e.unit ≤ s.g b F.PMU_SMP_UNITS_UNIT_HI)

/-- Is this slot of the Hoop's table recorded (R443)? -/
def State.sampled (s : State) (h : Nat) (tab : List SlotEntry) (i : Nat) : Bool :=
  let period := s.g (.pmu h) F.PMU_SMP_CFG_PERIOD
  match tab[i]? with
  | none => false
  | some e =>
    period != 0 && s.matchesSample h e && ((tab.take i).filter (s.matchesSample h)).length % period == 0

/-- Write one record (R444). -/
def State.sampleWrite (s : State) (h : Nat) (bytes : List Byte) : State :=
  let b := Blk.pmu h
  let head := s.g b F.PMU_SMP_HEAD_HEAD
  let tail := s.g b F.PMU_SMP_TAIL_TAIL
  let held := (head + 4096 - tail) % 4096
  let full := held == 4095
  let wrap := s.gb b F.PMU_SMP_CFG_WRAP
  let s := if full && !(tget {} s.samplers h).spilled then s.line h 157 else s
  let s := { s with samplers := tmod {} s.samplers h fun u => { u with spilled := full } }
  if full && !wrap then s.inc b F.PMU_SMP_STATUS_LOST 1
  else
    let s := { s with samplers := tmod {} s.samplers h fun u => { u with recs := tput [] u.recs head bytes } }
    let s := s.p b F.PMU_SMP_HEAD_HEAD ((head + 1) % 4096)
    let s := if full then s.p b F.PMU_SMP_TAIL_TAIL ((tail + 1) % 4096) else s
    let held' := if full then held else held + 1
    let s := s.pb b F.PMU_SMP_STATUS_FULL (held' == 4095)
    if !full && held' = s.g b F.PMU_SMP_WMARK_WMARK then s.line h 156 else s

/-- A record of 64 bytes (R445). -/
def sampleBytes (e : SlotEntry) (i : Nat) (r : SlotRec) (voided late : Bool) (latency step : Nat) : List Byte :=
  e.raw ++ leBytes 4 (i + (if r.empty then 2 ^ 24 else 0) + (if voided then 2 ^ 25 else 0) + (if late then 2 ^ 26 else 0))
    ++ leBytes 8 r.sched ++ leBytes 8 r.actual ++ leBytes 4 (min latency (2 ^ 32 - 1)) ++ leBytes 6 r.knot ++ leBytes 2 0
    ++ leBytes 4 step ++ leBytes 4 r.detail ++ leBytes 8 0

/-- Whether a slot of the running step has been dispatched and is complete. -/
def Run.slotDone (r : Run) (die i : Nat) : Bool := (tget slotNone r.slots (slotKey die i)).done

/-- Has the slot's deadline passed, as the current knot and time show (R107, R445)? -/
def State.pastDeadline (s : State) (p : Pricking) (r : Run) (die i : Nat) : Bool :=
  let d := (p.deads.getD die []).getD i (0, 0)
  let k := knotDiff r.first s.grid.knot
  if k < d.1 then false
  else if k = d.1 then decide (nsT d.2 < (s.grid.time + 2 ^ 64 - s.grid.knotAt) % 2 ^ 64)
  else true

/-- A slot completes (R107): noted in the run, and sampled when selected (R444). -/
def State.slotComplete (s : State) (die i detail : Nat) : State :=
  match s.run, s.img with
  | some r, some p =>
    let key := slotKey die i
    let rec0 := tget slotNone r.slots key
    if rec0.done then s
    else
      let rec1 := { rec0 with done := true, detail := detail }
      let s := { s with run := some { r with slots := tput slotNone r.slots key rec1 } }
      match p.slot die i with
      | none => s
      | some e =>
        if die < 4 && s.sampled die (p.slots.getD die []) i then
          let lat := if rec1.empty then 0 else ceilDiv ((s.grid.time + 2 ^ 64 - rec1.actual) % 2 ^ 64) (2 ^ 16)
          s.sampleWrite die (sampleBytes e i rec1 r.voided (s.pastDeadline p r die i) lat r.q.step)
        else s
  | _, _ => s

/-- Set the actual start of a slot (R446). -/
def State.slotActual (s : State) (die i t : Nat) : State :=
  match s.run with
  | none => s
  | some r =>
    { s with run := some { r with slots := tmod slotNone r.slots (slotKey die i) fun x => { x with actual := t } } }

/-! ### The commands of this chapter -/

/-- PMU_SET_CLEAR (R437). -/
def execPmuSetClear (die : Die) (set : Fin 17) (s : State) : Host.Outcome State Fault Refusal :=
  let a := (Blk.pmu die.val).base + 0x1000 + 0x100 * set.val + F.PMU_SET_CTRL_CLEAR.off
  .next (if set.val < setsOf die.val then s.hostWrite a (·.setClear die.val set.val) else s)

/-- An ns window of a set ends: local time has come to its end, and the next one runs for NS again (R439). Knot windows end at
their knots (`State.knotWindows`). -/
def State.nsWindowEnd (s : State) (die k : Nat) : State :=
  let b := Blk.pmu die
  let key := 32 * die + k
  let ns := s.g b (setFld k F.PMU_WIN_NS_NS)
  if s.g b (setFld k F.PMU_WIN_CFG_UNIT) = 0 || ns = 0 then s
  else
    let at_ := tget 0 s.winEnd key
    let s := (s.advanceTo at_).windowEnd die k
    { s with winEnd := tput 0 s.winEnd key ((at_ + nsT ns) % 2 ^ 64) }

/-- PMU_WINDOW_END (R439, R440). -/
def execPmuWindowEnd (die : Die) (set : Fin 17) (s : State) : Host.Outcome State Fault Refusal :=
  .next (if set.val < setsOf die.val then s.nsWindowEnd die.val set.val else s)

/-- PMU_COUNTER_WRAP: a wrap in set s pulses source 128 + s (R436). -/
def execPmuCounterWrap (die : Die) (set : Fin 17) (s : State) : Host.Outcome State Fault Refusal :=
  .next (if set.val < setsOf die.val then s.line die.val (128 + set.val) else s)

/-- Copy a record whole into PMU_SMP_DATA (R447). -/
def State.sampleSelect (s : State) (h index : Nat) : State :=
  let b := Blk.pmu h
  let data := tget [] (tget {} s.samplers h).recs index
  (s.p b F.PMU_SMP_SEL_INDEX index).forN 16 fun w s => s.p b (F.PMU_SMP_DATA_DATA w) (leAt data (4 * w) 4)

/-- PMU_SAMPLE_SELECT (R447). -/
def execPmuSampleSelect (hoop : Hoop) (index : BitVec 12) (s : State) : Host.Outcome State Fault Refusal :=
  .next (s.hostWrite ((Blk.pmu hoop.val).base + F.PMU_SMP_SEL_INDEX.off) (·.sampleSelect hoop.val index.toNat))

/-- A write of TAIL outside the range from TAIL to HEAD in ring order is ignored (R447). -/
def State.sampleTail (s : State) (h index : Nat) : State :=
  let b := Blk.pmu h
  let head := s.g b F.PMU_SMP_HEAD_HEAD
  let tail := s.g b F.PMU_SMP_TAIL_TAIL
  if (index + 4096 - tail) % 4096 ≤ (head + 4096 - tail) % 4096 then
    (s.p b F.PMU_SMP_TAIL_TAIL index).pb b F.PMU_SMP_STATUS_FULL ((head + 4096 - index) % 4096 == 4095)
  else s

/-- PMU_SAMPLE_TAIL_WRITE (R447). -/
def execPmuSampleTailWrite (hoop : Hoop) (index : BitVec 12) (s : State) : Host.Outcome State Fault Refusal :=
  .next (s.hostWrite ((Blk.pmu hoop.val).base + F.PMU_SMP_TAIL_TAIL.off) (·.sampleTail hoop.val index.toNat))

end Sys2Proof.Machine
end

