-- ==== Sys2Proof/Machine/Bobbins.lean ====
section
/-! DEFINITION. Bobbins: descriptors, arms, beats, buffer slots, faults, silence and host-armed copies (R204 to R223). -/

namespace Sys2Proof.Machine

/-! ### A stream descriptor (R205) -/

def descKind (d : List Byte) : Nat := leAt d 0 4 % 16
def descPattern (d : List Byte) : Nat := bits (leAt d 0 4) 5 4
def descLook (d : List Byte) : Nat := bits (leAt d 0 4) 7 6
def descArray (d : List Byte) : Nat := bits (leAt d 0 4) 8 8
def descRcv (d : List Byte) : Nat := bits (leAt d 0 4) 15 12
def descGen (d : List Byte) : Nat := bits (leAt d 0 4) 23 16
def descRows (d : List Byte) : Nat := leAt d 4 4 % 2 ^ 24
def descRowBytes (d : List Byte) : Nat := leAt d 8 4 % 2 ^ 21
def descTileRows (d : List Byte) : Nat := leAt d 12 4 % 2 ^ 16
def descSrc (d : List Byte) : Nat := leAt d 16 8
def descDst (d : List Byte) : Nat := leAt d 24 8
def descSrcStride (d : List Byte) : Nat := leAt d 32 4 % 2 ^ 28
def descDstStride (d : List Byte) : Nat := leAt d 36 4 % 2 ^ 28
def descBuf (d : List Byte) : Nat := leAt d 40 4 % 2 ^ 28
def descIndex (d : List Byte) : Nat := leAt d 44 4 % 2 ^ 28
def descPeer (d : List Byte) : Nat := leAt d 48 2 % 2 ^ 15

def descBuffered (d : List Byte) : Bool :=
  descKind d == 1 || descKind d == 3 || descKind d == 4 || descKind d == 5

/-- Beats of a row, and of the whole transfer (R204). -/
def descRowBeats (d : List Byte) : Nat := ceilDiv (descRowBytes d) 64
def descBeats (d : List Byte) : Nat := descRows d * descRowBeats d
def descTiles (d : List Byte) : Nat := if descTileRows d = 0 then 0 else ceilDiv (descRows d) (descTileRows d)

/-- Row pitch in the buffer, and the bytes of one buffer slot (R210). -/
def descPitch (d : List Byte) : Nat := ceilDiv (descRowBytes d) 64 * 64
def descSlotBytes (d : List Byte) : Nat := descPitch d * descTileRows d

/-- TARGET of a receiver word: R205 gives it the bits [4:0] and the codes 0x20 and 0x21, which need bit 5; bits [7:6] are then
the reserved ones (log entry 14, DEDUCED). -/
def rcvTarget (w : Nat) : Nat := w % 64

/-- Receiver word j of a receiver list: target and rank (R205). -/
def rcvWord (l : List Byte) (j : Nat) : Nat × Nat := let w := leAt l (16 + 3 * j) 3; (rcvTarget w, bits w 22 8)

/-- Receivers of a multicast (R217). -/
def Arm.receivers (a : Arm) : List (Nat × Nat) := (List.range (descRcv a.desc + 1)).map (rcvWord a.rcv)

/-- Remote receivers of a sending arm, as (port, rank); LINK_OUT has its PEER_RANK on the port of its LINK_SEND. -/
def Arm.remotes (a : Arm) : List (Nat × Nat) :=
  if a.kind = 5 then (a.receivers.filter fun r => decide (r.1 ≥ 16)).map fun r => (r.1 - 16, r.2) else []

def Arm.locals (a : Arm) : List Nat := if a.kind = 5 then (a.receivers.filter fun r => decide (r.1 < 6)).map (·.1) else []

/-! ### Addresses (R207, R210) -/

/-- Device virtual address of source row r. -/
def State.srcRow (s : State) (die : Nat) (d : List Byte) (r : Nat) : Nat :=
  match descPattern d with
  | 0 => descSrc d + r * descRowBytes d
  | 1 => descSrc d + r * descSrcStride d
  | _ => descSrc d + leNat (s.readMem (dieSram die + descIndex d + 4 * r) 4) * descSrcStride d

def dstRow (d : List Byte) (r : Nat) : Nat :=
  descDst d + r * (if descDstStride d = 0 then descRowBytes d else descDstStride d)

/-- DPA of row r of the arm in its stream buffer. -/
def Arm.bufRow (a : Arm) (r : Nat) : Nat :=
  let d := a.desc
  let t := if descTileRows d = 0 then 0 else r / descTileRows d
  dieSram a.die + descBuf d + ((a.base + t) % (descLook d + 1)) * descSlotBytes d + (r - t * descTileRows d) * descPitch d

/-! ### Keeping the list of arms -/

def Arm.same (a b : Arm) : Bool :=
  a.die == b.die && a.bobbin == b.bobbin && a.stream == b.stream && a.hostVa == b.hostVa && a.slot == b.slot && a.gen == b.gen

/-- Replace an arm by its new self and bring the bobbin's status word in line. -/
def State.setArm (s : State) (a : Arm) : State :=
  { s with arms := s.arms.map fun (x : Arm) => if x.same a then a else x }.bobSync a.die a.bobbin

/-- Is an arm of this descriptor (R212, R223)? -/
def Arm.ofDesc (a : Arm) : ArmId → Bool
  | .stream i => a.stream == i.toNat && a.stream != 0x1FFFF
  | .host va => a.stream == 0x1FFFF && a.hostVa == va.toNat

/-- Arms of a descriptor on a bobbin with a generation (R211). -/
def State.armsOf (s : State) (die bobbin : Nat) (d : ArmId) (gen : Nat) : List Arm :=
  s.arms.filter fun a => a.die == die && a.bobbin == bobbin && a.ofDesc d && a.gen == gen

def State.armOf (s : State) (die bobbin : Nat) (d : ArmId) (gen : Nat) : Option Arm :=
  (s.armsOf die bobbin d gen).find? fun a => a.phase == .live

/-- Same descriptor: the same STREAM index, or the same descriptor address of a host arm (R212, R223). -/
def Arm.sameDesc (a b : Arm) : Bool :=
  a.die == b.die && a.bobbin == b.bobbin && a.stream == b.stream && a.hostVa == b.hostVa

def State.liveOn (s : State) (die n : Nat) : List Arm :=
  s.arms.filter fun a => a.die == die && a.bobbin == n && a.phase == .live

def State.pendingOn (s : State) (die n : Nat) : Option Arm :=
  s.arms.find? fun a => a.die == die && a.bobbin == n && a.phase == .pending

/-! ### Traffic in the counters (R438) -/

/-- The counter set that holds a bobbin. -/
def bobSet (die n : Nat) : Nat := if die < 4 then 3 + n / 8 else 2

/-- Bytes read or written in a memory, as its controller's set counts them; HBM3 by the share of R226. -/
def State.traffic (s : State) (runs : List (Nat × Nat)) (write : Bool) : State :=
  runs.foldl (fun s r =>
    match memOf r.1 with
    | some (.hbm h) =>
      let g0 := r.1 % hoopHbm / 64
      let n := (r.1 % hoopHbm + r.2 - 1) / 64 + 1 - g0
      s.forN 6 fun i s =>
        let k := (i + 6 - g0 % 6) % 6
        s.count h (7 + i) (if write then 2 else 1) (64 * (if k < n % 6 then n / 6 + 1 else n / 6))
    | some (.slow k) => s.count (4 + k) 3 (if write then 2 else 1) r.2
    | some (.sram d) => if d < 4 then s.count d 2 (if write then 6 else 5) r.2 else s
    | none => s) s

/-- Beats moved by a bobbin (R224); rows that R93 skips move none. -/
def State.beatsMoved (s : State) (a : Arm) (n : Nat) : State :=
  let b := Blk.bob a.die
  let v := min (s.g2 b (F.BOB_BEATS_LO_BEATS_LO a.bobbin) (F.BOB_BEATS_HI_BEATS_HI a.bobbin) + n) (2 ^ 48 - 1)
  s.p2 b (F.BOB_BEATS_LO_BEATS_LO a.bobbin) (F.BOB_BEATS_HI_BEATS_HI a.bobbin) v

/-! ### Moving beats -/

/-- Source of len bytes at offset off of row r, as runs of DPA; none is a translation fault. -/
def State.srcRuns (s : State) (a : Arm) (r off len : Nat) : Option (List (Nat × Nat)) :=
  if a.kind = 4 then some [(a.bufRow r + off, len)]
  else
    let va := s.srcRow a.die a.desc r + off
    if va + len > 2 ^ 48 then none else walkRange (s.tlbOf a.die) false va len

/-- Destination of those bytes. A STAT transfer's bytes go to the array's port, not to memory. -/
def State.dstRuns (s : State) (a : Arm) (r off len : Nat) : Option (List (Nat × Nat)) :=
  if a.kind = 0 || a.kind = 4 then
    if dstRow a.desc r + off + len > 2 ^ 48 then none
    else walkRange (s.tlbOf a.die) true (dstRow a.desc r + off) len
  else if a.kind = 2 then some []
  else some [(a.bufRow r + off, len)]

/-- Where a transfer faults: beat index counted from its first beat, whether it is an uncorrectable read, the faulting
DVA, and the bad unit's DPA. -/
structure FaultAt where
  beat : Nat
  media : Bool
  va : Nat
  dpa : Nat
deriving DecidableEq, Repr

/-- Is row r of the arm work beyond the actual length of its slot's micro-batch (R93)? Such a row moves nothing. -/
def State.rowSkip (s : State) (a : Arm) (r : Nat) : Bool :=
  match s.run, s.img with
  | some run, some p => match p.slot a.die a.slot with
    | some e =>
      let len := run.q.lens.getD e.mb 0
      e.mb != 0x7FF && decide (len < p.im.maxLen e.mb) && Config.beyond a.desc len (p.im.maxLen e.mb) r
    | none => false
  | _, _ => false

/-- Rows that a transfer moves: up to the last one within the actual length (R93). -/
def State.armRows (s : State) (a : Arm) : Nat :=
  (List.range (descRows a.desc)).foldl (fun m r => if s.rowSkip a r then m else r + 1) 0

/-- Bytes that LINK slots move of a stream. -/
def State.armBytes (s : State) (a : Arm) : Nat := s.armRows a * descRowBytes a.desc

/-- Beats from j0 up to j1 of rows that move. -/
def State.beatsOf (s : State) (a : Arm) (j0 j1 : Nat) : Nat :=
  let rb := descRowBeats a.desc
  if rb = 0 then 0
  else ((List.range (descRows a.desc)).filter fun r => !s.rowSkip a r).foldl
    (fun n r => n + (min j1 ((r + 1) * rb) - max j0 (r * rb))) 0

/-- Does beat j of the arm fault (R220, R247)? -/
def State.beatFault (s : State) (a : Arm) (j : Nat) : Option FaultAt :=
  let rb := descRowBeats a.desc
  let r := j / rb
  let off := j % rb * 64
  let len := min 64 (descRowBytes a.desc - off)
  let sva := if a.kind = 4 then 0 else s.srcRow a.die a.desc r + off
  if s.rowSkip a r then none else
  match s.srcRuns a r off len with
  | none => some ⟨j, false, sva, 0⟩
  | some rs =>
    match s.badRuns rs 0 with
    | some b => some ⟨j, true, sva, b.1⟩
    | none => match s.dstRuns a r off len with
      | none => some ⟨j, false, dstRow a.desc r + off, 0⟩
      | some _ => none

/-- Land beats j0 to j1 − 1 of one row, all of which are sound. -/
def State.landPart (s : State) (a : Arm) (j0 j1 : Nat) : State :=
  let rb := descRowBeats a.desc
  let r := j0 / rb
  let off := j0 % rb * 64
  let len := min (j1 * 64 - j0 / rb * rb * 64) (descRowBytes a.desc) - off
  if s.rowSkip a r then s else
  match s.srcRuns a r off len, s.dstRuns a r off len with
  | some src, some dst =>
    let s := (s.writeRuns dst (s.readRuns src)).traffic src false |>.traffic dst true
    (s.count a.die (bobSet a.die a.bobbin) 3 len).count a.die (bobSet a.die a.bobbin) 4 len
  | _, _ => s

/-- Is a whole part of a row sound? -/
def State.partSound (s : State) (a : Arm) (j0 j1 : Nat) : Bool :=
  let rb := descRowBeats a.desc
  let r := j0 / rb
  let off := j0 % rb * 64
  let len := min (j1 * 64 - j0 / rb * rb * 64) (descRowBytes a.desc) - off
  if s.rowSkip a r then true else
  match s.srcRuns a r off len, s.dstRuns a r off len with
  | some src, some _ => (s.badRuns src 0).isNone
  | _, _ => false

/-- Land beats from a.beats up to j1, row by row; stops at the first fault. -/
def State.landRows (s : State) (a : Arm) : Nat → Nat → Nat → State × Nat × Option FaultAt
  | 0, j, _ => (s, j, none)
  | fuel + 1, j, j1 =>
    if j ≥ j1 then (s, j, none)
    else
      let rb := descRowBeats a.desc
      let e := min j1 ((j / rb + 1) * rb)
      if s.partSound a j e then (s.landPart a j e).landRows a fuel e j1
      else
        match (List.range (e - j)).findSome? fun i => s.beatFault a (j + i) with
        | none => (s, j, none)
        | some f => (if f.beat > j then s.landPart a j f.beat else s, f.beat, some f)

/-- Write row r, which has landed in the buffer, to one local receiver of a multicast, at DST; where DST lies in a die's SRAM,
at the same offset of the receiving die's SRAM (R217, log entry 21, DEDUCED). A lookup that fails is a fault of the row's
first beat (R220, R247). -/
def State.mcastRow (s : State) (a : Arm) (die r : Nat) : State × Option FaultAt :=
  let len := descRowBytes a.desc
  if s.rowSkip a r then (s, none)
  else match walkRange (s.tlbOf die) true (dstRow a.desc r) len with
    | none => (s, some ⟨r * descRowBeats a.desc, false, dstRow a.desc r, 0⟩)
    | some rs =>
      let rs := rs.map fun x => match memOf x.1 with
        | some (.sram k) => (dieSram die + (x.1 - dieSram k), x.2)
        | _ => x
      (((s.writeRuns rs (s.readMem (a.bufRow r) len)).traffic rs true).count a.die (bobSet a.die a.bobbin) 7 len, none)

/-- Write a tile's rows to every local receiver of a multicast, up to the first fault (R217). -/
def State.mcastTile (s : State) (a : Arm) (t : Nat) : State × Option FaultAt :=
  let d := a.desc
  let rows := (List.range (min (descTileRows d) (descRows d - t * descTileRows d))).map (t * descTileRows d + ·)
  (a.locals.flatMap fun die => rows.map fun r => (die, r)).foldl (fun (q : State × Option FaultAt) x =>
    if q.2.isSome then q else q.1.mcastRow a x.1 x.2) (s, none)

/-- Tiles of the arm that have landed whole. -/
def Arm.wholeTiles (a : Arm) : Nat :=
  if descTileRows a.desc = 0 || descRowBeats a.desc = 0 then 0
  else if a.beats ≥ descBeats a.desc then descTiles a.desc else a.beats / descRowBeats a.desc / descTileRows a.desc

/-- Land beats up to j1 and keep count; the tiles of a multicast that have landed go to its local receivers (R217). The arm
comes back with its new position. -/
def State.landTo (s : State) (a : Arm) (j1 : Nat) : State × Arm × Option FaultAt :=
  let (s, j, f) := s.landRows a (descRows a.desc + 1) a.beats j1
  let a' := { a with beats := j }
  let s := (s.beatsMoved a (s.beatsOf a a.beats j)).setArm a'
  if a.kind ≠ 5 then (s, a', f)
  else
    let (s, g) := (List.range (a'.wholeTiles - a.wholeTiles)).foldl (fun (q : State × Option FaultAt) i =>
      if q.2.isSome then q else q.1.mcastTile a' (a.wholeTiles + i)) (s, none)
    (s, a', g.orElse fun _ => f)

/-- Buffer slots that the arms of the descriptor have freed so far, counted as R210 counts tiles: a re-arm's first tiles wait
for the slots that still hold tiles of its predecessor. -/
def State.tilesFreed (s : State) (a : Arm) : Nat :=
  let held := s.arms.filter fun x => x.sameDesc a && decide (x.base < a.base) && decide (x.freed < descTiles x.desc)
  held.foldl (fun m x => min m (x.base + x.freed)) (a.base + a.freed)

/-- First beat whose tile has no buffer slot yet (R210); a transfer without a buffer has no such bound. -/
def State.armLimit (s : State) (a : Arm) : Nat :=
  if descBuffered a.desc && a.kind != 4 then
    min (descBeats a.desc) ((s.tilesFreed a + descLook a.desc + 1 - a.base) * descTileRows a.desc * descRowBeats a.desc)
  else descBeats a.desc

/-! ### Faults (R220, R222) -/

/-- Record a bobbin's error (R222, R224). -/
def State.bobErr (s : State) (a : Arm) (code : Nat) : State :=
  let b := Blk.bob a.die
  (((s.p b (F.BOB_ERR_CODE a.bobbin) code).p b (F.BOB_ERR_SLOT a.bobbin) a.slot).line a.die (64 + a.bobbin)).unitErr b a.bobbin
    (if code = 7 then 3 else 2) code a.slot

/-- Is this the last host arm of its die, which BOB_ARM_STATUS describes (R224)? After a refused one, none is. -/
def State.lastHostArm (s : State) (a : Arm) : Bool :=
  !s.gb (.bob a.die) F.BOB_ARM_STATUS_REFUSED &&
    match (s.arms.filter fun x => x.die == a.die && x.stream == 0x1FFFF).getLast? with
    | some x => x.same a
    | none => false

/-- A host arm ends: DONE, or ABORTED at a step's first knot (R223). -/
def State.hostArmEnd (s : State) (a : Arm) (aborted : Bool) : State :=
  if a.stream ≠ 0x1FFFF then s
  else
    let b := Blk.bob a.die
    let s := if s.lastHostArm a then
        (s.p b F.BOB_ARM_STATUS_BUSY 0).p b (if aborted then F.BOB_ARM_STATUS_ABORTED else F.BOB_ARM_STATUS_DONE) 1 else s
    (s.line a.die 97).event
      { type := 0x32, cls := 0, die := a.die, block := b.index, inst := a.bobbin, code := if aborted then 2 else 0 }

/-- Fault stop of a transfer (R220): beats before it have landed; the fault registers, the error and its class follow. -/
def State.faultStop (s : State) (a : Arm) (f : FaultAt) : State :=
  let b := Blk.bob a.die
  let rb := descRowBeats a.desc
  let s := s.setArm { a with phase := .stopped }
  let s := s.p b (F.BOB_STATUS_FAULT a.bobbin) 1
  let s := ((s.p b F.BOB_FAULT_VALID 1).p b F.BOB_FAULT_CAUSE (if f.media then 2 else 1)).p b F.BOB_FAULT_BOBBIN a.bobbin
  let s := s.p2 b F.BOB_FAULT_VA_LO_VA_LO F.BOB_FAULT_VA_HI_VA_HI (f.va % 2 ^ 48)
  let s := (s.p b F.BOB_FAULT_POS_ROW (f.beat / rb)).p b F.BOB_FAULT_STREAM_STREAM a.stream
  let s := (s.p b F.BOB_FAULT_STREAM_BEAT (f.beat % rb)).line a.die 96
  let s := s.count a.die (bobSet a.die a.bobbin) 8 1
  let s := s.event { type := 0x31, cls := 2, die := a.die, block := b.index, inst := a.bobbin
                     code := if f.media then 2 else 1, data := f.va % 2 ^ 48 }
  let s := s.bobErr a (if f.media then 2 else 1)
  let s := if a.stream = 0x1FFFF && s.lastHostArm a then s.p b F.BOB_ARM_STATUS_BUSY 0 else s
  let kind := if a.stream = 0x1FFFF then UeKind.host else .unit
  if f.media then s.memUe f.dpa 1 1 kind else s.xlatFault a.die f.va (a.stream == 0x1FFFF)

/-! ### Arming (R211, R212) -/

/-- Generation and base of the next arm of a descriptor in this step. -/
def State.nextArm (s : State) (x : Arm) : Nat × Nat :=
  match (s.arms.filter fun a => a.sameDesc x).getLast? with
  | none => (descGen x.desc, 0)
  | some p => ((p.gen + 1) % 256, p.base + descTiles p.desc)

/-- An arm takes effect (R212). -/
def State.armLive (s : State) (a : Arm) : State :=
  let b := Blk.bob a.die
  let a := { a with phase := .live, actual := s.grid.time }
  let s := (s.setArm a).inc b (F.BOB_ARMS_COUNT a.bobbin) 1
  let s := (s.p b (F.BOB_STATUS_LAST_GEN a.bobbin) a.gen).count a.die (bobSet a.die a.bobbin) 1 1
  s.slotActual a.die a.slot s.grid.time

/-- Arm a descriptor on a bobbin: live, or into the pending slot, or refused because that is occupied (R211, R212).
A descriptor with no rows completes at once (R209). -/
def State.arm (s : State) (x : Arm) : State :=
  let b := Blk.bob x.die
  let (gen, base) := s.nextArm x
  let a := { x with gen := gen, base := base, phase := .pending }
  if descRows x.desc = 0 then
    let s := { s with arms := s.arms ++ [{ a with phase := .ended, actual := s.grid.time }] }
    let s := (s.inc b (F.BOB_ARMS_COUNT x.bobbin) 1).p b (F.BOB_STATUS_LAST_GEN x.bobbin) gen
    (s.count x.die (bobSet x.die x.bobbin) 1 1).slotComplete x.die x.slot 0 |>.hostArmEnd a false
  else
    let live := s.liveOn x.die x.bobbin
    if live.any (fun l => l.sameDesc x) || live.length ≥ 6 then
      if (s.pendingOn x.die x.bobbin).isSome then
        let s := (s.inc b (F.BOB_REARMS_REFUSED x.bobbin) 1).bobErr a 3
        s.raiseVoid x.die 5
      else
        ({ s with arms := s.arms ++ [a] }.inc b (F.BOB_REARMS_REARMS x.bobbin) 1).bobSync x.die x.bobbin
    else { s with arms := s.arms ++ [a] }.armLive a

/-- The pending arm of a bobbin takes effect when its descriptor has no live transfer and a place is free (R212). -/
def State.pendingArm (s : State) (die n : Nat) : State :=
  match s.pendingOn die n with
  | none => s
  | some a =>
    let live := s.liveOn die n
    if live.any (fun l => l.sameDesc a) || live.length ≥ 6 then s else s.armLive a

/-! ### Consumers of a buffer (R210, R211) -/

/-- The STREAM slot whose arm a consumer at (knot, offset) takes: the latest of its descriptor to start before it. -/
def Pricking.armSlot (p : Pricking) (die stream : Nat) (start : Nat × Nat) : Option Nat :=
  let tab := p.slots.getD die []
  let st := p.starts.getD die []
  ((List.range tab.length).filter fun i =>
    match tab[i]? with
    | none => false
    | some e => e.action == 4 && e.operand == stream &&
      (let t := st.getD i (0, 0); decide (t.1 * p.interval + t.2 < start.1 * p.interval + start.2))).getLast?

/-- The arm that a consumer slot reads. -/
def State.consumerArm (s : State) (p : Pricking) (die stream i : Nat) : Option Arm :=
  match p.armSlot die stream ((p.starts.getD die []).getD i (0, 0)) with
  | none => none
  | some k => s.arms.find? fun a => a.die == die && a.slot == k && a.stream == stream

/-- Row r of a buffered arm, once landed: out of its buffer slot, or already taken from a slot that has freed. -/
def State.armRow (s : State) (a : Arm) (r : Nat) : Option (List Byte) :=
  match a.taken[r]? with
  | some x => some x
  | none => if (r + 1) * descRowBeats a.desc ≤ a.beats then some (s.readMem (a.bufRow r) (descRowBytes a.desc)) else none

/-- Byte runs of stream bytes [o, o + n) in the buffer, row by row. -/
def Arm.bufRuns (a : Arm) : Nat → Nat → Nat → List (Nat × Nat)
  | 0, _, _ => []
  | fuel + 1, o, n =>
    if n = 0 || descRowBytes a.desc = 0 then []
    else
      let rb := descRowBytes a.desc
      let m := min n (rb - o % rb)
      (a.bufRow (o / rb) + o % rb, m) :: a.bufRuns fuel (o + m) (n - m)

/-- Bytes of the stream that have landed, in order. -/
def Arm.landedBytes (a : Arm) : Nat :=
  let rb := descRowBeats a.desc
  if rb = 0 then 0 else a.beats / rb * descRowBytes a.desc + a.beats % rb * 64

/-- The LINK_SEND or LINK_RECV port that serves a stream of a die, and the bytes its slots have moved. -/
def Pricking.linkPort (p : Pricking) (die stream action : Nat) : Option Nat :=
  ((p.slots.getD die []).find? fun e => e.action == action && e.operand == stream).map fun e =>
    if die < 4 then 4 * die + (e.unit - 0x30) else 16 + (die - 4)

/-! ### Release notices and silence (R218, R219, R263) -/

/-- Queue a control message on a port (R261, R262). -/
def State.queueCtl (s : State) (port : Nat) (m : CtlMsg) : State :=
  if s.g (.nir port) F.NIR_STATUS_STATE = 8 then
    { s with ports := tmod {} s.ports port fun u => { u with txq := u.txq ++ [m] } }
  else s

/-- The port on which a LINK_IN arm's data has arrived; that of its LINK_RECV slot before any has (R263). -/
def State.dataPort (s : State) (a : Arm) : Option Nat :=
  match a.pieces.getLast? with
  | some x => some x.1
  | none => s.img.bind fun p => p.linkPort a.die a.stream 6

/-- Send the release notice of a LINK_IN arm (R219). -/
def State.releaseNotice (s : State) (a : Arm) : State :=
  match s.dataPort a with
  | none => s
  | some port =>
    (s.queueCtl port (.release (descPeer a.desc) s.rank (a.owed % 65536) (s.grid.knot % 2 ^ 32))).setArm { a with owed := 0 }

def silenceKey (die n rank : Nat) : Nat := (die * 32 + n) * 2 ^ 15 + rank

/-- Ranks that an arm sends to. -/
def Arm.destRanks (a : Arm) : List Nat :=
  if a.kind = 3 then [descPeer a.desc] else a.remotes.map (·.2)

/-- Bytes of the stream up to the end of tile t. -/
def tileEnd (d : List Byte) (t : Nat) : Nat := min (descRows d) ((t + 1) * descTileRows d) * descRowBytes d

/-- Has the arm sent a receiver of this rank its first tile (R219)? -/
def Arm.sentTile (a : Arm) (rank : Nat) : Bool :=
  let n := tileEnd a.desc 0
  if a.kind = 3 then descPeer a.desc == rank && a.pieces.any fun p => decide (n ≤ 256 * p.2)
  else (a.remotes.filter fun r => r.2 == rank).any fun r => decide (n ≤ 256 * tget 0 a.pieces r.1)

/-- The silence count at a knot: it runs over the intervals in which a live transfer to the receiver had sent a tile
(R219). -/
def State.silenceKnot (s : State) : State :=
  let keys := s.silent
  keys.foldl (fun s p =>
    let x := p.2
    let live := (s.liveOn (p.1 / 2 ^ 20) (p.1 / 2 ^ 15 % 32)).any fun a => a.sentTile (p.1 % 2 ^ 15)
    let counts := x.sent || live
    let q := if x.heard then 0 else if counts then x.quiet + 1 else x.quiet
    let s := { s with silent := tput {} s.silent p.1 { quiet := q } }
    if q < 4 || x.heard || !counts then s
    else
      let die := p.1 / 2 ^ 20
      let n := p.1 / 2 ^ 15 % 32
      let rank := p.1 % 2 ^ 15
      let b := Blk.bob die
      let s := ((s.p b F.BOB_SILENT_RANK rank).p b F.BOB_SILENT_BOBBIN n).p b F.BOB_SILENT_VALID 1
      let slot := match (s.arms.filter fun a => a.die == die && a.bobbin == n).getLast? with | some a => a.slot | none => 0
      let s := ((s.p b (F.BOB_ERR_CODE n) 4).p b (F.BOB_ERR_SLOT n) slot).line die (64 + n)
      (s.unitErr b n 2 4 slot).raiseVoid die 6) s

/-! ### Buffer slots (R210, R217) -/

/-- Has every remote receiver been sent the stream up to byte n? -/
def Arm.sentTo (a : Arm) (n : Nat) : Bool :=
  if a.kind = 3 then a.pieces.any fun p => decide (n ≤ 256 * p.2)
  else a.remotes.all fun r => decide (n ≤ 256 * tget 0 a.pieces r.1)

/-- May the buffer slot of tile t free: have the consumers that this device knows of taken the tile's last row (R210)? The
array that reads a FEED says so by the event itself. -/
def State.canFree (s : State) (a : Arm) (t : Nat) : Bool :=
  let n := min (tileEnd a.desc t) (s.armBytes a)
  decide (t < descTiles a.desc) && (match a.kind with
    | 1 => true
    | 3 | 5 => a.sentTo n
    | 4 => a.pieces.any fun p => decide (n ≤ 256 * p.2)
    | _ => false)

/-- Beats of the stream up to the end of tile t. -/
def Arm.tileBeats (a : Arm) (t : Nat) : Nat := min (descRows a.desc) ((t + 1) * descTileRows a.desc) * descRowBeats a.desc

/-- What the free slot of tile t leaves behind: the rows a FEED's pass took, the notice a LINK_IN owes
(R210, R219). -/
def State.slotFreed (s : State) (a : Arm) (t : Nat) : State :=
  match a.kind with
  | 1 =>
    let n := min (descTileRows a.desc) (descRows a.desc - t * descTileRows a.desc)
    let rows := (List.range n).map fun i => s.readMem (a.bufRow (t * descTileRows a.desc + i)) (descRowBytes a.desc)
    s.setArm { a with freed := t + 1, taken := a.taken ++ rows }
  | 4 =>
    let a := { a with freed := t + 1, owed := a.owed + 1 }
    (s.setArm a).releaseNotice a
  | _ => s.setArm { a with freed := t + 1 }

/-- The buffer slot of the arm's oldest unfreed tile frees; every beat of the tile has landed by then (R210, log entry 4, DEDUCED). -/
def State.freeSlot (s : State) (a : Arm) : State :=
  let t := a.freed
  if !s.canFree a t then s
  else
    let (s, a, f) := s.landTo a (a.tileBeats t)
    match f with
    | some f => s.faultStop a f
    | none => s.slotFreed a t

/-- A consumer comes to need the stream's first n bytes: a live transfer has landed them by then, as far as its buffer slots
reach; a beat that faults stops it (R210, R220, log entry 4, DEDUCED). -/
def State.landAhead (s : State) (a : Arm) (n : Nat) : State × Arm :=
  let rb := descRowBytes a.desc
  let j := if rb = 0 then 0 else min (s.armLimit a) (n / rb * descRowBeats a.desc + ceilDiv (n % rb) 64)
  if a.phase != .live || a.kind = 4 || j ≤ a.beats then (s, a)
  else
    let (s, a, f) := s.landTo a j
    match f with
    | some f => (s.faultStop a f, { a with phase := .stopped })
    | none => (s, a)

/-! ### Stationary port (R128, R130, R216) -/

/-- The stationary buffer that the next load aims at is free: no vector uses it, and no tile in it waits for its pass. -/
def ArrayUnit.portFree (u : ArrayUnit) : Bool := !u.leaving && (if u.act then u.buf0 else u.buf1).isNone

/-- The image's last beat is written into the inactive buffer, with its tile record (R128, R216). -/
def State.statLand (s : State) (a : Arm) (arr : Nat) : State :=
  let bytes := (List.range (descRows a.desc)).flatMap fun r =>
    match s.srcRuns a r 0 (descRowBytes a.desc) with
    | some rs => s.readRuns rs
    | none => []
  let step := match s.run with | some r => r.q.step | none => 0
  { s with arrays := tmod {} s.arrays arr fun u =>
      let b : StatBuf := ⟨bytes, a.stream, step, true⟩
      if u.act then { u with buf0 := some b } else { u with buf1 := some b } }

/-! ### The end of a transfer (R211) -/

/-- The transfer ends: its slot is complete, a host arm is done. -/
def State.armEnd (s : State) (a : Arm) : State :=
  ((s.setArm { a with phase := .ended }).slotComplete a.die a.slot a.beats).hostArmEnd a false

/-- The last beat of a live transfer completes (R211); a beat that faults stops it instead (R220). -/
def State.transferEnd (s : State) (a : Arm) : State :=
  let total := descBeats a.desc
  if s.armLimit a < total || (a.kind = 4 && !(a.pieces.any fun p => decide (s.armBytes a ≤ 256 * p.2)))
    || (a.kind = 5 && !a.sentTo (s.armBytes a)) then s
  else
    let (s, a, f) := s.landTo a total
    match f with
    | some f => s.faultStop a f
    | none =>
      match a.kind with
      | 2 =>
        let arr := 2 * a.die + descArray a.desc
        if (tget {} s.arrays arr).portFree then (s.statLand a arr).armEnd a
        else { s with arrays := tmod {} s.arrays arr fun u => { u with held := u.held ++ [⟨a.bobbin, a.slot⟩] } }
      | 4 =>
        let n := descTiles a.desc - a.freed
        let a := { a with freed := descTiles a.desc, owed := a.owed + n }
        let s := s.setArm a
        (s.releaseNotice a).armEnd { a with owed := 0 }
      | 5 => s.armEnd { a with freed := descTiles a.desc }
      | _ => s.armEnd a

/-! ### Host-armed copies (R223) -/

/-- Is a descriptor a valid COPY (R205, R208)? -/
def validCopy (d : List Byte) : Bool :=
  let w0 := leAt d 0 4
  let pat := descPattern d
  let rb := descRowBytes d
  let st := descSrcStride d
  let ds := descDstStride d
  w0 % 16 == 0 && pat != 3 && bits w0 15 6 == 0 && bits w0 31 24 == 0 && bits (leAt d 4 4) 31 24 == 0
    && bits (leAt d 8 4) 31 21 == 0 && leAt d 12 4 == 0 && decide (leAt d 16 8 < 2 ^ 48) && decide (leAt d 24 8 < 2 ^ 48)
    && bits (leAt d 32 4) 31 28 == 0 && bits (leAt d 36 4) 31 28 == 0 && leAt d 40 4 == 0
    && bits (leAt d 44 4) 31 28 == 0 && (pat == 2 || descIndex d == 0) && leNat ((d.drop 48).take 16) == 0
    && decide (32 ≤ rb) && decide (rb ≤ 2 ^ 20) && rb % 32 == 0
    && (if pat = 0 then st == 0 else st != 0) && (pat != 1 || (decide (rb ≤ st) && st % 32 == 0))
    && (ds == 0 || (decide (rb ≤ ds) && ds % 32 == 0))

/-- Serve a write of BOB_ARM.GO (R223). -/
def State.hostArm (s : State) (die : Nat) : State :=
  let b := Blk.bob die
  let n := s.g b F.BOB_ARM_BOBBIN
  let va := s.g2 b F.BOB_ARM_VA_LO_VA_LO F.BOB_ARM_VA_HI_VA_HI
  let s := { s with hostGo := s.hostGo.filter (· != die) }
  let desc := match walkRange s.pages false va 64 with
    | some rs => if (s.badRuns rs 0).isSome then [] else s.readRuns rs
    | none => []
  let reason : Nat :=
    if !s.expert then 1 else if s.run.isSome || !s.queue.isEmpty then 2
    else if n < bobbins die && (s.pendingOn die n).isSome then 3
    else if va % 64 ≠ 0 || desc.length ≠ 64 || !validCopy desc then 4
    else if n ≥ bobbins die then 5
    else if die = 4 && n = 7 then 6 else 0
  let s := (((s.p b F.BOB_ARM_STATUS_DONE 0).p b F.BOB_ARM_STATUS_REFUSED 0).p b F.BOB_ARM_STATUS_ABORTED 0).p b
    F.BOB_ARM_STATUS_REASON reason
  if reason ≠ 0 then
    (((s.p b F.BOB_ARM_STATUS_REFUSED 1).p b F.BOB_ARM_STATUS_BUSY 0).line die 97).event
      { type := 0x32, cls := 0, die := die, block := b.index, inst := n, code := 1, data := reason }
  else
    let s := { s with arms := s.arms.filter fun (a : Arm) => a.stream != 0x1FFFF || a.phase == ArmPhase.live || a.phase == ArmPhase.pending }
    (s.p b F.BOB_ARM_STATUS_BUSY 1).arm
      { die := die, bobbin := n, stream := 0x1FFFF, hostVa := va, desc := desc, gen := 0, slot := 0x1FFFF, phase := .pending }

/-- At a step's first knot: host-armed transfers are stopped and ABORTED is set; then no transfer is live and every
buffer slot is free (R221, R223). -/
def State.bobbinsFirstKnot (s : State) : State :=
  let hosts := s.arms.filter fun a => a.stream == 0x1FFFF && (a.phase == .live || a.phase == .pending)
  let s := hosts.foldl (fun s a => s.hostArmEnd a true) s
  let s := { s with arms := [], links := [], silent := [] }
  s.bobSyncAll.forN 6 fun d s => s.forN (bobbins d) fun n s =>
    (s.p (.bob d) (F.BOB_STATUS_EMPTY n) 0).p (.bob d) (F.BOB_STATUS_FAULT n) 0

/-! ### The commands of this chapter -/

/-- PENDING_ARM_EFFECT (R212). -/
def execPendingArmEffect (die : Die) (bobbin : BobbinId) (s : State) : Host.Outcome State Fault Refusal :=
  .next (s.pendingArm die.val bobbin.val)

/-- BUFFER_SLOT_FREE (R210): of the live transfer, or of one that has ended and still holds tiles. -/
def execBufferSlotFree (die : Die) (bobbin : BobbinId) (arm : ArmRef) (s : State) : Host.Outcome State Fault Refusal :=
  match (s.armsOf die.val bobbin.val arm.desc arm.gen.toNat).find? fun a =>
      (a.phase == .live || a.phase == .ended) && decide (a.freed < descTiles a.desc) with
  | none => .next s
  | some a => .next ((s.freeSlot a).settleUe .unit)

/-- TRANSFER_COMPLETE (R211): a completion of a transfer the bobbin never armed is fatal (R222). -/
def execTransferComplete (die : Die) (bobbin : BobbinId) (arm : ArmRef) (s : State) : Host.Outcome State Fault Refusal :=
  match s.armOf die.val bobbin.val arm.desc arm.gen.toNat with
  | some a => .next ((s.transferEnd a).settleUe .unit)
  | none =>
    if !(s.armsOf die.val bobbin.val arm.desc arm.gen.toNat).isEmpty || bobbin.val ≥ bobbins die.val then .next s
    else
      let b := Blk.bob die.val
      let s := (s.p b (F.BOB_ERR_CODE bobbin.val) 7).unitErr b bobbin.val 3 7 0
      .next (s.fatal die.val 0x0B (b.index * 256 + 7))

/-- The beat of a transfer that a fault names is lost, and the transfer stops there (R220, R222). A lookup that the page map
would answer failed its entry's parity, which the next knot mends (R247); a transfer looks up its source unless that is
its buffer, and its destination where that is DST. The bobbin's own parity error stops the transfer with an INPUT_MISSING
snag. The beat of a buffer has no DVA: it reads 0 (log entry 4, DEDUCED). -/
def State.beatStop (s : State) (a : Arm) (r beat : Nat) (cause : BeatCause) : State :=
  let j := r * descRowBeats a.desc + beat
  let src := if a.kind = 4 then 0 else s.srcRow a.die a.desc r + 64 * beat
  match cause with
  | .state =>
    let s := (s.setArm { a with phase := .stopped }).bobErr a 6
    let s := if a.stream = 0x1FFFF && s.lastHostArm a then s.p (.bob a.die) F.BOB_ARM_STATUS_BUSY 0 else s
    s.raiseVoid a.die 5
  | .media =>
    let dpa := if a.kind = 4 then a.bufRow r + 64 * beat else (s.xlat a.die false src).getD 0
    (s.markBad dpa).faultStop a ⟨j, true, src, dpa⟩
  | .lookup write =>
    if (if write then a.kind != 0 && a.kind != 4 && a.locals.isEmpty else a.kind == 4) then s
    else
      let va := if write then dstRow a.desc r + 64 * beat else src
      let s := match pageOf s.tlb va with
        | some p => { s with tlbBad := s.tlbBad ++ [(a.die, p.va)] }
        | none => s
      s.faultStop a ⟨j, false, va, 0⟩

/-- BEAT_FAULT (R220, R222): the beats before it have landed. -/
def execBeatFault (die : Die) (bobbin : BobbinId) (arm : ArmRef) (row : BitVec 24) (beat : BitVec 14) (cause : BeatCause)
    (s : State) : Host.Outcome State Fault Refusal :=
  match s.armOf die.val bobbin.val arm.desc arm.gen.toNat with
  | none => .next s
  | some a =>
    let j := row.toNat * descRowBeats a.desc + beat.toNat
    if j < a.beats || j ≥ descBeats a.desc || beat.toNat ≥ descRowBeats a.desc then .next s
    else
      let (s, a, f) := s.landTo a j
      .next (match f with
        | some f => (s.faultStop a f).settleUe .unit
        | none => (s.beatStop a row.toNat beat.toNat cause).settleUe .unit)

/-- HOST_ARM: the device serves a write of BOB_ARM.GO within 2 µs (R223). -/
def execHostArm (die : Die) (s : State) : Host.Outcome State Fault Refusal :=
  .next (if die.val ∈ s.hostGo then s.hostArm die.val else s)

/-- RELEASE_RECEIVE: the notice is put down to every transfer of this rank that sends to SRC_RANK (R219, R263). -/
def State.releaseFrom (s : State) (src : Nat) : State :=
  let keys := (s.arms.filter fun a => a.phase == .live && src ∈ a.destRanks).map fun a => silenceKey a.die a.bobbin src
  keys.foldl (fun s k => { s with silent := tmod {} s.silent k fun x => { x with heard := true } }) s

end Sys2Proof.Machine
end

