-- ==== Sys2Proof/Machine/Links.lean ====
section
/-! DEFINITION. Nirid ports: training, frames, control flits, errors and port down (R251 to R276). -/

namespace Sys2Proof.Machine

/-- Die of a port, its index on the die, and its counter set (R251, R434). -/
def portDie (p : Nat) : Nat := if p < 16 then p / 4 else 4 + (p - 16)
def portIdx (p : Nat) : Nat := if p < 16 then p % 4 else 0
def portSet (p : Nat) : Nat := if p < 16 then 13 + p % 4 else 4

def State.portState (s : State) (p : Nat) : Nat := s.g (.nir p) F.NIR_STATUS_STATE
def State.portUp (s : State) (p : Nat) : Bool := s.portState p == 8

/-- UP at 2.0: the only ports that carry scheduled traffic, beacons and snags (R273). -/
def State.portUp2 (s : State) (p : Nat) : Bool := s.portUp p && s.g (.nir p) F.NIR_STATUS_VER == 2

def State.portMod (s : State) (p : Nat) (f : PortUnit → PortUnit) : State := { s with ports := tmod {} s.ports p f }
def State.portU (s : State) (p : Nat) : PortUnit := tget {} s.ports p

/-- Does the pricking schedule a slot on the port? -/
def Pricking.usesPort (pk : Pricking) (p : Nat) : Bool :=
  (pk.slots.getD (portDie p) []).any fun e => (e.action == 5 || e.action == 6) && e.unit == 0x30 + portIdx p

/-! ### The beacon port (R36) -/

/-- Port with the smallest HOP, the lower index first, among those that carry the root and epoch followed and have not been
silent for the 16 µs that R40 allows. -/
def State.bestBeacon (s : State) : Option (Nat × PortBeacon) :=
  let root := s.g2 .grid F.GRID_ROOT_ID_LO_ID_LO F.GRID_ROOT_ID_HI_ID_HI
  let epoch := s.g .grid F.GRID_STATUS_EPOCH
  (s.grid.beacons.filter fun b => b.2.rootId == root && b.2.epoch == epoch && s.portUp2 b.1
      && !s.gb (.nir b.1) F.NIR_STATUS_PEER_FAULT && !s.gb (.nir b.1) F.NIR_STATUS_FOREIGN
      && decide ((s.grid.time % 2 ^ 64 + 2 ^ 64 - b.2.at_ % 2 ^ 64) % 2 ^ 64 ≤ nsT 16000)).foldl
    (fun m b => match m with
      | none => some b
      | some x => if b.2.hop < x.2.hop then some b else some x) none

/-- ROOT_PATH from the last valid figure on the beacon port (R38); the port's delay, kept in 1/256 ns, is rounded up to whole
ns (log entry 11, DESIGN CHOICE). -/
def State.rootPathNow (s : State) : Option Nat :=
  if s.beaconPort ≥ 18 then none
  else match s.grid.partnerPath.find? fun p => p.1 == s.beaconPort with
    | none => none
    | some p => some (p.2 + ceilDiv (s.g (.nir s.beaconPort) F.NIR_DELAY_DELAY) 256 + 96)

/-- This device's join report, queued on its beacon port (R38, R263). -/
def State.sendJoinReport (s : State) : State :=
  if s.beaconPort ≥ 18 then s
  else
    let s := s.queueCtl s.beaconPort (.joinReport s.identity
      (s.g2 .grid F.GRID_ROOT_ID_LO_ID_LO F.GRID_ROOT_ID_HI_ID_HI) (s.g .grid F.GRID_STATUS_EPOCH)
      (s.g .grid F.GRID_STATUS_HOP_COUNT) (s.gb .grid F.GRID_CTRL_BACKUP_EN) (s.g .grid F.GRID_PATH_ROOT_PATH))
    { s with grid := { s.grid with pathSent := s.g .grid F.GRID_PATH_ROOT_PATH } }

/-- Recompute ROOT_PATH; sent to the root again when it has risen by more than 64 ns (R38). -/
def State.updatePath (s : State) : State :=
  if s.isRoot then s
  else match s.rootPathNow with
    | none => s
    | some v =>
      let s := { s.p .grid F.GRID_PATH_ROOT_PATH (min v (2 ^ 20 - 1)) with grid := { s.grid with pathValid := true } }
      if s.lockState ≥ 2 && v > s.grid.pathSent + 64 then s.sendJoinReport else s

/-- Move to the best remaining port without leaving the lock state (R36). -/
def State.moveBeacon (s : State) : State :=
  if s.isRoot || s.lockState = 0 then s
  else match s.bestBeacon with
    | none => s.p .grid F.GRID_STATUS_BEACON_PORT 0x1F
    | some (p, b) =>
      if p = s.beaconPort then s
      else ((s.p .grid F.GRID_STATUS_BEACON_PORT p).p .grid F.GRID_STATUS_HOP_COUNT (b.hop + 1)).updatePath

/-- FOREIGN in GRID_STATUS: some port carries another root's beacons (R34). -/
def State.foreignSync (s : State) : State :=
  s.pb .grid F.GRID_STATUS_FOREIGN ((List.range 18).any fun p => s.gb (.nir p) F.NIR_STATUS_FOREIGN)

/-! ### TRAIN_PORTS (R326) -/

def State.portSettled (s : State) (p : Nat) : Bool := let st := s.portState p; st == 8 || st == 1 || st == 0

def State.upMask (s : State) (ver : Nat) : Nat :=
  (List.range 18).foldl (fun a p => a + if s.portUp p && s.g (.nir p) F.NIR_STATUS_VER == ver then 2 ^ p else 0) 0

/-- A TRAIN_PORTS completes once every named port is UP, DOWN or DISABLED (R326). -/
def State.settleTrain (s : State) : State :=
  let done := s.cmds.filter fun c => c.opcode == 0x20 && (List.range 18).all fun p => !bit c.arg p || s.portSettled p
  done.foldl (fun s c => s.complete c Code.success (s.upMask 2 + s.upMask 1 * 2 ^ 32)) s

/-! ### Port states (R272, R274, R275) -/

/-- NIR_DOWN, the event and interrupt of a port that goes down, and what its traffic loses (R275). -/
def State.portDown (s : State) (p reason lane state : Nat) : State :=
  let b := Blk.nir p
  let closing := if s.portUp p then some ((s.grid.time + nsT 1000) % 2 ^ 64, s.g b F.NIR_STATUS_VER) else none
  let s := ((s.p b F.NIR_DOWN_REASON reason).p b F.NIR_DOWN_LANE lane).inc b F.NIR_DOWN_COUNT 1
  let s := ((s.p b F.NIR_STATUS_STATE state).p b F.NIR_STATUS_VER 0).p b F.NIR_STATUS_LANE_LOCK 0
  let s := ((s.p b F.NIR_STATUS_PEER_FAULT 0).p b F.NIR_STATUS_FOREIGN 0).p b F.NIR_CTL_CREDITS 0
  let s := s.portMod p fun u => { u.anew with closing := closing }
  let s := { s with links := s.links.filter fun (l : LinkRun) => l.port != p
                    grid := { s.grid with beacons := tput ⟨0, 0, 32, 0⟩ s.grid.beacons p ⟨0, 0, 32, 0⟩ } }
  let s := (s.line (portDie p) (112 + portIdx p)).event
    { type := 0x40, cls := 0, die := b.die, block := b.index, inst := p, code := reason, data := lane }
  let s := (if p = s.beaconPort then s.moveBeacon else s).foreignSync
  let s := match s.img with
    | some pk => if pk.usesPort p then s.withdraw true else s
    | none => s
  s.settleTrain

/-- A port that is UP goes down for a cause of R274.
Readings: log entry 38, DEDUCED. -/
def State.portFails (s : State) (p reason lane : Nat) : State := if s.portUp p then s.portDown p reason lane 1 else s

/-- GO: train from DOWN; ignored in any other state (R272). MAX_VER and PRECODE are those of this training (R278). -/
def State.trainGo (s : State) (p : Nat) : State :=
  if s.portState p ≠ 1 then s
  else
    let s := (s.p (.nir p) F.NIR_STATUS_STATE 2).p (.nir p) F.NIR_STATUS_FALLBACK 0
    s.portMod p fun u => { u.anew with
      maxVer := s.g (.nir p) F.NIR_CTRL_MAX_VER, askPre := s.gb (.nir p) F.NIR_CTRL_PRECODE }

/-- STOP: take the port down (R274). -/
def State.trainStop (s : State) (p : Nat) : State :=
  if s.portState p ≤ 1 then s else s.portDown p 1 0 1

/-- Version that both ends offer: a partner above 2.0 counts as 2.0 (R272, R273). -/
def State.commonVer (s : State) (p : Nat) : Nat :=
  if (s.portU p).maxVer = 2 && s.g (.nir p) F.NIR_PEER_INFO_MAX_VER ≥ 0x20 then 2 else 1

/-- The port reaches UP: 192 credits, sequence numbers from the start (R262, R272). -/
def State.portReady (s : State) (p : Nat) : State :=
  let s := (s.p (.nir p) F.NIR_STATUS_STATE 8).p (.nir p) F.NIR_CTL_CREDITS 192
  (s.portMod p fun u => { u.anew with delays := u.delays, precoded := u.precoded }).settleTrain

/-- The effect of an accepted NIR_ apply (R278): ENABLE 0 takes the port to DISABLED, ENABLE 1 from there to DOWN. -/
def State.nirEffect (s : State) (p : Nat) : State :=
  let en := s.gb (.nir p) F.NIR_CTRL_ENABLE
  if !en && s.portState p ≠ 0 then s.portDown p 1 0 0
  else if en && s.portState p = 0 then s.p (.nir p) F.NIR_STATUS_STATE 1 else s

/-! ### Receiving ordered sets (R264, R265) -/

/-- The set just received on a port, whatever became of it, for the repeat rule (R265). -/
def State.noteOs (s : State) (p : Nat) (os : OrdSet) : State := s.portMod p fun u => { u with lastOs := leBytes 64 os.toNat }

/-- A set that fails its CRC or carries a reserved TYPE is dropped and counted; one identical to the set just before it
on the same port is dropped. Answers whether the set is to be handled. -/
def State.rxOs (s : State) (p : Nat) (os : OrdSet) : State × Bool :=
  match osRx os with
  | .idle => (s.noteOs p os, false)
  | .drop => ((s.inc (.nir p) F.NIR_OS_DROP_COUNT 1).noteOs p os, false)
  | .set _ bs => (s.noteOs p os, (s.portU p).lastOs != bs)

/-! ### Slot errors (R276) -/

/-- A contained error of a port: its registers, its event, and the snag of a step (R276). -/
def State.slotErr (s : State) (p code slot knot : Nat) : State :=
  let b := Blk.nir p
  let s := ((s.p b F.NIR_SLOT_ERR_CODE code).p b F.NIR_SLOT_ERR_SLOT slot).p2 b F.NIR_SLOT_ERR_KNOT_LO_KNOT_LO
    F.NIR_SLOT_ERR_KNOT_HI_KNOT_HI knot
  let s := (s.line (portDie p) (116 + portIdx p)).unitErr b p 2 code slot
  s.raiseVoid (portDie p) 5

/-- The same outside a step, where R276 only counts it: in the event ring, with no error register and no snag (R417). -/
def State.slotNote (s : State) (p code slot : Nat) : State := s.unitErr (.nir p) p 2 code slot

/-! ### Control traffic (R261 to R263) -/

/-- What a data position without a scheduled flit carries: a replayed flit, the next message while credits last, or a
NULL flit (R261, R262). -/
def State.nextCtl (s : State) (p : Nat) : State × List Byte :=
  let u := s.portU p
  let sent (s : State) : State := s.count (portDie p) (portSet p) 3 256
  match u.replay, u.txq with
  | r :: rest, _ => (sent (s.portMod p fun u => { u with replay := rest }), encCtl r.1 r.2)
  | [], m :: rest =>
    if s.g (.nir p) F.NIR_CTL_CREDITS = 0 || u.unacked.length ≥ 192 then (s, encCtl 0 .null)
    else
      let seq := u.nextSeq
      let s := s.p (.nir p) F.NIR_CTL_CREDITS (s.g (.nir p) F.NIR_CTL_CREDITS - 1)
      let s := s.portMod p fun u => { u with
        txq := rest, nextSeq := (seq + 1) % 65536, unacked := u.unacked ++ [(seq, m)] }
      (sent s, encCtl seq m)
  | [], [] => (s, encCtl 0 .null)

/-- Sequence a precedes b, modulo 65,536. -/
def seqBefore (a b : Nat) : Bool := let d := (b + 65536 - a) % 65536; decide (1 ≤ d) && decide (d ≤ 32768)

/-- Link-level handling of a control flit (R261, R262): accepted only in SEQ order; a CRC failure or a gap sets NAK and is
counted (R276).
Answers the message when the flit is accepted. -/
def State.rxCtl (s : State) (p : Nat) (flit : CtlFlit) : State × CtlMsg :=
  let u := s.portU p
  let nak (s : State) : State := s.portMod p fun u => { u with nak := true, ctlErrs := u.ctlErrs + 1 }
  match decCtl flit with
  | none => (nak s, .null)
  | some (_, .null) => (s, .null)
  | some (seq, m) =>
    if seq = (u.rxSeq + 1) % 65536 then
      ((s.portMod p fun u => { u with rxSeq := seq, credit := u.credit + 1, nak := false }).count (portDie p) (portSet p) 4 256, m)
    else if seqBefore seq (u.rxSeq + 1) then (s, .null) else (nak s, .null)

/-- CTL_ACK, CREDIT_RET and NAK of a partner's SLOT_CHECK (R262): eight NAKs for the same SEQ take the port down. -/
def State.rxAck (s : State) (p ack credit : Nat) (nak : Bool) : State :=
  let c := min 192 (s.g (.nir p) F.NIR_CTL_CREDITS + credit)
  let s := s.p (.nir p) F.NIR_CTL_CREDITS c
  let keep (l : List (Nat × CtlMsg)) : List (Nat × CtlMsg) := l.filter fun q => seqBefore ack q.1
  let s := s.portMod p fun u => { u with unacked := keep u.unacked, replay := keep u.replay }
  if !nak then s.portMod p fun u => { u with nakCount := 0 }
  else
    let u := s.portU p
    let want := (ack + 1) % 65536
    let n := if u.nakSeq = want then u.nakCount + 1 else 1
    let s := s.portMod p fun u => { u with nakSeq := want, nakCount := n, replay := u.unacked }
    let s := (s.inc (.nir p) F.NIR_CTL_REPLAYS 1).count (portDie p) (portSet p) 7 1
    if n ≥ 8 then s.portFails p 9 0 else s

/-! ### Transmitting a frame (R254 to R259, R265, R269, R270) -/

/-- Order of ordered sets on the wire (R265). -/
def osRank (bs : List Byte) : Nat :=
  match leAt bs 0 1 with
  | 5 => 0 | 4 => 1 | 1 => 2 | 3 => 3 | 2 => 4 | 7 => 5 | _ => 6

/-- Take up to n waiting sets, by kind and age. -/
def takeOs : Nat → List (List Byte) → List (List Byte) × List (List Byte)
  | 0, l => ([], l)
  | n + 1, l =>
    match (List.range 7).findSome? fun k => l.find? fun x => osRank x == k with
    | none => ([], l)
    | some x => let (a, b) := takeOs n (l.erase x); (x :: a, b)

/-- The piece that LINK_SEND puts into position p of its frame f, once it has landed (R259). -/
def State.sendPiece (s : State) (a : Arm) (bytes i : Nat) : Option (List Byte) :=
  let n := min 256 (bytes - 256 * i)
  if 256 * i + n ≤ a.landedBytes then
    let bs := s.readRuns (a.bufRuns (n + 1) (256 * i) n)
    some (bs ++ List.replicate (256 - bs.length) 0)
  else none

/-- What a frame under way holds: flits so far, its MAP, and whether a piece was lacking. -/
structure TxAcc where
  s : State
  flits : List (List Byte)
  map : Nat
  lack : Bool

/-- Fill data position q of frame f of a LINK_SEND (R255, R259). -/
def txPosition (p : Nat) (run : Option (LinkRun × Arm × Nat)) (acc : TxAcc) (q : Nat) : TxAcc :=
  let ctl (lack : Bool) : TxAcc :=
    if lack then { acc with flits := acc.flits ++ [encCtl 0 .null], lack := true }
    else let (s, f) := acc.s.nextCtl p; { acc with s := s, flits := acc.flits ++ [f] }
  match run with
  | none => ctl false
  | some (l, a, f) =>
    let i := f * 50 + q
    if 256 * i ≥ l.bytes then ctl false
    else match acc.s.sendPiece a l.bytes i with
      | none => ctl true
      | some x => { acc with flits := acc.flits ++ [x], map := acc.map + 2 ^ q }

/-- Frame f of the slot has gone by. A receiver keeps those that it passes over, which may still come (R258). -/
def LinkRun.pass (l : LinkRun) (f : Nat) : LinkRun :=
  { l with
    done := max l.done (f + 1)
    missing := if l.send then [] else (l.missing ++ (List.range f).filter fun i => decide (l.done ≤ i)).filter (· != f) }

/-- Every frame of the slot has gone by. -/
def LinkRun.over (l : LinkRun) : Bool := decide (l.frames ≤ l.done) && l.missing.isEmpty

/-- Frame f of a LINK_SEND or LINK_RECV is over, landed or not; the slot completes with its last (R257). -/
def State.linkStep (s : State) (l : LinkRun) (f : Nat) : State :=
  let s := if l.done = 0 then s.slotActual l.die l.slot s.grid.time else s
  if (l.pass f).over then
    ({ s with links := s.links.filter (· != l) }).slotComplete l.die l.slot l.frames
  else { s with links := s.links.map fun x => if x = l then l.pass f else x }

/-- After a frame of a LINK_SEND: progress, counters, the silence watch and the end of the slot (R219, R257). -/
def State.sentFrame (s : State) (p : Nat) (l : LinkRun) (a : Arm) (f : Nat) : State :=
  let n := min (f * 50 + 50) (ceilDiv l.bytes 256)
  let s := s.setArm { a with pieces := tput 0 a.pieces p n }
  let rank := if a.kind = 3 then some (descPeer a.desc) else (a.remotes.find? fun r => r.1 == p).map (·.2)
  let s := match rank with
    | some r => if a.phase == ArmPhase.live && tileEnd a.desc 0 ≤ 256 * n then
        { s with silent := tmod {} s.silent (silenceKey a.die a.bobbin r) fun x => { x with sent := true } } else s
    | none => s
  s.linkStep l f

/-- The LINK_SEND or LINK_RECV that occupies slot j of knot n on a port, and which of its frames that is; one gone by is not
found again (R257, R258). -/
def State.linkAt (s : State) (p : Nat) (send : Bool) (n j : Nat) : Option (LinkRun × Arm × Nat) :=
  match s.links.find? fun l => l.port == p && l.send == send && l.knot == n && decide (l.first ≤ j) && decide (j < l.first + l.frames)
      && (decide (l.done ≤ j - l.first) || (j - l.first) ∈ l.missing) with
  | none => none
  | some l => (s.arms.find? fun a => a.die == l.die && a.stream == l.stream && a.gen == l.gen).map fun a => (l, a, j - l.first)

/-- The LINK_SEND that slot j of a knot belongs to, with its pieces for this frame landed (R210, R257); none where the partner
is foreign (R34). -/
def State.sendRun (s : State) (p knot j : Nat) : State × Option (LinkRun × Arm × Nat) :=
  if s.gb (.nir p) F.NIR_STATUS_FOREIGN then (s, none)
  else match s.linkAt p true knot j with
    | none => (s, none)
    | some (l, a, f) =>
      let (s, a) := s.landAhead a (min l.bytes (256 * (f * 50 + 50)))
      (s, some (l, a, f))

/-- A content with n bytes from byte o replaced, and its CRC. -/
def osStamp (bs : List Byte) (o n v : Nat) : List Byte := osSeal ((bs.take o ++ leBytes n v ++ bs.drop (o + n)).take 60)

/-- The global time of the edge on which a set leaves goes into it: SEND_TIME of a BEACON, T1 of a DELAY_REQ, T3 of a
DELAY_RESP (R265 to R267). A DELAY_REQ is remembered until its answer. The sets of a frame leave at one time (log entry 38,
DEDUCED). -/
def State.stampOs (s : State) (p : Nat) (bs : List Byte) : State × List Byte :=
  let t := s.grid.time
  match leAt bs 0 1 with
  | 1 => (s, osStamp bs 12 8 t)
  | 2 => (s.portMod p fun u => { u with req := some (leAt bs 1 1, t) }, osStamp bs 4 8 t)
  | 3 => (s, osStamp bs 20 8 t)
  | _ => (s, bs)

/-- Ordered sets leave in order, each stamped; FAULTs and SNAGs count (R265). -/
def State.emitSets (s : State) (p : Nat) (sets : List (List Byte)) : State :=
  let s := sets.foldl (fun s b => let (s, b) := s.stampOs p b; s.emit (.ordSet p b)) s
  s.count (portDie p) (portSet p) 8 ((sets.filter fun b => decide (osRank b ≤ 1)).length)

/-- A frame leaves: its positions, its SLOT_CHECK and its ordered sets. At 2.0 the check names slot, knot and MAP; at 1.0 they
are zero (R255, R256, R270). Credits go back once (R262). -/
def State.emitFrame (s : State) (p j ver : Nat) (flits : List (List Byte)) (map : Nat) (sets : List (List Byte)) : State :=
  let u := s.portU p
  let c := min u.credit 192
  let crc := crc32 flits.flatten
  let check := encSlotCheck (if ver = 2 then ⟨j, s.grid.knot, map, crc, u.rxSeq, c, u.nak⟩ else ⟨0, 0, 0, crc, u.rxSeq, c, u.nak⟩)
  let s := s.portMod p fun u => { u with credit := u.credit - c }
  (s.emit (.frame p j flits check)).emitSets p sets

/-- Data positions, and places beside the SLOT_CHECK, of a frame (R255, R256). -/
def positionsOf (ver : Nat) : Nat := if ver = 2 then 50 else 24
def placesOf (ver : Nat) : Nat := if ver = 2 then 7 else 3

/-- A frame of a port that sends one ordered set in every place, and no message (R269, R274). -/
def State.fillFrame (s : State) (p j ver : Nat) (os : List Byte) : State :=
  s.emitFrame p j ver (List.replicate (positionsOf ver) (encCtl 0 .null)) 0 (List.replicate (placesOf ver) os)

/-- The TRAIN that a lane sends (R271): ACK once every lane hears the partner's. -/
def State.trainOs (s : State) (p lane : Nat) : List Byte :=
  let u := s.portU p
  encTrain { state := s.portState p, maxVer := u.maxVer * 16, precode := u.askPre
             ack := (List.range 8).all fun l => tget 0 u.lanes l != 0, switch := false
             identity := s.g2 .dev F.DEV_SERIAL_LO_SERIAL_LO F.DEV_SERIAL_HI_SERIAL_HI + p * 2 ^ 56
             fwdSlots := 0, lane := lane }

/-- Does the port run delay exchanges: in DELAY and while UP, at 2.0 (R36, R272)? -/
def State.delayOn (s : State) (p : Nat) : Bool :=
  s.portUp2 p || (s.portState p == 7 && s.g (.nir p) F.NIR_STATUS_VER == 2)

/-- A training port sends TRAIN in every free place of every lane; the exchanges of DELAY go before (R267, R272). -/
def State.trainSend (s : State) (p : Nat) : State :=
  let s := if !s.delayOn p then s else
    let (sets, rest) := takeOs 7 (s.portU p).osq
    (s.portMod p fun u => { u with osq := rest }).emitSets p sets
  s.forN 8 fun l s => s.emit (.train p l (s.trainOs p l))

/-- Transmit the frame of scheduled slot j (R254, R255). In the fail-safe state both places carry FAULT and nothing else
(R269); a port that goes down fills them with PORT_DOWN for 1 µs (R274); a 1.0 port sends its shorter frame (R256); a port in
training sends TRAIN (R272). -/
def State.transmit (s : State) (p j : Nat) : State :=
  let u := s.portU p
  let ver := s.g (.nir p) F.NIR_STATUS_VER
  match u.closing with
  | some (t, v) =>
    if timeBefore t s.grid.time then s.portMod p fun u => { u with closing := none }
    else s.fillFrame p j v (encPortDown (s.g (.nir p) F.NIR_DOWN_REASON))
  | none =>
    if 2 ≤ s.portState p && s.portState p < 8 then s.trainSend p
    else if !s.portUp p then s
    else if s.fatalSet then s.fillFrame p j ver s.faultOs
    else if ver ≠ 2 then
      let acc := (List.range 24).foldl (txPosition p none) ⟨s, [], 0, false⟩
      let (sets, rest) := takeOs 3 (u.osq.filter fun b => osRank b == 0 || osRank b == 5)
      (acc.s.portMod p fun u => { u with osq := rest }).emitFrame p j ver acc.flits 0 sets
    else
      let (s, run) := s.sendRun p s.grid.knot j
      let acc := (List.range 50).foldl (txPosition p run) ⟨s, [], 0, false⟩
      let (sets, rest) := takeOs 7 u.osq
      let s := (acc.s.portMod p fun u => { u with osq := rest }).emitFrame p j ver acc.flits acc.map sets
      match run with
      | none => s
      | some (l, a, f) =>
        let n := ((List.range 50).filter fun q => bit acc.map q).length
        let s := (s.inc (.nir p) F.NIR_SCHED_TX_COUNT n).count (portDie p) (portSet p) 1 (256 * n)
        let s := s.sentFrame p l a f
        if acc.lack then s.slotErr p 5 j s.grid.knot else s

/-! ### Receiving a frame (R260, R276) -/

/-- What the decoder makes of a codeword whose symbols the line changed, lane by lane: up to 15 are corrected, more are marked
(R253). -/
def wordWrong (w : List Nat) : Nat := w.foldl (· + ·) 0
def wordFixed (w : List Nat) : Bool := decide (1 ≤ wordWrong w) && decide (wordWrong w ≤ 15)
def wordLost (w : List Nat) : Bool := decide (15 < wordWrong w)

/-- Codewords corrected, codewords marked, and the symbols found wrong on lane l: the decoder finds those that it corrects (log
entry 38, DEDUCED). -/
def rxFixed (f : RxFrame) : Nat := (f.lines.filter wordFixed).length
def rxLost (f : RxFrame) : Nat := (f.lines.filter wordLost).length
def rxSymbols (f : RxFrame) (l : Nat) : Nat := (f.lines.filter wordFixed).foldl (fun n w => n + w.getD l 0) 0

/-- Codewords that hold bits of the SLOT_CHECK: bits 102,400 to 102,911 of a 2.0 frame, 49,152 to 49,663 of a 1.0 frame, at
5,140 bits to a codeword (R253, R255, R256). -/
def checkWords (ver : Nat) : List Nat := if ver = 2 then [19, 20] else [9]

/-- The SLOT_CHECK of a frame; no data of a marked codeword is used (R253). -/
def rxCheck (ver : Nat) (f : RxFrame) : Option SlotCheck :=
  if (checkWords ver).any fun i => wordLost (f.lines.getD i []) then none else decSlotCheck f.check

/-- Positions that frame f of a LINK_RECV is to bring (R259, R260). -/
def expectMap (l : LinkRun) (f : Nat) : Nat := 2 ^ (min (ceilDiv l.bytes 256 - f * 50) 50) - 1

/-- Land the pieces of a sound frame in the LINK_IN buffer (R258 to R260); one that meets a buffer slot which is not free
is discarded, a contained error of the bobbin (R218, R222). -/
def State.landFrame (s : State) (p : Nat) (l : LinkRun) (a : Arm) (f : Nat) (flits : List (List Byte)) : State :=
  let first := f * 50
  let n := min 50 (ceilDiv l.bytes 256 - first)
  let lastByte := min (l.bytes) (256 * (first + n)) - 1
  let tile := if descRowBytes a.desc = 0 || descTileRows a.desc = 0 then 0
    else lastByte / descRowBytes a.desc / descTileRows a.desc
  if tile ≥ a.freed + descLook a.desc + 1 then
    ((s.bobErr a 5).linkStep l f).raiseVoid a.die 5
  else
    let s := (List.range n).foldl (fun s q =>
      let i := first + q
      let m := min 256 (l.bytes - 256 * i)
      s.writeRuns (a.bufRuns (m + 1) (256 * i) m) ((flits.getD q []).take m)) s
    let s := s.setArm { a with pieces := tput 0 a.pieces p (max (tget 0 a.pieces p) (first + n)) }
    let s := (s.inc (.nir p) F.NIR_SCHED_RX_COUNT n).count (portDie p) (portSet p) 2 (256 * n)
    s.linkStep l f

/-- FEC counters of a frame, and the limits over the last 1 ms: past one of them a port that is UP goes down (R253, R274). -/
def State.rxFec (s : State) (p : Nat) (f : RxFrame) : State :=
  let b := Blk.nir p
  let s := (s.inc b F.NIR_FEC_CORR_COUNT (rxFixed f)).inc b F.NIR_FEC_UE_COUNT (rxLost f)
  let s := (s.count (portDie p) (portSet p) 5 (rxFixed f)).count (portDie p) (portSet p) 6 (rxLost f)
  let s := s.forN 8 fun l s => s.inc b (F.NIR_SYM_ERR_COUNT l) (rxSymbols f l)
  if rxFixed f + rxLost f = 0 then s
  else
    let now := s.grid.time
    let recent := (s.portU p).fecErrs.filter fun e => decide ((now + 2 ^ 64 - e.1 % 2 ^ 64) % 2 ^ 64 < nsT 1000000)
    let errs := (now, rxLost f, (List.range 8).map (rxSymbols f)) :: recent
    let s := s.portMod p fun u => { u with fecErrs := errs }
    let lane := (List.range 8).find? fun l =>
      decide (s.g b F.NIR_CTRL_SER_LIMIT * 256 < errs.foldl (fun n e => n + e.2.2.getD l 0) 0)
    if s.g b F.NIR_CTRL_UE_LIMIT < errs.foldl (fun n e => n + e.2.1) 0 then s.portFails p 7 0
    else match lane with
      | some l => s.portFails p 8 l
      | none => s

/-- KNOT and SLOT of a frame whose SLOT_CHECK cannot be read: those after the frame before it; past the usable slots, a frame
that a LINK_RECV expects in slot 0 of the next knot (log entry 38, DEDUCED). -/
def State.rxNext (s : State) (p : Nat) : Option (Nat × Nat) :=
  (s.portU p).rxAt.map fun x =>
    let next := ((x.1 + 1) % 2 ^ 48, 0)
    if s.g .grid F.GRID_EFF_INT_INTERVAL / 64 ≤ x.2 + 1 && (s.linkAt p false next.1 0).isSome then next else (x.1, x.2 + 1)

/-- A frame whose SLOT_CHECK is not read. During a step its uncorrectable codeword is an error at once, and the frame then
lands nothing; without one, its missing SLOT_CHECK shows at SLOT_CHECK_TIMEOUT (R260, R276). -/
def State.rxBlind (s : State) (p : Nat) (lost : Bool) : State :=
  let at_ := s.rxNext p
  let s := s.portMod p fun u => { u with rxAt := at_ }
  let (knot, slot) := at_.getD (s.grid.knot, 0)
  if !lost then s
  else if s.run.isNone then s.slotNote p 1 slot
  else match s.linkAt p false knot slot with
    | some (l, _, f) => (s.linkStep l f).slotErr p 1 slot knot
    | none => s.slotErr p 1 slot knot

/-- A 2.0 frame with a sound SLOT_CHECK: landed, or the error that it shows (R260, R276). Frames of a voided step land
nothing and are no error. -/
def State.rxSlot (s : State) (p : Nat) (f : RxFrame) (c : SlotCheck) : State :=
  let lost := rxLost f != 0
  let crcBad := crc32 f.flits.flatten != c.crc
  let s := s.portMod p fun u => { u with rxAt := some (c.knot, c.slot) }
  match s.linkAt p false c.knot c.slot with
  | some (l, a, i) =>
    let code := if lost then 1 else if crcBad then 2 else if c.map ≠ expectMap l i then 3 else 0
    if code ≠ 0 then (s.linkStep l i).slotErr p code c.slot c.knot
    else (s.landFrame p l a i f.flits).settleUe .unit
  | none =>
    if lost then (if s.run.isSome then s.slotErr p 1 c.slot c.knot else s.slotNote p 1 c.slot)
    else if crcBad then s.slotErr p 2 c.slot c.knot
    else if c.map = 0 then s
    else if s.run.isNone then (s.portMod p fun u => { u with strayFrames := u.strayFrames + 1 }).slotNote p 6 c.slot
    else if s.liveRun.isSome then s.slotErr p 6 c.slot c.knot else s

/-- FRAME_RECEIVE's effect (R253, R255, R260, R262, R276). Control flits and ordered sets of the frame come as events of
their own. A port that carries another root's beacons takes no scheduled traffic (R34). -/
def State.receive (s : State) (p : Nat) (f : RxFrame) : State :=
  if !s.portUp p then s
  else
    let s := s.rxFec p f
    let ver := s.g (.nir p) F.NIR_STATUS_VER
    if !s.portUp p then s
    else
      let s := s.noteOs p f.check
      let scheduled := ver == 2 && !s.gb (.nir p) F.NIR_STATUS_FOREIGN
      match rxCheck ver f with
      | some c =>
        let s := s.rxAck p c.ctlAck c.credit c.nak
        if s.portUp p && scheduled then s.rxSlot p f c else s
      | none =>
        let s := if osRx f.check = .drop then s.inc (.nir p) F.NIR_OS_DROP_COUNT 1 else s
        if scheduled then s.rxBlind p (rxLost f != 0) else s

/-! ### FAULT (R269) -/

def State.faultIn (s : State) (p : Nat) (x : FaultSet) (bs : List Byte) : State :=
  let b := Blk.nir p
  let new := !s.gb b F.NIR_STATUS_PEER_FAULT
  let s := if !new then s else
    let s := (s.p b F.NIR_STATUS_PEER_FAULT 1).line (portDie p) (120 + portIdx p)
    let s := s.event { type := 0x41, cls := 2, die := b.die, block := b.index, inst := p, code := x.code
                       data := x.rank + (if x.noPricking then 2 ^ 15 else 0) + x.die * 2 ^ 16 }
    let s := match s.img with
      | some pk => if pk.usesPort p then s.withdraw true else s
      | none => s
    if p = s.beaconPort then s.moveBeacon else s
  if s.isRoot then
    if (x.identity, x.knot) ∈ s.grid.faultActed then { s with grid := { s.grid with dropped := s.grid.dropped + 1 } }
    else { s with grid := { s.grid with faultActed := s.grid.faultActed ++ [(x.identity, x.knot)] } }.rootVoid x.stepEnd
  else if x.identity ∈ s.grid.faultFwd then s
  else { s with grid := { s.grid with faultFwd := x.identity :: s.grid.faultFwd } }.sendUp bs

/-! ### The commands of this chapter -/

/-- NIR_TRAIN.GO and NIR_TRAIN.STOP, as the host writes them (R272, R274, R278). -/
def execNirTrainGo (port : Port) (s : State) : Host.Outcome State Fault Refusal :=
  .next (s.hostWrite ((Blk.nir port.val).base + F.NIR_TRAIN_GO.off) (·.trainGo port.val))

def execNirStop (port : Port) (s : State) : Host.Outcome State Fault Refusal :=
  .next (s.hostWrite ((Blk.nir port.val).base + F.NIR_TRAIN_GO.off) (·.trainStop port.val))

/-- TRAIN_RECEIVE: what the partner says, which of its lanes this lane hears, and how many valid TRAIN with ACK each lane has
seen in a row (R251, R271, R272). -/
def execTrainReceive (port : Port) (lane : Fin 8) (os : OrdSet) (s : State) : Host.Outcome State Fault Refusal :=
  let p := port.val
  let b := Blk.nir p
  if s.portState p < 2 || s.portState p = 8 then .next s
  else match decTrain os with
    | none =>
      let s := match osRx os with
        | .drop => s.inc b F.NIR_OS_DROP_COUNT 1
        | _ => s
      .next (s.portMod p fun u => { u with caps := tput 0 u.caps lane.val 0, lanes := tput 0 u.lanes lane.val 0 })
    | some t =>
      let s := (s.p2 b F.NIR_PEER_LO_ID_LO F.NIR_PEER_HI_ID_HI t.identity).p b F.NIR_PEER_INFO_MAX_VER t.maxVer
      let s := (s.p b F.NIR_PEER_INFO_FWD_SLOTS t.fwdSlots).pb b F.NIR_STATUS_PEER_SWITCH t.switch
      .next (s.portMod p fun u => { u with
        precode := t.precode
        lanes := tput 0 u.lanes lane.val (t.lane + 1)
        caps := tmod 0 u.caps lane.val fun n => if t.ack then min 16 (n + 1) else 0 })

def execTrainSignalDetect (port : Port) (s : State) : Host.Outcome State Fault Refusal :=
  .next (if s.portState port.val = 2 then
    (s.p (.nir port.val) F.NIR_STATUS_STATE 3).portMod port.val fun u => { u with caps := [], lanes := [] } else s)

def execTrainDetectTimeout (port : Port) (s : State) : Host.Outcome State Fault Refusal :=
  .next (if s.portState port.val = 2 then s.portDown port.val 2 0 1 else s)

/-- The order in which a port's lanes meet the partner's: straight, reversed, or one that no port supports (R251). -/
def State.laneOrder (s : State) (p : Nat) : Option Bool :=
  let l := s.portU p |>.lanes
  if (List.range 8).all fun i => tget 0 l i == i + 1 then some false
  else if (List.range 8).all fun i => tget 0 l i == 8 - i then some true
  else none

/-- Has every lane seen 16 valid TRAIN with ACK in a row (R272)? -/
def State.capsSeen (s : State) (p : Nat) : Bool := (List.range 8).all fun l => decide (16 ≤ tget 0 (s.portU p).caps l)

/-- TRAIN_CAPS_DONE: 16 valid TRAIN with ACK on every lane, in one of the two lane orders; the common version picks the
equalisation, and the lanes precode when both ends ask (R251, R252, R272, R273). -/
def execTrainCapsDone (port : Port) (s : State) : Host.Outcome State Fault Refusal :=
  let p := port.val
  match s.portState p == 3 && s.capsSeen p, s.laneOrder p with
  | true, some r =>
    .next (((s.p (.nir p) F.NIR_STATUS_STATE (if s.commonVer p = 2 then 4 else 5)).pb (.nir p) F.NIR_STATUS_REVERSED r).portMod p
      fun u => { u with eqTries := 0, precoded := u.askPre && u.precode })
  | _, _ => .next s

def execTrainCapsTimeout (port : Port) (s : State) : Host.Outcome State Fault Refusal :=
  .next (if s.portState port.val = 3 then s.portDown port.val 3 0 1 else s)

/-- TRAIN_EQ_DONE: every lane has FEC lock (R272). -/
def execTrainEqDone (port : Port) (s : State) : Host.Outcome State Fault Refusal :=
  let p := port.val
  let st := s.portState p
  if st = 4 || st = 5 then
    .next (((s.p (.nir p) F.NIR_STATUS_STATE 6).p (.nir p) F.NIR_STATUS_VER (if st = 4 then 2 else 1)).p (.nir p)
      F.NIR_STATUS_LANE_LOCK 0xFF)
  else .next s

/-- TRAIN_EQ_TIMEOUT: three attempts at each rate; 2.0 falls back to 1.0, 1.0 gives up (R272). -/
def execTrainEqTimeout (port : Port) (s : State) : Host.Outcome State Fault Refusal :=
  let p := port.val
  let n := (s.portU p).eqTries + 1
  let st := s.portState p
  if st ≠ 4 ∧ st ≠ 5 then .next s
  else if n < 3 then .next (s.portMod p fun u => { u with eqTries := n })
  else if st = 4 then
    .next (((s.p (.nir p) F.NIR_STATUS_STATE 5).p (.nir p) F.NIR_STATUS_FALLBACK 1).portMod p fun u => { u with eqTries := 0 })
  else .next (s.portDown p 4 0 1)

/-- TRAIN_ALIGN_DONE: lanes deskewed to at most 20 ns; at 2.0, frames aligned to slot starts as well (R272). -/
def execTrainAlignDone (port : Port) (framed : Bool) (skew : BitVec 16) (s : State) : Host.Outcome State Fault Refusal :=
  let p := port.val
  if s.portState p = 6 && decide (skew.toNat ≤ 20 * 256) && (framed || s.g (.nir p) F.NIR_STATUS_VER != 2) then
    .next ((s.p (.nir p) F.NIR_STATUS_STATE 7).p (.nir p) F.NIR_SKEW_SKEW skew.toNat)
  else .next s

def execTrainAlignTimeout (port : Port) (s : State) : Host.Outcome State Fault Refusal :=
  .next (if s.portState port.val = 6 then s.portDown port.val 5 0 1 else s)

/-- TRAIN_DELAY_DONE: at 2.0, eight delay exchanges have given NIR_DELAY; at 1.0 its figure comes with the event (log entry 38,
DEDUCED). The port is UP (R267, R272). -/
def execTrainDelayDone (port : Port) (delay : BitVec 24) (s : State) : Host.Outcome State Fault Refusal :=
  let p := port.val
  if s.portState p ≠ 7 then .next s
  else if s.g (.nir p) F.NIR_STATUS_VER ≠ 2 then .next ((s.p (.nir p) F.NIR_DELAY_DELAY delay.toNat).portReady p)
  else if (s.portU p).delays.length < 8 then .next s
  else .next (s.portReady p)

/-- LANE_LOCK_LOSS (R274). -/
def execLaneLockLoss (port : Port) (lane : Fin 8) (s : State) : Host.Outcome State Fault Refusal :=
  .next (s.portFails port.val 6 lane.val)

def execDeskewLoss (port : Port) (s : State) : Host.Outcome State Fault Refusal := .next (s.portFails port.val 0xB 0)

/-- FEC_ERROR_LIMIT: UE_LIMIT of the port, or SER_LIMIT of one lane, passed with the errors of fill codewords, which belong to
no frame (R254, R274); those of frames are compared as they arrive (State.rxFec). -/
def execFecErrorLimit (port : Port) (lane : Option (Fin 8)) (s : State) : Host.Outcome State Fault Refusal :=
  match lane with
  | none => .next (s.portFails port.val 7 0)
  | some l => .next (s.portFails port.val 8 l.val)

def execPortDownReceive (port : Port) (os : OrdSet) (s : State) : Host.Outcome State Fault Refusal :=
  let (s, ok) := s.rxOs port.val os
  .next (if ok && (osOf 7 os).isSome then s.portFails port.val 0xA 0 else s)

/-- FRAME_TRANSMIT of scheduled slot j of the current knot (R254). -/
def execFrameTransmit (port : Port) (slot : BitVec 16) (s : State) : Host.Outcome State Fault Refusal :=
  .next (s.transmit port.val slot.toNat)

def execFrameReceive (port : Port) (frame : RxFrame) (s : State) : Host.Outcome State Fault Refusal :=
  .next (s.receive port.val frame)

/-- The LINK_RECV whose slot j has not brought its SLOT_CHECK, and its knot: the end of the slot after the last of a knot falls
into the next knot (R276). -/
def State.lateLink (s : State) (p j : Nat) : Option (LinkRun × Nat × Nat) :=
  let old := (s.grid.knot + 2 ^ 48 - 1) % 2 ^ 48
  match s.linkAt p false old j with
  | some (l, _, f) => some (l, f, old)
  | none => (s.linkAt p false s.grid.knot j).map fun x => (x.1, x.2.2, s.grid.knot)

/-- SLOT_CHECK_TIMEOUT: no SLOT_CHECK of an expected frame by the end of the next slot (R276). -/
def execSlotCheckTimeout (port : Port) (slot : BitVec 16) (s : State) : Host.Outcome State Fault Refusal :=
  match s.lateLink port.val slot.toNat with
  | none => .next s
  | some (l, f, knot) => .next ((s.linkStep l f).slotErr port.val 4 slot.toNat knot)

/-- FAULT_RECEIVE (R269, R276). -/
def execFaultReceive (port : Port) (os : OrdSet) (s : State) : Host.Outcome State Fault Refusal :=
  let (s, ok) := s.rxOs port.val os
  match ok && s.portUp port.val, decFault os with
  | true, some x => .next (s.faultIn port.val x (leBytes 64 os.toNat))
  | _, _ => .next s

end Sys2Proof.Machine
end

