-- ==== Sys2Proof/Machine/Rings.lean ====
section
/-! DEFINITION. What every command of the host rings shares: the entry's fields, the start of a command, its refusals
(R13, R323 to R328, R421). -/

namespace Sys2Proof

/-! ### A submission entry (R324) -/

/-- Bytes off to off + n - 1 of an entry, little-endian. -/
def Sqe.field (e : Sqe) (off n : Nat) : Nat := e.params.toNat / 2 ^ (8 * (off - 8)) % 2 ^ (8 * n)

/-- Are bytes lo to hi - 1 of the entry zero? -/
def Sqe.zero (e : Sqe) (lo hi : Nat) : Bool := e.field lo (hi - lo) == 0

/-- The three reserved words of an entry whose command uses no flag and no byte from `used` on (R13, R324). -/
def Sqe.plain (e : Sqe) (used : Nat) : Bool := e.flags == 0 && e.zero used 64

end Sys2Proof

namespace Sys2Proof.Machine

/-! ### The start of a command (R325) -/

/-- A command ends at once with a code. -/
def State.refuse (s : State) (c : Cmd) (code : Nat) : State := s.complete c code 0

/-- The next command of a ring starts: it is the oldest entry that a sweep has fetched, and becomes a command in progress.
A ring that does not exist, that still runs a command, or of which nothing has been fetched, starts none (R325, log entry 2,
DEDUCED). It starts at its sweep, or when the command before it left the ring free (R105). -/
def State.beginCmd (s : State) (ring : Nat) (opcode : Nat) (e : Sqe) : Option (State × Cmd) :=
  match s.ring ring with
  | none => none
  | some r =>
    if (!s.ready && !s.fatalSet) || s.cmds.any (fun c => c.ring == ring && !c.silent) || r.sqN = 0 then none
    else match r.fetched with
      | [] => none
      | t :: rest =>
        let n := (r.started + 1) % r.sqN
        let at_ := match r.doneAt with
          | some d => if timeBefore t d then d else t
          | none => t
        let c : Cmd := { ring := ring, opcode := opcode, cid := e.cid.toNat, sqHead := n, startAt := at_ }
        let s := (s.setRing ring (some { r with started := n, fetched := rest })).tellAgents
        some ({ s with cmds := s.cmds ++ [c] }, c)

/-- A refusal of ADMIT or START_STEP as PRK_REJECT, PRK_REJ_SLOT and PRK_REJ_EXCESS show it (R104, R111). -/
structure Rej where
  code : Nat
  die : Nat := 0
  sec : Nat := 0
  slot : Nat := 0x1FFFF
  excess : Nat := 0
  cls : Nat := 0
deriving DecidableEq, Repr

def State.putReject (s : State) (r : Rej) : State :=
  let b := Blk.prk 4
  let s := ((s.p b F.PRK_REJECT_CODE r.code).p b F.PRK_REJECT_DIE r.die).p b F.PRK_REJECT_CLASS r.cls
  let s := (s.p b F.PRK_REJECT_SECTION r.sec).p b F.PRK_REJ_SLOT_SLOT r.slot
  s.p b F.PRK_REJ_EXCESS_EXCESS (min r.excess (2 ^ 32 - 1))

/-- ADMIT or START_STEP is refused: a code of R104 stands in the refusal registers. -/
def State.prkRefuse (s : State) (c : Cmd) (r : Rej) : State :=
  (if 1 ≤ r.code && r.code ≤ 0x12 then s.putReject r else s).refuse c r.code

/-- Run a command of a ring: FATAL in the fail-safe state but for IDENTIFY and MEM_READ, RESERVED for a non-zero reserved
field, else its own effect (R324, R421). -/
def State.withCmd (s : State) (ring : RingId) (opcode : Nat) (e : Sqe) (sound : Bool) (f : Cmd → State → State) : State :=
  match s.beginCmd ring.val opcode e with
  | none => s
  | some (s, c) =>
    if s.fatalSet && opcode != 0x01 && opcode != 0x12 then s.refuse c Code.fatal
    else if e.rsv ≠ 0 || !sound then
      if opcode = 0x30 || opcode = 0x31 then s.prkRefuse c { code := Code.reserved } else s.refuse c Code.reserved
    else f c s

/-- Change a command in progress. -/
def State.setCmd (s : State) (c c' : Cmd) : State := { s with cmds := s.cmds.map fun x => if x = c then c' else x }

/-- Complete every command in progress with this opcode. -/
def State.completeOp (s : State) (opcode status result : Nat) : State :=
  let cs := s.cmds.filter fun c => c.opcode == opcode
  cs.foldl (fun s c => s.complete c status result) s

/-- RESERVED_OPCODE: INVALID_OPCODE, and nothing else (R324). -/
def definedOpcodes : List Nat :=
  [0x01, 0x02, 0x03, 0x10, 0x11, 0x12, 0x13, 0x20, 0x21, 0x22, 0x30, 0x31, 0x32, 0x33, 0x34, 0x40]

end Sys2Proof.Machine
end

