-- ==== Sys2Proof/Machine/Grid.lean ====
section
/-! DEFINITION. Global time, the grid and its root, beacons, lock states, knots, snags and stretch (R29 to R60), with the
control flits that travel between members (R261 to R263). -/

namespace Sys2Proof.Machine

/-! ### Time that steps (R31, R57) -/

/-- Set local time in one step, without losing cycles counted so far (R435). Times of beacons heard move along; frequency is
measured afresh. -/
def State.stepTime (s : State) (t : Nat) : State :=
  let by_ := t % 2 ^ 64 + 2 ^ 64 - s.grid.time % 2 ^ 64
  let s := s.setTime (t % 2 ^ 64)
  { s with grid := { s.grid with
    refSeen := none
    beacons := s.grid.beacons.map fun b => (b.1, { b.2 with at_ := (b.2.at_ + by_) % 2 ^ 64 }) } }

def clampRate (r : Int) : Int := max (-200000) (min 200000 r)

/-- The discipline (R31). The reference shows `ref` now, by which local time is `err` behind: the rate word follows the
reference's frequency since the last measurement, within ±200 ppm; a phase offset of at most 10 ppm works against the error.
How large within its bound, the spec leaves to the part (log entry 1, DESIGN CHOICE); that the word takes the measured
frequency whole is log entry 11, DEDUCED. -/
def State.track (s : State) (ref : Nat) (err : Int) : State :=
  let now := s.grid.time
  let rate := match s.grid.refSeen with
    | none => s.grid.rate
    | some (r0, l0) =>
      let dr : Int := signed 64 ((ref % 2 ^ 64 + 2 ^ 64 - r0 % 2 ^ 64) % 2 ^ 64)
      let dl : Int := signed 64 ((now % 2 ^ 64 + 2 ^ 64 - l0 % 2 ^ 64) % 2 ^ 64)
      if dl ≤ 0 then s.grid.rate else clampRate (s.grid.rate + (dr - dl) * 1000000000 / dl)
  let step : Int := (Config.free s.fresh % 10001 : Nat)
  { s with grid := { s.grid with
    rate := rate, refSeen := some (ref, now)
    phase := if err > 0 then step else if err < 0 then -step else 0 } }.draw

/-! ### Knots ahead (R33, R45, R46) -/

/-- Number of the next knot: 0 until a new root's knot 0 (R33). -/
def Grid.nextKnot (g : Grid) : Nat := if g.running then (g.knot + 1) % 2 ^ 48 else 0

def State.effInt (s : State) : Nat := s.g .grid F.GRID_EFF_INT_INTERVAL

/-- The interval that begins at knot n (R46). -/
def State.intAt (s : State) (n : Nat) : Nat :=
  match s.grid.chg with
  | some (a, i) => if knotBefore n a then s.effInt else i
  | none => s.effInt

/-- A pricking compiled for another interval than the one in force loses admission (R46, R108). -/
def State.intervalCheck (s : State) : State :=
  match s.img with
  | some p => if p.interval ≠ s.effInt then s.withdrawAtKnot else s
  | none => s

/-- Local time at which knot n is expected: announced for the current knot and the two after it, extrapolated beyond
(R41, R52). -/
def State.knotTime (s : State) (n : Nat) : Nat :=
  let d := knotDiff s.grid.nextKnot n
  if n = s.grid.knot && s.grid.running then s.grid.knotAt
  else if d = 0 then s.grid.next0
  else s.grid.next1 + (d - 1) * nsT s.effInt

/-- Does a pending interval change take effect at knot n (R46)? -/
def State.changesAt (s : State) (n : Nat) : Bool :=
  match s.grid.chg with
  | some (a, _) => decide (a = n)
  | none => false

/-- The interval in force from knot n on (R46). -/
def State.takeInterval (s : State) (n : Nat) : State :=
  if s.changesAt n then s.p .grid F.GRID_EFF_INT_INTERVAL (s.intAt n) else s

/-- Quanta by which the root stretches the interval that ends at knot n (R51). -/
def State.dueQuanta (s : State) (n : Nat) : Nat := if s.isRoot then tget 0 s.grid.pend n else 0

/-- A stretch of q quanta before knot n is counted and logged (R51, R59). -/
def State.countStretch (s : State) (n q : Nat) : State :=
  if q = 0 then s else
  ((s.p .grid F.GRID_STRETCH_TOTAL_QUANTA (s.stretch + q)).inc .grid F.GRID_STRETCH_COUNT_STRETCHES 1).event
    { type := 0x12, cls := 0, die := 7, block := 1, data := q + n * 2 ^ 16 }

/-- Time of the knot after the one that comes: as announced, and at the root the stretch that is due later (R45, R47, R52). A
backup that has become root goes on from the time it heard announced (R39). -/
def State.timeAfter (s : State) (q : Nat) : Nat := s.grid.next1 + q * nsT 256

/-- What is left of the running step's VOID_STEP once knot n has come (R53). -/
def State.voidLeft (s : State) (n : Nat) : Option Nat :=
  match s.grid.voidEnd with
  | some e => if knotBefore n e then some e else none
  | none => none

/-- Knot n has come at t, and the next one comes at n0. -/
def State.setKnot (s : State) (n t n0 : Nat) (changed : Bool) : State :=
  { s with grid := { s.grid with
      knot := n, knotAt := t, running := true
      chg := if changed then none else s.grid.chg
      pend := tput 0 s.grid.pend ((n + 1) % 2 ^ 48) 0
      next0 := n0 % 2 ^ 64, next1 := (n0 + nsT (s.intAt ((n + 1) % 2 ^ 48))) % 2 ^ 64
      raised := [], faultFwd := []
      voidSeen := false, takeover := s.grid.takeover - 1
      voidEnd := s.voidLeft n } }

/-- Knot n comes at t: the grid moves on by one knot; the root adds the stretch due (R45, R47, R51). -/
def State.knotAt (s : State) (n t : Nat) : State :=
  let changed := s.changesAt n
  let s := s.takeInterval n
  let q := s.dueQuanta ((n + 1) % 2 ^ 48)
  (s.setKnot n t (s.timeAfter q) changed).countStretch ((n + 1) % 2 ^ 48) q

/-- The local knot event's number and time (R45, R47, R51). -/
def State.knotAdvance (s : State) : State :=
  (s.advanceTo s.grid.next0).knotAt s.grid.nextKnot s.grid.next0

/-- HOLDOVER time in ms (R59). -/
def State.holdElapsed (s : State) : State :=
  s.p .grid F.GRID_HOLDOVER_ELAPSED (min 10000 ((s.grid.time + 2 ^ 64 - s.grid.holdAt) % 2 ^ 64 / nsT 1000000))

/-! ### Entering and leaving the grid (R33, R40, R55, R108) -/

def State.clearForeign (s : State) : State :=
  (s.forN 18 fun p s => s.p (.nir p) F.NIR_STATUS_FOREIGN 0).p .grid F.GRID_STATUS_FOREIGN 0

/-- FREE is entered: a waiting GRID_JOIN completes with `code`, admission is withdrawn at once without a snag
(R40, R55, R108). DEPTH_FAIL clears here (log entry 11, DESIGN CHOICE). -/
def State.goFree (s : State) (code : Nat) : State :=
  let s := if s.lockState = 3 then s.holdElapsed else s
  let s := (s.gridFree.clearForeign.p .grid F.GRID_STATUS_DEPTH_FAIL 0).completeOp 0x21 code 0
  s.withdraw false

/-- GRID_LEAVE takes effect at knot or tick n (R55). -/
def State.leaveEffect (s : State) (n : Nat) : State :=
  if !s.grid.leaving then s
  else
    let s := { s with grid := { s.grid with leaving := false } }
    (s.goFree Code.cancelled).completeOp 0x22 Code.success (n % 2 ^ 48)

/-- LOCKED is reached: GRID_JOIN completes with the next knot's number (R326). -/
def State.reachLock (s : State) : State :=
  ({ s with grid := { s.grid with joined := true } }.setLock 2).completeOp 0x21 Code.success s.grid.nextKnot

/-- The device becomes root at epoch 0 and places knot 0 (R33); it is LOCKED at once (R40). -/
def State.becomeRoot (s : State) : State :=
  let i := nsT (s.g .grid F.GRID_KNOT_INT_INTERVAL)
  let t := ceilDiv (s.grid.time + i) i * i
  let s := ((s.p .grid F.GRID_STATUS_IS_ROOT 1).p .grid F.GRID_STATUS_EPOCH 0).p .grid F.GRID_STATUS_HOP_COUNT 0
  let s := (s.p .grid F.GRID_STATUS_BEACON_PORT 0x1F).p2 .grid F.GRID_ROOT_ID_LO_ID_LO F.GRID_ROOT_ID_HI_ID_HI s.identity
  let s := ((s.p .grid F.GRID_EFF_INT_INTERVAL (s.g .grid F.GRID_KNOT_INT_INTERVAL)).p .grid F.GRID_PATH_ROOT_PATH 0).p
    .grid F.GRID_MAX_PATH_MAX_PATH 0
  let s := (s.p .grid F.GRID_STRETCH_TOTAL_QUANTA 0).p .grid F.GRID_STATUS_DEPTH_FAIL 0
  { s with grid := { s.grid with
      running := false, knot := 0, next0 := t % 2 ^ 64, next1 := (t + i) % 2 ^ 64, chg := none, pend := []
      voidEnd := none, takeover := 0, members := [], backupId := 2 ^ 64 - 1, faultActed := []
      adopted := true, waitSync := false } }.intervalCheck.reachLock

/-! ### Beacons (R34 to R42, R46, R53) -/

/-- VOID_STEP of the beacons this device sends: as root by R53 and R39, else as the beacons it follows say. -/
def State.sentVoid (s : State) : Bool :=
  if s.isRoot then s.grid.takeover != 0 || (match s.grid.voidEnd with
    | some e => !knotBefore e s.grid.nextKnot
    | none => false)
  else s.grid.voidSeen

/-- The beacon this device sends now (R35, R46). -/
def State.beaconNow (s : State) : Beacon :=
  let n := s.grid.nextKnot
  { rootId := s.g2 .grid F.GRID_ROOT_ID_LO_ID_LO F.GRID_ROOT_ID_HI_ID_HI
    epoch := s.g .grid F.GRID_STATUS_EPOCH
    hop := s.g .grid F.GRID_STATUS_HOP_COUNT
    sendTime := s.grid.time
    nextKnot := n
    t0 := s.grid.next0
    t1 := s.grid.next1
    interval := match s.grid.chg with | some (_, i) => i | none => s.effInt
    stretch := s.stretch
    backupId := s.grid.backupId
    voidStep := s.sentVoid
    intChg := match s.grid.chg with | some (a, _) => (knotDiff n a + 1) % 256 | none => 0 }

/-- Adopt a root heard on a port (R33); ROOT_PATH is formed anew for the port (R38). DEPTH_FAIL clears here (log entry 11,
DESIGN CHOICE). -/
def State.adopt (s : State) (port : Nat) (b : Beacon) : State :=
  let s := (s.p2 .grid F.GRID_ROOT_ID_LO_ID_LO F.GRID_ROOT_ID_HI_ID_HI b.rootId).p .grid F.GRID_STATUS_EPOCH b.epoch
  let s := (s.p .grid F.GRID_STATUS_BEACON_PORT port).p .grid F.GRID_STATUS_DEPTH_FAIL 0
  { s with grid := { s.grid with adopted := true, waitSync := false, good := 0, bad := 0, beacons := [], chg := none
                                 running := false, pathValid := false, refSeen := none } }.clearForeign.updatePath

/-- The knot times a beacon announces; `whole` takes them as they are (R42, R46, R47, R52). -/
def State.takeKnots (s : State) (b : Beacon) (whole : Bool) : State :=
  let s := s.p .grid F.GRID_STRETCH_TOTAL_QUANTA b.stretch
  let n := s.grid.nextKnot
  let ahead := knotDiff n b.nextKnot
  let g := s.grid
  let g := if whole then
      { g with running := b.nextKnot != 0, knot := (b.nextKnot + 2 ^ 48 - 1) % 2 ^ 48 * (if b.nextKnot = 0 then 0 else 1)
               next0 := b.t0, next1 := b.t1 }
    else if ahead = 0 then { g with next0 := b.t0, next1 := b.t1 }
    else if ahead = 1 then { g with next1 := b.t0 }
    else if ahead = 2 ^ 48 - 1 then { g with next0 := b.t1 } else g
  let s := { s with grid := g }
  if b.intChg ≠ 0 then
    { s with grid := { s.grid with chg := some ((b.nextKnot + b.intChg + 2 ^ 48 - 1) % 2 ^ 48, b.interval) } }
  else match s.grid.chg, whole with
    | some _, false => s
    | _, _ => ({ s with grid := { s.grid with chg := none } }.p .grid F.GRID_EFF_INT_INTERVAL b.interval).intervalCheck

/-- May a member enter LOCKED: a valid path figure that fits the interval (R38, R44)? -/
def State.pathFits (s : State) : Bool :=
  decide (s.g .grid F.GRID_PATH_ROOT_PATH + 1024 ≤ s.effInt)

/-- A member may not enter LOCKED on these beacons: DEPTH_FAIL shows where the path is the reason (R38, R44). -/
def State.lockBarred (s : State) : Bool := !s.grid.pathValid || !s.pathFits
def State.showDepth (s : State) : State := s.pb .grid F.GRID_STATUS_DEPTH_FAIL (s.grid.pathValid && !s.pathFits)

/-- The lock discipline on an offset of the beacon port, in 2^-16 ns, whose beacon came when the root's time was `ref` (R31,
R40, R44).
Readings: log entry 11, DEDUCED. -/
def State.discipline (s : State) (b : Beacon) (ref : Nat) (ofs : Int) : State :=
  let within (lim : Int) : Bool := decide (-lim ≤ ofs) && decide (ofs ≤ lim)
  match s.lockState with
  | 1 =>
    let s := s.takeKnots b true
    let s := if within 65536 then s.track ref ofs
      else s.stepTime (((s.grid.time : Int) + ofs) % 2 ^ 64).toNat
    let n := if within 65536 then s.grid.good + 1 else 0
    let s := { s with grid := { s.grid with good := n } }.showDepth
    if s.lockBarred || n < 64 then s
    else { s with grid := { s.grid with bad := 0 } }.reachLock.sendJoinReport
  | 2 =>
    let s := (s.takeKnots b false).track ref ofs
    let n := if within 98304 then 0 else s.grid.bad + 1
    let s := { s with grid := { s.grid with bad := n } }
    if n ≥ 8 then { s with grid := { s.grid with good := 0, bad := 0 } }.setLock 1 else s
  | 3 =>
    if !within 98304 then { s.holdElapsed with grid := { s.holdElapsed.grid with good := 0 } }.setLock 1
    else
      let s := { s with grid := { s.grid with good := s.grid.good + 1 } }
      if s.grid.good < 16 then s
      else
        let t := (s.takeKnots b true).showDepth
        if t.lockBarred then s.pb .grid F.GRID_STATUS_DEPTH_FAIL (t.gb .grid F.GRID_STATUS_DEPTH_FAIL)
        else ({ t with grid := { t.grid with good := 0, bad := 0 } }.holdElapsed).setLock 2
  | _ => s

/-- A port carries no beacon of use any more: time moves to another port if it was the beacon port (R36). -/
def State.dropBeacon (s : State) (port : Nat) : State :=
  let s := { s with grid := { s.grid with beacons := tput ⟨0, 0, 32, 0⟩ s.grid.beacons port ⟨0, 0, 32, 0⟩ } }
  if port = s.beaconPort then s.moveBeacon else s

/-- A port carries another root's beacons (R34). -/
def State.heardForeign (s : State) (port : Nat) : State :=
  ((s.p (.nir port) F.NIR_STATUS_FOREIGN 1).foreignSync).dropBeacon port

/-- A port carries the beacons of the device's own root. -/
def State.heardOwn (s : State) (port : Nat) : State :=
  if s.gb (.nir port) F.NIR_STATUS_FOREIGN then (s.p (.nir port) F.NIR_STATUS_FOREIGN 0).foreignSync else s

/-- VOID_STEP of a beacon followed: the step that holds the named knot is void (R53). -/
def State.heedVoid (s : State) (b : Beacon) : State :=
  if b.voidStep && b.nextKnot ≠ 0 && s.lockState ≥ 2 then
    let t := s.seeVoid ((b.nextKnot + 2 ^ 48 - 1) % 2 ^ 48)
    { t with grid := { t.grid with voidSeen := t.grid.voidSeen || b.nextKnot == t.grid.nextKnot, voidCauses := [] } }
  else s

/-- A beacon of the root and epoch followed (R36, R37, R40, R53). -/
def State.ownBeacon (s : State) (port : Nat) (b : Beacon) : State :=
  let s := s.heardOwn port
  if b.hop ≥ 16 then (if s.lockState = 1 then s.p .grid F.GRID_STATUS_DEPTH_FAIL 1 else s).dropBeacon port
  else
    let s := { s with grid := { s.grid with
      beacons := tput ⟨0, 0, 32, 0⟩ s.grid.beacons port ⟨b.rootId, b.epoch, b.hop, s.grid.time⟩ } }
    let s := s.moveBeacon.heedVoid b
    if s.fatalSet || port ≠ s.beaconPort then s
    else
      let ref := (b.sendTime + s.g (.nir port) F.NIR_DELAY_DELAY * 256) % 2 ^ 64
      let ofs : Int := signed 64 ((ref + 2 ^ 64 - s.grid.time) % 2 ^ 64)
      let s := s.p .grid F.GRID_OFFSET_OFFSET (unsigned 16 (max (-32768) (min 32767 (ofs / 256))))
      let s := s.p .grid F.GRID_STATUS_HOP_COUNT (b.hop + 1)
      let s := { s with grid := { s.grid with backupId := b.backupId } }
      s.discipline b ref ofs

/-- BEACON_RECEIVE's effect (R33, R34, R37, R39). A device takes the best root heard until it has once been LOCKED; from
then on another root's beacons are foreign. -/
def State.beaconIn (s : State) (port : Nat) (b : Beacon) : State :=
  let root := s.g2 .grid F.GRID_ROOT_ID_LO_ID_LO F.GRID_ROOT_ID_HI_ID_HI
  let epoch := s.g .grid F.GRID_STATUS_EPOCH
  if s.lockState = 0 || !s.portUp2 port then s
  else if s.isRoot then (if b.rootId = root then s.heardOwn port else s.heardForeign port)
  else if !s.grid.adopted || (s.lockState = 1 && !s.grid.joined && b.rootId < root) then (s.adopt port b).ownBeacon port b
  else if b.rootId = root && b.epoch = epoch then s.ownBeacon port b
  else if b.rootId = s.grid.backupId && b.epoch = (epoch + 1) % 256 then
    -- the announced backup has taken over (R39)
    let s := (s.p2 .grid F.GRID_ROOT_ID_LO_ID_LO F.GRID_ROOT_ID_HI_ID_HI b.rootId).p .grid F.GRID_STATUS_EPOCH b.epoch
    { s with grid := { s.grid with beacons := [] } }.ownBeacon port b
  else if b.rootId = root then s
  else s.heardForeign port

/-! ### Projections (R48, R49, R53) -/

/-- When a projected slot is due, and by how much the projection may not pass: a slot is measured with GUARD against its
deadline (R48); a receiver's buffer slot, by the time at which it is projected to be free, against the next arrival that
its LINK_RECV schedules (R218). -/
def State.dueTime (s : State) (p : Pricking) (r : Run) (x : Projection) : Option (Nat × Nat × Nat) :=
  match p.slot x.die.val x.slot with
  | none => none
  | some e =>
    if x.receiver then
      if e.action ≠ 6 then none
      else
        let t := (p.starts.getD x.die.val []).getD x.slot (0, 0)
        let n := match s.links.find? fun (l : LinkRun) => l.die == x.die.val && l.slot == x.slot with | some l => l.done | none => 0
        let k := (r.first + t.1) % 2 ^ 48
        some (k, s.knotTime k + nsT (t.2 + 64 * n), 0)
    else
      let t := (p.deads.getD x.die.val []).getD x.slot (0, 0)
      let k := (r.first + t.1) % 2 ^ 48
      some (k, s.knotTime k + nsT t.2, nsT (s.g .grid F.GRID_SNAG_CFG_GUARD))

/-- Lateness of a projected slot: the knot it is anchored to and its lateness, in 2^-16 ns; none when it is in time,
complete, or beyond HORIZON. -/
def State.lateBy (s : State) (p : Pricking) (r : Run) (x : Projection) : Option (Nat × Nat) :=
  match s.dueTime p r x with
  | none => none
  | some (k, due, guard) =>
    let h := knotDiff s.grid.knot k
    if r.slotDone x.die.val x.slot then none
    else if h > s.g .grid F.GRID_SNAG_CFG_HORIZON && h < 2 ^ 47 then none
    else if timeBefore due (x.done + guard) then some (k, (x.done + guard + 2 ^ 64 - due) % 2 ^ 64) else none

/-- One LATE snag for every late projection of a cause: TARGET the earliest knot, LATENESS the largest (R48). -/
def State.raiseLates (s : State) (cause : Nat) (bad : List (Projection × Nat × Nat)) : State :=
  match bad with
  | [] => s
  | (x, k, _) :: _ =>
    s.raiseLate x.die.val cause (bad.foldl (fun m y => if knotBefore y.2.1 m then y.2.1 else m) k)
      (ceilDiv (bad.foldl (fun m y => max m y.2.2) 0) (nsT 256))

/-- Raise the snags that cover every late projection: UNCOVERED when one is anchored to the current knot or the next, else
THROTTLE for the late slots and RECEIVER_BEHIND for the buffers that will not be free in time (R48, R49, R53, R218; log
entry 23, DEDUCED). -/
def State.project (s : State) (late : List Projection) : State :=
  match s.liveRun, s.img with
  | some r, some p =>
    let bad := late.filterMap fun x => (s.lateBy p r x).map fun l => (x, l)
    match bad.find? fun y => !knotBefore ((s.grid.knot + 1) % 2 ^ 48) y.2.1 with
    | some y => s.raiseVoid y.1.die.val 6
    | none => (s.raiseLates 1 (bad.filter fun y => !y.1.receiver)).raiseLates 2 (bad.filter fun y => y.1.receiver)
  | _, _ => s

/-! ### Control flits of members (R38, R39, R263) -/

/-- A priority of 0xFF never becomes root (R32). -/
def neverRoot (id : Nat) : Bool := id / 2 ^ 56 == 0xFF

/-- The root names its backup: the best identity among the members that offered and may become root (R32, R39). -/
def backupOf (ms : List Member) : Nat :=
  (ms.filter fun m => m.backupEn && !neverRoot m.id).foldl (fun a m => min a m.id) (2 ^ 64 - 1)

/-- A join report at the root is kept, elsewhere forwarded on the beacon port (R38, R263). -/
def State.joinIn (s : State) (m : CtlMsg) : State :=
  match m with
  | .joinReport id _ _ _ en path =>
    if s.isRoot then
      let ms := (s.grid.members.filter fun x => x.id != id) ++ [⟨id, en, path⟩]
      let s := s.p .grid F.GRID_MAX_PATH_MAX_PATH (max (s.g .grid F.GRID_MAX_PATH_MAX_PATH) (min path (2 ^ 20 - 1)))
      { s with grid := { s.grid with members := ms, backupId := backupOf ms } }
    else if s.beaconPort ≥ 18 then s
    else s.queueCtl s.beaconPort m
  | _ => s

/-- A control flit at a port: accepted in sequence, then handled by its message (R261 to R263). -/
def State.ctlIn (s : State) (p : Nat) (flit : CtlFlit) : State :=
  if !s.portUp p || s.fatalSet then s
  else match s.rxCtl p flit with
    | (s, .null) => s
    | (s, .release dest src _ _) => if dest = s.rank && s.admitted then s.releaseFrom src else s
    | (s, .joinReport i r e h b q) => s.joinIn (.joinReport i r e h b q)
    | (s, .other _) => s.portMod p fun u => { u with badMsg := u.badMsg + 1 }

/-- A snag at the root is handled, elsewhere forwarded unchanged on the beacon port (R38, R50, R51). -/
def State.snagIn (s : State) (p : Nat) (os : OrdSet) : State :=
  let (s, ok) := s.rxOs p os
  if !ok || s.fatalSet || !s.portUp2 p then s
  else match decSnag os with
    | none => s
    | some x =>
      if s.isRoot then s.rootSnag x else s.sendUp (leBytes 64 os.toNat)

/-! ### GRIDSYNC (R57, R58) -/

/-- Does the device measure GRIDSYNC? SYNC_EN is in force; a member that has adopted a root ignores it (R57, R58). -/
def State.syncOn (s : State) : Bool := s.gb .grid F.GRID_CTRL_SYNC_EN && (s.isRoot || !s.grid.adopted)

/-- No good edge for two periods: SYNC_SEEN clears; a device not yet root starts again from the first edge (R57). SYNC_SEEN
changes on edges alone: it stays as it is on a device that becomes a member, or whose SYNC_EN goes out of force (log entry
11, DESIGN CHOICE). -/
def State.syncLost (s : State) : State :=
  { s.p .grid F.GRID_STATUS_SYNC_SEEN 0 with
    grid := { s.grid with syncMiss := 0, syncEdges := if s.isRoot then min s.grid.syncEdges 2 else 0 } }

/-- An edge that did not come when due, or came elsewhere, is no step towards SYNC_SEEN. -/
def State.syncStray (s : State) : State :=
  if s.gb .grid F.GRID_STATUS_SYNC_SEEN then s
  else { s with grid := { s.grid with syncEdges := min s.grid.syncEdges 2 } }

/-- The multiple of a period nearest to a time, at least one. -/
def nearestMultiple (t period : Nat) : Nat := max 1 ((t + period / 2) / period) * period

/-- An edge of GRIDSYNC at a local time (R57, R58). Edges are due a whole number of periods after the last good one, and on a
root at the multiples of PERIOD; a stray edge moves nothing. -/
def State.syncEdge (s : State) (t : Nat) : State :=
  let period := nsT (s.g .grid F.GRID_SYNC_PERIOD_PERIOD)
  let g := s.grid
  let since : Nat := (t % 2 ^ 64 + 2 ^ 64 - g.syncAt % 2 ^ 64) % 2 ^ 64
  if !s.syncOn then s
  else if g.syncEdges = 0 && !s.isRoot then
    { s.stepTime period with grid := { (s.stepTime period).grid with
      syncEdges := 1, syncAt := period % 2 ^ 64, syncMiss := 0 } }
  else if g.syncEdges = 1 && !s.isRoot then
    let m : Int := since
    let r := if m ≤ 0 then g.rate else clampRate (g.rate + ((nearestMultiple since period : Int) - m) * 1000000000 / m)
    { s with grid := { g with rate := r, syncEdges := 2, syncAt := t, syncMiss := 0 } }
  else
    let due := if s.isRoot then nearestMultiple t period else g.syncAt + nearestMultiple since period
    let off : Int := signed 64 ((t % 2 ^ 64 + 2 ^ 64 - due % 2 ^ 64) % 2 ^ 64)
    if off < -(100 * 65536) || 100 * 65536 < off then
      (if g.syncEdges ≠ 0 && since ≥ 2 * period then s.syncLost else s.syncStray)
    else
      let seen := s.gb .grid F.GRID_STATUS_SYNC_SEEN
      let n := min 4 (max 2 g.syncEdges + 1)
      let s := { s with grid := { g with syncEdges := n, syncAt := t, syncMiss := 0 } }
      let s := if n ≥ 4 then s.p .grid F.GRID_STATUS_SYNC_SEEN 1 else s
      if s.isRoot then (if n ≥ 4 then s.track due (-off) else s)
      else if seen && g.waitSync then s.becomeRoot else s

/-! ### The commands of this chapter -/

/-- GRID_JOIN (R33, R40, R60, R326, R328, R329). -/
def State.gridJoin (s : State) (c : Cmd) (e : Sqe) : State :=
  let keep := bit e.flags.toNat 0
  let prio := e.field 8 1
  let backup := bit (e.field 9 1) 0
  let sync := bit (e.field 9 1) 1
  if keep && !s.expert then s.refuse c Code.level
  else if s.lockState ≠ 0 then s.refuse c Code.state
  else if !keep && sync && prio = 0xFF then s.refuse c Code.range
  else
    let w := BitVec.ofNat 32 (prio + (if backup then 256 else 0) + (if sync then 512 else 0))
    let a := Blk.grid.base + 4
    let s := if keep then s else { s.wr a w with shadows := tput (regReset a) s.shadows a w }
    let s := (s.p .grid F.GRID_SNAG_COUNT_SENT 0).p .grid F.GRID_SNAG_COUNT_VOIDS 0
    let s := (s.p .grid F.GRID_STRETCH_COUNT_STRETCHES 0).p .grid F.GRID_HOLDOVER_ELAPSED 0
    let s := s.p .grid F.GRID_STATUS_DEPTH_FAIL 0
    let s := { s with grid := { s.grid with
      joinAt := s.grid.time, good := 0, bad := 0, adopted := false, waitSync := false, beacons := [], partnerPath := []
      pathValid := false, chg := none, running := false, joined := false, refSeen := none } }
    s.setLock 1

def execGridJoin (ring : RingId) (e : Sqe) (s : State) : Host.Outcome State Fault Refusal :=
  let sound := e.flags.toNat < 2 && e.field 9 1 < 4 && e.zero 10 64
  .next (s.withCmd ring 0x21 e sound fun c s => s.gridJoin c e)

/-- GRID_LEAVE waits for the next knot, or the next local tick in FREE and ACQUIRING (R55). -/
def execGridLeave (ring : RingId) (e : Sqe) (s : State) : Host.Outcome State Fault Refusal :=
  .next (s.withCmd ring 0x22 e (e.plain 8) fun _ s => { s with grid := { s.grid with leaving := true } })

/-- BEACON_LISTEN_TIMEOUT: no beacon within 1 ms of GRID_JOIN (R33). -/
def execBeaconListenTimeout (s : State) : Host.Outcome State Fault Refusal :=
  if s.lockState ≠ 1 || s.grid.adopted || s.isRoot || s.g .grid F.GRID_CTRL_ROOT_PRIO = 0xFF then .next s
  else if s.gb .grid F.GRID_CTRL_SYNC_EN then .next { s with grid := { s.grid with waitSync := true } }
  else .next s.becomeRoot

/-- BEACON_SEND on every port that is UP at 2.0, once every 1,024 ns, by every device that follows a root or is one; in
HOLDOVER there is no usable beacon to regenerate (R35, R40, R265, R266; log entry 11, DEDUCED). SEND_TIME is set as the set
leaves (State.stampOs). -/
def execBeaconSend (s : State) : Host.Outcome State Fault Refusal :=
  .next (if s.lockState = 0 || s.lockState = 3 || !s.grid.adopted || s.fatalSet then s
    else s.forN 18 fun p s => s.queueOs p (encBeacon s.beaconNow) 1)

/-- BEACON_RECEIVE at local time rx (R36). -/
def execBeaconReceive (port : Port) (os : OrdSet) (rx : BitVec 64) (s : State) : Host.Outcome State Fault Refusal :=
  let s := s.advanceTo rx.toNat
  let (s, ok) := s.rxOs port.val os
  match ok && !s.fatalSet, decBeacon os with
  | true, some b => .next (s.beaconIn port.val b)
  | _, _ => .next s

/-- LOCK_TIMEOUT: GRID_JOIN completes with LOCK_TIMEOUT; the device is FREE (R40, R327). -/
def execLockTimeout (s : State) : Host.Outcome State Fault Refusal :=
  .next (if s.lockState = 1 && !s.isRoot && (s.cmdOf 0x21).isSome then s.goFree Code.lockTimeout else s)

/-- BEACON_LOSS: no valid beacon for 16 µs (R40). -/
def execBeaconLoss (s : State) : Host.Outcome State Fault Refusal :=
  .next (if s.lockState = 2 && !s.isRoot then
    { s with grid := { s.grid with holdAt := s.grid.time, good := 0, beacons := [] } }.setLock 3 else s)

/-- HOLDOVER_EXPIRY: 10 s in HOLDOVER (R40, R108). -/
def execHoldoverExpiry (s : State) : Host.Outcome State Fault Refusal :=
  .next (if s.lockState = 3 then s.goFree Code.cancelled else s)

/-- BACKUP_ROOT_TAKEOVER: the announced backup has heard no beacon for 64 µs (R39). The interval in force goes on, whatever
its own GRID_KNOT_INT holds, until its next apply (R43; log entry 11, DESIGN CHOICE). -/
def execBackupRootTakeover (s : State) : Host.Outcome State Fault Refusal :=
  if s.isRoot || s.lockState < 2 || s.grid.backupId ≠ s.identity || neverRoot s.identity then .next s
  else
    let s := if s.lockState = 3 then s.holdElapsed else s
    let s := (s.p .grid F.GRID_STATUS_IS_ROOT 1).p .grid F.GRID_STATUS_EPOCH ((s.g .grid F.GRID_STATUS_EPOCH + 1) % 256)
    let s := (s.p .grid F.GRID_STATUS_HOP_COUNT 0).p .grid F.GRID_STATUS_BEACON_PORT 0x1F
    let s := (s.p2 .grid F.GRID_ROOT_ID_LO_ID_LO F.GRID_ROOT_ID_HI_ID_HI s.identity).p .grid F.GRID_PATH_ROOT_PATH 0
    let s := { s with grid := { s.grid with takeover := 2, members := [], backupId := 2 ^ 64 - 1, pend := []
                                            faultActed := [], beacons := [], voidEnd := none, refSeen := none } }
    .next ((s.setLock 2).seeVoid s.grid.knot)

/-- DELAY_REQ_SEND, once every 64 beacon periods, and in DELAY for the 8 exchanges of training (R36, R267, R272). T1 is set as
the set leaves (State.stampOs). -/
def execDelayReqSend (port : Port) (s : State) : Host.Outcome State Fault Refusal :=
  let p := port.val
  if !s.delayOn p || s.fatalSet then .next s
  else
    let q := ((s.portU p).reqSeq + 1) % 256
    .next (s.portMod p fun u => { u with reqSeq := q, req := none, osq := u.osq ++ [encDelayReq ⟨q, 0⟩] })

/-- DELAY_REQ_RECEIVE: answered with this device's times and ROOT_PATH (R267); T3 is set as the answer leaves
(State.stampOs). -/
def execDelayReqReceive (port : Port) (os : OrdSet) (rx : BitVec 64) (s : State) : Host.Outcome State Fault Refusal :=
  let p := port.val
  let s := s.advanceTo rx.toNat
  let (s, ok) := s.rxOs p os
  match ok && !s.fatalSet && s.delayOn p, decDelayReq os with
  | true, some q =>
    let os := encDelayResp { seq := q.seq, t1 := q.t1, t2 := rx.toNat, t3 := 0
                             path := if s.isRoot then 0 else s.g .grid F.GRID_PATH_ROOT_PATH, valid := s.lockState == 2 }
    .next (s.portMod p fun u => { u with osq := u.osq ++ [os] })
  | _, _ => .next s

/-- DELAY_RESP_RECEIVE: the one-way delay, the mean of the last 8 in NIR_DELAY, and the partner's path (R38, R267). -/
def execDelayRespReceive (port : Port) (os : OrdSet) (rx : BitVec 64) (s : State) : Host.Outcome State Fault Refusal :=
  let p := port.val
  let s := s.advanceTo rx.toNat
  let (s, ok) := s.rxOs p os
  match ok && !s.fatalSet && s.delayOn p, decDelayResp os with
  | true, some x =>
    if (s.portU p).req ≠ some (x.seq, x.t1) then .next s
    else
      let trip : Int := signed 64 ((rx.toNat + 2 ^ 64 - x.t1) % 2 ^ 64) - signed 64 ((x.t3 + 2 ^ 64 - x.t2) % 2 ^ 64)
      let d := (trip / 2 / 256).toNat
      let s := s.portMod p fun u => { u with req := none, delays := (d :: u.delays).take 8 }
      let ds := (s.portU p).delays
      let s := if ds.length < 8 then s
        else s.p (.nir p) F.NIR_DELAY_DELAY (min (ds.foldl (· + ·) 0 / 8) (2 ^ 24 - 1))
      let s := if x.valid then { s with grid := { s.grid with
          partnerPath := (s.grid.partnerPath.filter fun q => q.1 != p) ++ [(p, x.path)] } } else s
      .next (if p = s.beaconPort then s.updatePath else s)
  | _, _ => .next s

/-- JOIN_REPORT (R38, R263). -/
def execJoinReport (port : Port) (flit : CtlFlit) (s : State) : Host.Outcome State Fault Refusal :=
  .next (s.ctlIn port.val flit)

/-- CONTROL_FLIT_RECEIVE (R261 to R263). -/
def execControlFlitReceive (port : Port) (flit : CtlFlit) (s : State) : Host.Outcome State Fault Refusal :=
  .next (s.ctlIn port.val flit)

/-- RELEASE_RECEIVE (R219, R263). -/
def execReleaseReceive (port : Port) (flit : CtlFlit) (s : State) : Host.Outcome State Fault Refusal :=
  .next (s.ctlIn port.val flit)

/-- GRIDSYNC_EDGE at a local time (R57, R58). -/
def execGridsyncEdge (at_ : BitVec 64) (s : State) : Host.Outcome State Fault Refusal :=
  .next ((s.advanceTo at_.toNat).syncEdge at_.toNat)

/-- GRIDSYNC_EDGE_MISSING (R57). -/
def execGridsyncEdgeMissing (s : State) : Host.Outcome State Fault Refusal :=
  .next (if !s.syncOn || s.grid.syncEdges = 0 then s
    else if s.grid.syncMiss ≥ 1 then s.syncLost
    else { s with grid := { s.grid with syncMiss := s.grid.syncMiss + 1 } }.syncStray)

/-- SNAG_FORWARD (R38, R50). -/
def execSnagForward (port : Port) (os : OrdSet) (s : State) : Host.Outcome State Fault Refusal :=
  .next (s.snagIn port.val os)

/-- SNAG_ROOT_RECEIVE (R51, R53). -/
def execSnagRootReceive (port : Port) (os : OrdSet) (s : State) : Host.Outcome State Fault Refusal :=
  .next (s.snagIn port.val os)

/-- SNAG_REPROJECTION (R48). -/
def execSnagReprojection (late : List Projection) (s : State) : Host.Outcome State Fault Refusal :=
  .next (s.project late)

end Sys2Proof.Machine
end

