-- ==== Sys2Proof/Machine/Power.lean ====
section
/-! DEFINITION. The power controller: supply faults, cooling class, caps, the fast and slow loops, droop, thermal limits,
PWRBRAKE# and the throttle reasons (R347 to R371). -/

namespace Sys2Proof.Machine

/-! ### Figures -/

/-- Relative array power f × V² of each operating point, in ten-thousandths (R358). -/
def opPower : Nat → Nat
  | 0 => 741 | 1 => 1055 | 2 => 1405 | 3 => 1793 | 4 => 2220 | 5 => 2689 | 6 => 3200 | 7 => 3756
  | 8 => 4358 | 9 => 5007 | 10 => 5706 | 11 => 6456 | 12 => 7259 | 13 => 8116 | 14 => 9029 | _ => 10000

/-- Power in units of 10 µW, in which mV × 10 mA is exact. -/
def wattU (w : Nat) : Int := (w : Int) * 100000

def meanOf (l : List Nat) : Nat := l.foldl (· + ·) 0 / max 1 l.length
def peakOf (l : List Nat) : Nat := l.foldl max 0

/-- The power controller runs from the release of PERST# while the input holds (R378, R381, R420). -/
def State.pwrRuns (s : State) : Bool := s.supplied && !s.perst

def State.ratedOp (s : State) : Nat := s.g .pwr F.PWR_STATUS_RATED_OP
def State.ratedDuty (s : State) : Nat := s.g .pwr F.PWR_STATUS_RATED_DUTY
def State.powerDuty (s : State) : Nat := s.g .pwr F.PWR_THR_ACTIVE_POWER_DUTY

/-- The two terms of R360 at the input voltage last measured: the cap in force and V_in × ICC_MAX. -/
def State.capTerm (s : State) : Int := wattU (s.g .pwr F.PWR_CAP_IN_FORCE)
def State.currentTerm (s : State) : Int :=
  (s.g .pwr F.PWR_INPUT_VIN_MV : Int) * (s.g .pwr F.PWR_ELEC_CFG_ICC_MAX : Int) * 100

def State.currentBinds (s : State) : Bool := decide (s.currentTerm < s.capTerm)

/-- P_target (R360). -/
def State.powerTarget (s : State) : Int :=
  (if s.currentBinds then s.currentTerm else s.capTerm) - wattU (s.g .pwr F.PWR_CTRL_CFG_GUARD_W)

def State.fixedPower (s : State) : Int := wattU (s.g .pwr F.PWR_FIXED_W_FIXED)

/-! ### Supply (R349) -/

/-- A fatal error of the supply: PWR_ERR, FAULT# and the fail-safe state; the power controller stands on S1. While PERST# is
asserted a supply fault only drives FAULT# low, until the release (R379; log entry 40, DEDUCED). -/
def State.supplyFatal (s : State) (err code domain detail : Nat) : State :=
  if !s.supplied then s
  else if s.perst then { s with pinFault := true }
  else ((s.p .pwr F.PWR_ERR_CODE err).p .pwr F.PWR_ERR_DOMAIN domain).fatal 5 code detail

def execSupplyUv (mv : BitVec 16) (s : State) : Host.Outcome State Fault Refusal :=
  .next (s.supplyFatal 1 3 0 mv.toNat)

def execSupplyOv (mv : BitVec 16) (s : State) : Host.Outcome State Fault Refusal :=
  .next (s.supplyFatal 2 4 0 mv.toNat)

def execRegFault (domain : Fin 36) (s : State) : Host.Outcome State Fault Refusal :=
  .next (s.supplyFatal 3 5 domain.val domain.val)

/-! ### Cooling class (R353, R354) -/

/-- Sensor state of a CLS code (R410). -/
def coolingState (code : Nat) : Nat := if code = 1 then 1 else if code = 2 then 2 else if code = 3 then 3 else 4

/-- CLASS_CHANGE: the attachment rating changes at once; a slower class withdraws admission at the running step's end knot, and
at once when no step runs (R108, R354; log entry 52, DESIGN CHOICE). -/
def State.classChange (s : State) (code : Nat) : State :=
  let old := s.g .pwr F.PWR_STATUS_CLASS
  let s := ((s.p .pwr F.PWR_STATUS_CLASS code).p .pwr F.PWR_STATUS_CLS_PEND 0).refreshPower
  let s := (s.line 5 7).event { type := 0x50, cls := 0, die := 7, block := 3, inst := old, code := code }
  let s := s.sensorState 16 0 (coolingState old) (coolingState code)
  match s.img with
  | some p =>
    if codeClass code ≤ p.pace then s
    else if s.run.isSome then { s with pwr := { s.pwr with withdrawAtEnd := true } }
    else s.withdraw true
  | none => s

def execClsRead (code : BitVec 3) (s : State) : Host.Outcome State Fault Refusal :=
  if !s.pwrRuns then .next s
  else
    let c := code.toNat
    let n := if c = s.g .pwr F.PWR_STATUS_CLS_RAW then min 16 (s.pwr.clsReads + 1) else 1
    let s := (s.p .pwr F.PWR_STATUS_CLS_RAW c).pb .pwr F.PWR_STATUS_CLS_PEND (c != s.g .pwr F.PWR_STATUS_CLASS)
    let s := { s with pwr := { s.pwr with clsReads := n } }
    .next (if n ≥ 16 && c ≠ s.g .pwr F.PWR_STATUS_CLASS then s.classChange c else s)

/-! ### Caps (R355) -/

/-- CAP_APPLY at a knot or tick: the caps accepted since the last one take effect in the order of acceptance, and
SET_POWER_CAP completes with the cap in force. -/
def State.capApply (s : State) : State :=
  let cs := s.cmds.filter fun c => c.opcode == 0x40
  if cs.isEmpty && s.pwr.capMgt.isNone then s
  else
    let s := match s.pwr.capMgt with
      | some w => { s.p .pwr F.PWR_CAP_MGT_CAP w with pwr := { s.pwr with capMgt := none } }
      | none => s
    let s := (cs.foldl (fun s c => s.p .pwr F.PWR_CAP_HOST_CAP c.arg) s).refreshPower
    s.completeOp 0x40 Code.success (s.g .pwr F.PWR_CAP_IN_FORCE)

def execSetPowerCap (ring : RingId) (e : Sqe) (s : State) : Host.Outcome State Fault Refusal :=
  .next (s.withCmd ring 0x40 e (e.plain 10) fun c s =>
    let w := e.field 8 2
    if w < 600 || 3400 < w then s.refuse c Code.range else s.setCmd c { c with arg := w })

/-! ### Reasons and episodes (R369, R370) -/

/-- Power holds an array, or the memory controllers, below the rated point (R357, R369). -/
def State.powerHeld (s : State) : Bool :=
  decide (min s.powerDuty s.ratedDuty < s.ratedDuty) || decide (s.pwr.op < s.ratedOp)
    || decide (s.g .pwr F.PWR_THR_ACTIVE_MEM_DUTY < 16)

/-- A Hoop is held under R366 until its point and its duty are free again.
Readings: log entry 10, DEDUCED. -/
def State.hoopHeld (s : State) (h : Nat) : Bool :=
  h ∈ s.pwr.hot || h ∈ s.pwr.crit || decide (tget 15 s.pwr.thermOp h < s.ratedOp) || decide (tget 16 s.pwr.thermDuty h < 16)

/-- The duty that an array would run without its droop duty (R361, R366). -/
def State.dutyBut (s : State) (a : Nat) : Nat := min (min s.ratedDuty s.powerDuty) (tget 16 s.pwr.thermDuty (a / 2))

/-- A droop duty limits an array (R364, R369). -/
def State.droopHeld (s : State) (a : Nat) : Bool := decide ((tget {} s.arrays a).droop < s.dutyBut a)

def State.reasonActive (s : State) (n : Nat) : Bool :=
  let src := s.g .pwr F.PWR_CAP_SOURCE
  let byCap := s.powerHeld && !s.currentBinds
  match n with
  | 0 => byCap && (src == 2 || src == 3)
  | 1 => (List.range 4).any s.hoopHeld
  | 2 => !s.throttledStacks.isEmpty
  | 3 => (List.range 8).any fun a => s.droopHeld a && !(a ∈ s.pwr.regLimit)
  | 4 => (s.powerHeld && s.currentBinds) || (List.range 8).any fun a => s.droopHeld a && a ∈ s.pwr.regLimit
  | 5 => byCap && src == 1
  | _ => s.gb .pwr F.PWR_STATUS_BRAKE

/-- One sample of one reason: its episode starts, runs on for 1 µs, or ends; at most one pair of events per reason and knot
interval (R370). -/
def State.reasonSample (s : State) (n : Nat) : State :=
  let bitF : Fld := ⟨F.PWR_THR_ACTIVE_REASONS.off, n, 1⟩
  let was := s.gb .pwr bitF
  let now := s.reasonActive n
  let s := if was then
      let s := s.p2 .pwr (F.PWR_THR_NS_LO_NS_LO n) (F.PWR_THR_NS_HI_NS_HI n)
        ((s.g2 .pwr (F.PWR_THR_NS_LO_NS_LO n) (F.PWR_THR_NS_HI_NS_HI n) + 1000) % 2 ^ 64)
      { s with pwr := { s.pwr with episode := tmod 0 s.pwr.episode n (· + 1000) } }
    else s
  let s := if was == now then s else (s.pb .pwr bitF now).sensorState 19 n (if was then 2 else 1) (if now then 2 else 1)
  if now && !was then
    let s := (s.inc .pwr (F.PWR_THR_CNT_COUNT n) 1).line 5 (160 + n)
    if tget 0 s.pwr.loggedAt n = s.knotNow + 1 then s
    else
      { s.event { type := 0x51, cls := 0, die := 7, block := 3, code := n } with
        pwr := { s.pwr with loggedAt := tput 0 s.pwr.loggedAt n (s.knotNow + 1), logged := s.pwr.logged ++ [n] } }
  else if was && !now then
    let dur := tget 0 s.pwr.episode n
    let s' := { s with pwr := { s.pwr with episode := tput 0 s.pwr.episode n 0, logged := s.pwr.logged.filter (· != n) } }
    if n ∈ s.pwr.logged then
      s'.event { type := 0x51, cls := 0, die := 7, block := 3, inst := 1, code := n, data := dur }
    else s'
  else s

/-! ### The fast loop (R348, R360, R361, R367) -/

/-- d_p after a sample of P_meas = p (R361); 1 while PWRBRAKE# is asserted (R367). -/
def State.fastDuty (s : State) (p : Int) : Nat :=
  let dr := s.ratedDuty
  let cur := min s.powerDuty dr
  let t := s.powerTarget
  let f := s.fixedPower
  if s.gb .pwr F.PWR_STATUS_BRAKE then 1
  else if t < p || cur < dr then
    let new : Int := if t ≤ f then 1 else if p ≤ f + 100000 then dr else (cur : Int) * (t - f) / (p - f)
    (max 1 (min new dr)).toNat
  else s.powerDuty

/-- Samples in a row that meet a condition. -/
def runLen (c : Bool) (n : Nat) : Nat := if c then min (n + 1) 1000 else 0

/-- VIN_LOW follows the input between 38 V and 40 V; becoming set queues a sensor event (R349, R411). -/
def State.vinSample (s : State) (mv iin : Nat) : State :=
  let was := s.gb .pwr F.PWR_STATUS_VIN_LOW
  let low := decide (38000 ≤ mv) && decide (mv < 40000)
  let old := s.g .pwr F.PWR_INPUT_VIN_MV
  let s := ((s.p .pwr F.PWR_INPUT_VIN_MV mv).p .pwr F.PWR_INPUT_IIN iin).pb .pwr F.PWR_STATUS_VIN_LOW low
  if low && !was then s.sensor ⟨1, 0, false, mv, old⟩ else s

/-- Keep a sample of P_meas, the 100 µs average and the 1 ms peak (R348). -/
def State.keepSample (s : State) (p : Nat) : State :=
  let l := (p :: s.pwr.samples).take 1000
  let s := { s with pwr := { s.pwr with samples := l } }
  (s.p .pwr F.PWR_MODULE_W_AVG_W (min 4095 (meanOf (l.take 100) / 100000))).p .pwr F.PWR_MODULE_W_PEAK_W
    (min 4095 (peakOf l / 100000))

/-- Put a power duty in force. -/
def State.setPowerDuty (s : State) (d : Nat) : State :=
  if d == s.powerDuty then s else (s.p .pwr F.PWR_THR_ACTIVE_POWER_DUTY d).line 5 6

/-- What the slow loop and the memory step look back on (R362). -/
def State.lookBack (s : State) (p : Int) : State :=
  let d := s.powerDuty
  let u := s.pwr
  { s with pwr := { u with
      below := runLen (decide (d < s.ratedDuty)) u.below
      equal := runLen (decide (s.ratedDuty ≤ d)) u.equal
      overAim := runLen (decide (s.powerTarget < p)) u.overAim
      underAim := runLen (decide (p < s.powerTarget - wattU (s.g .pwr F.PWR_CTRL_CFG_GUARD_W))) u.underAim } }

/-- POWER_SAMPLE, every 1 µs: P_meas is formed from the input voltage and current (R348, R360, R361, R370). -/
def execPowerSample (reading : PowerReading) (s : State) : Host.Outcome State Fault Refusal :=
  if !s.pwrRuns then .next s
  else
    let p := reading.vinMv.toNat * reading.iin10mA.toNat
    let s := (s.vinSample reading.vinMv.toNat reading.iin10mA.toNat).keepSample p
    let s := (s.setPowerDuty (s.fastDuty p)).lookBack p
    .next (s.arrayRates.forN 7 fun n s => s.reasonSample n)

/-! ### The slow loop (R362, R363) -/

/-- The predicted power at the point above `op` is at or below P_target (R362). -/
def State.fitsAbove (s : State) (op : Nat) : Bool :=
  let avg : Int := meanOf (s.pwr.samples.take 100)
  let k : Int := opPower op
  decide (s.fixedPower * k + (avg - s.fixedPower) * (opPower (op + 1) : Int) ≤ s.powerTarget * k)

/-- The point the power loops set, after one pass of the slow loop. -/
def State.slowOp (s : State) : Nat :=
  let op := s.pwr.op
  if s.pwr.below ≥ 100 && op > 0 then op - 1
  else if s.pwr.equal ≥ 1000 && op < s.ratedOp && s.fitsAbove op then op + 1
  else op

/-- A Hoop no longer held at HOOP_THR_C rises again by one point under the same conditions (R366). -/
def State.slowHoop (s : State) (h : Nat) : State :=
  let lim := tget 15 s.pwr.thermOp h
  if h ∈ s.pwr.hot || lim ≥ s.ratedOp || s.pwr.equal < 1000 || !s.fitsAbove (min lim s.pwr.op) then s
  else { s with pwr := { s.pwr with thermOp := tput 15 s.pwr.thermOp h (if lim + 1 ≥ s.ratedOp then 15 else lim + 1) } }

/-- The HBM3 request duty after one pass of the slow loop (R362). -/
def State.slowMem (s : State) : Nat :=
  let m := s.g .pwr F.PWR_THR_ACTIVE_MEM_DUTY
  let floor := (List.range 8).all fun a => s.g (.arr a) F.ARR_STATUS_OP == 0
  if floor && s.powerDuty = 1 && s.pwr.overAim ≥ 100 && m > 8 then m - 1
  else if s.pwr.underAim ≥ 100 && m < 16 then m + 1
  else m

def execSlowLoop (s : State) : Host.Outcome State Fault Refusal :=
  if !s.pwrRuns then .next s
  else
    let m := s.slowMem
    let op := s.slowOp
    let s := s.forN 4 fun h s => s.slowHoop h
    let s := if op = s.pwr.op && m = s.g .pwr F.PWR_THR_ACTIVE_MEM_DUTY then s else s.line 5 6
    .next ({ s with pwr := { s.pwr with op := op } }.p .pwr F.PWR_THR_ACTIVE_MEM_DUTY m).arrayRates

/-- OP_CHANGE_COMPLETE: a raised voltage has settled and the array clock follows (R23, R359). -/
def execOpChangeComplete (array : ArrayId) (s : State) : Host.Outcome State Fault Refusal :=
  let a := array.val
  match (tget {} s.arrays a).opTarget with
  | none => .next s
  | some op =>
    let s := s.keepCycles a (·.p (.arr a) F.ARR_STATUS_OP op)
    .next { s with arrays := tmod {} s.arrays a fun u => { u with opTarget := none } }

/-! ### Droop and current (R364, R365) -/

def State.setDroop (s : State) (a d : Nat) : State :=
  { s with arrays := tmod {} s.arrays a fun u => { u with droop := d } }.arrayRates

/-- An array whose domain is off has nothing to detect. -/
def State.arrayOn (s : State) (a : Nat) : Bool := s.pwrRuns && s.domainOn (arrayDomain a)

def execDroopTrip (array : ArrayId) (s : State) : Host.Outcome State Fault Refusal :=
  let a := array.val
  .next (if s.arrayOn a then
    { s with pwr := { s.pwr with regLimit := s.pwr.regLimit.filter (· != a) } }.setDroop a 1 else s)

/-- The droop duty rises by one per group until it no longer limits the array. -/
def execDroopRecovery (array : ArrayId) (s : State) : Host.Outcome State Fault Refusal :=
  let a := array.val
  let d := (tget {} s.arrays a).droop
  if d ≥ 16 then .next s
  else
    let d' := if d + 1 ≥ s.dutyBut a then 16 else d + 1
    let s := if d' = 16 then { s with pwr := { s.pwr with regLimit := s.pwr.regLimit.filter (· != a) } } else s
    .next (s.setDroop a d')

def execRegulatorCurrentLimit (hoop : Hoop) (s : State) : Host.Outcome State Fault Refusal :=
  .next (s.forN 2 fun k s =>
    let a := 2 * hoop.val + k
    if !s.arrayOn a then s
    else { s with pwr := { s.pwr with regLimit := s.pwr.regLimit.filter (· != a) ++ [a] } }.setDroop a 1)

/-! ### Thermal limits (R366) -/

/-- Lower both arrays of a Hoop by THR_STEP points. -/
def State.thermDown (s : State) (h : Nat) : State :=
  let cur := min s.pwr.op (tget 15 s.pwr.thermOp h)
  { s with pwr := { s.pwr with thermOp := tput 15 s.pwr.thermOp h (cur - s.g .pwr F.PWR_CTRL_CFG_THR_STEP) } }

def listSet (l : List Nat) (h : Nat) (on : Bool) : List Nat := l.filter (· != h) ++ (if on then [h] else [])

/-- Reads in a row at 120 °C or above; the second is fatal. -/
def State.overTemp (s : State) (die t err code detail : Nat) : State :=
  let n := if t ≥ 120 then min 2 (tget 0 s.pwr.at120 die + 1) else 0
  let s := { s with pwr := { s.pwr with at120 := tput 0 s.pwr.at120 die n } }
  if n = 2 then (s.p .pwr F.PWR_ERR_CODE err).fatal die code detail else s

def State.hoopTemp (s : State) (h t : Nat) : State :=
  let f : Fld := ⟨F.PWR_HOOP_TEMP_H0.off, 8 * h, 8⟩
  let old := s.g .pwr f
  let s := s.p .pwr f t
  let thr := s.g .pwr F.PWR_THERM_CFG_HOOP_THR_C
  let crit := s.g .pwr F.PWR_THERM_CFG_HOOP_CRIT_C
  let hyst := s.g .pwr F.PWR_THERM_CFG_HYST_C
  let s := if h ∈ s.pwr.hot then
      if t + hyst < thr then { s with pwr := { s.pwr with hot := listSet s.pwr.hot h false } } else s
    else if t ≥ thr then
      ({ s with pwr := { s.pwr with hot := listSet s.pwr.hot h true } }.thermDown h).sensor ⟨6 + h, 0, false, t, old⟩
    else s
  let s := if t ≥ crit then
      { s with pwr := { s.pwr with crit := listSet s.pwr.crit h true, thermDuty := tput 16 s.pwr.thermDuty h 1 } }
    else if t + hyst < crit then { s with pwr := { s.pwr with crit := listSet s.pwr.crit h false } } else s
  s.overTemp h t 4 6 h

def execHoopTempRead (t : Vector (BitVec 8) 4) (s : State) : Host.Outcome State Fault Refusal :=
  if !s.pwrRuns then .next s
  else .next (((((s.hoopTemp 0 t[0].toNat).hoopTemp 1 t[1].toNat).hoopTemp 2 t[2].toNat).hoopTemp 3 t[3].toNat).arrayRates)

/-- HOOP_THERMAL_STEP, every 100 µs: another step down while at or above HOOP_THR_C; once the critical level is left, the
thermal duty rises by one. -/
def execHoopThermalStep (hoop : Hoop) (s : State) : Host.Outcome State Fault Refusal :=
  let h := hoop.val
  if !s.pwrRuns then .next s
  else
    let t := s.g .pwr ⟨F.PWR_HOOP_TEMP_H0.off, 8 * h, 8⟩
    let s := if h ∈ s.pwr.hot && t ≥ s.g .pwr F.PWR_THERM_CFG_HOOP_THR_C then s.thermDown h else s
    let s := if h ∈ s.pwr.crit then s
      else { s with pwr := { s.pwr with thermDuty := tmod 16 s.pwr.thermDuty h fun d => min 16 (d + 1) } }
    .next s.arrayRates

def execShuttleTempRead (t : Vector (BitVec 8) 2) (s : State) : Host.Outcome State Fault Refusal :=
  if !s.pwrRuns then .next s
  else
    let s := (s.p .pwr F.PWR_SHUTTLE_TEMP_S0 t[0].toNat).p .pwr F.PWR_SHUTTLE_TEMP_S1 t[1].toNat
    .next ((s.overTemp 4 t[0].toNat 5 7 0).overTemp 5 t[1].toNat 5 7 1)

/-! ### PWRBRAKE# (R367, R381) -/

def execPwrbrakeAssert (s : State) : Host.Outcome State Fault Refusal :=
  let s := { s with brakePin := true }
  .next (if s.pwrRuns then ((s.p .pwr F.PWR_STATUS_BRAKE 1).refreshPower.p .pwr F.PWR_THR_ACTIVE_POWER_DUTY 1).arrayRates else s)

def execPwrbrakeRelease (s : State) : Host.Outcome State Fault Refusal :=
  let s := { s with brakePin := false }
  .next (if s.pwrRuns then (s.p .pwr F.PWR_STATUS_BRAKE 0).refreshPower else s)

/-! ### Clocks and watchdogs (R376, R420) -/

/-- REFCLK_LOSS; the time base stands on S1. -/
def execRefclkLoss (s : State) : Host.Outcome State Fault Refusal :=
  .next (if s.pwrRuns then s.fatal 5 0x0A 0 else s)

def execControlWatchdog (die : Die) (s : State) : Host.Outcome State Fault Refusal :=
  .next (if s.pwrRuns then s.fatal die.val 0x10 die.val else s)

end Sys2Proof.Machine
end

