-- ==== Sys2Proof/Machine/Clock.lean ====
section
/-! DEFINITION. What an idle step does: 20 ns of local time pass at the rate word (R29, R31), and messages that the rate limit
held leave (R323). -/

namespace Sys2Proof.Machine

/-- Local time that one idle step adds, in 2⁻¹⁶ ns (log entry 3, DESIGN CHOICE). -/
def State.tickLength (s : State) : Nat := ((nsT 20 : Int) * (10 ^ 9 + s.grid.rate + s.grid.phase) / 10 ^ 9).toNat

/-- One idle step. Nothing passes while PERST# is asserted or the supply is off. -/
def State.idle (s : State) : State :=
  if s.pwrRuns then (s.advanceTo ((s.grid.time + s.tickLength) % 2 ^ 64)).flushMsix else s

end Sys2Proof.Machine
end

