-- ==== Sys2Proof/Machine/Elem.lean ====
section
/-! DEFINITION. The vector unit's elementary functions (R149): the exact mathematical value at the FP32 input, correctly
rounded. Each is evaluated in fixed point with 768 fractional bits (log entry 20, DESIGN CHOICE), with exact cases taken apart. -/

namespace Sys2Proof.Machine

/-- Fractional bits of the fixed-point evaluation. -/
def fxP : Nat := 768

def fxOne : Int := 2 ^ 768

def fxMul (a b : Int) : Int := (a * b) >>> fxP

def fxDiv (a b : Int) : Int := (a <<< fxP) / b

/-- The odd series Σ z^(2k+1)/(2k+1), signs alternating or not, by z and z². -/
def fxOddSeries (alt : Bool) (z2 : Int) : Nat → Int → Nat → Int
  | 0, _, _ => 0
  | n + 1, t, k =>
    t / (2 * k + 1 : Nat) + (if alt then -1 else 1) * fxOddSeries alt z2 n (fxMul t z2) (k + 1)

/-- ln 2 = 2 artanh(1/3). -/
def fxLn2 : Int := 2 * fxOddSeries false (fxOne / 9) 250 (fxOne / 3) 0

/-- π by Machin's formula. -/
def fxPi : Int :=
  16 * fxOddSeries true (fxOne / 25) 170 (fxOne / 5) 0 - 4 * fxOddSeries true (fxOne / 57121) 50 (fxOne / 239) 0

/-- exp of a small fixed-point number by its power series. -/
def fxExpSeries (r : Int) : Nat → Int → Nat → Int
  | 0, _, _ => 0
  | n + 1, t, k => t + fxExpSeries r n (fxMul t r / (k + 1 : Nat)) (k + 1)

/-- exp of a fixed-point number: significand in fixed point and a binary exponent. -/
def fxExp (x : Int) : Int × Int :=
  let n := (2 * x + fxLn2) / (2 * fxLn2)
  (fxExpSeries (x - n * fxLn2) 150 fxOne 0, n)

/-- exp as one fixed-point number (for exponents that keep it in range). -/
def fxExpF (x : Int) : Int :=
  let (m, n) := fxExp x
  if n ≥ 0 then m <<< n.toNat else m >>> (-n).toNat

/-- ln of a positive fixed-point number near 1, by artanh. -/
def fxLnNear1 (m : Int) : Int :=
  let z := fxDiv (m - fxOne) (m + fxOne)
  2 * fxOddSeries false (fxMul z z) 250 z 0

/-- ln of m · 2^e, m > 0. -/
def fxLn (m : Nat) (e : Int) : Int :=
  let l := Nat.log2 m
  let x : Int := (m <<< fxP) >>> l
  if 2 * x < 3 * fxOne then fxLnNear1 x + (e + l) * fxLn2
  else fxLnNear1 (x / 2) + (e + l + 1) * fxLn2

/-- The Taylor series of erf without its factor: Σ (−1)^n z^(2n+1) / (n! (2n+1)). -/
def fxErfSeries (z2 : Int) : Nat → Int → Nat → Int
  | 0, _, _ => 0
  | n + 1, t, k => t / (2 * k + 1 : Nat) + fxErfSeries z2 n (-(fxMul t z2) / (k + 1 : Nat)) (k + 1)

/-- 2/√π. -/
def fxTwoOverSqrtPi : Int := 2 * (isqrt ((2 : Nat) ^ (3 * 768) / fxPi.toNat) : Int)

def fxErf (z : Int) : Int := fxMul fxTwoOverSqrtPi (fxErfSeries (fxMul z z) 900 z 0)

/-- A fixed-point number as a value; the dropped tail is marked by a sticky bit. -/
def fxVal (x : Int) : FVal := .fin (decide (x < 0)) (2 * x.natAbs + 1) (-(fxP : Int) - 1)

/-- A significand in fixed point times 2^n. -/
def fxValE (x : Int) (n : Int) : FVal := .fin (decide (x < 0)) (2 * x.natAbs + 1) (n - (fxP : Int) - 1)

/-- An exact dyadic as a fixed-point number (exact for e ≥ −768). -/
def fxOf (neg : Bool) (m : Nat) (e : Int) : Int :=
  sgn neg (if e + fxP ≥ 0 then m <<< (e + fxP).toNat else m >>> (-(e + fxP)).toNat)

def one : FVal := .fin false 1 0

/-- A magnitude that rounds to infinity, and one that rounds to zero. -/
def hugeV : FVal := .fin false 1 2000
def tinyV (neg : Bool) : FVal := .fin neg 1 (-2000)

def expV : FVal → FVal
  | .nan => .nan
  | .inf neg => if neg then .fin false 0 0 else .inf false
  | .fin neg m e =>
    if m = 0 then one
    else if fleMag 110 0 m e then (if neg then tinyV false else hugeV)
    else let (x, n) := fxExp (fxOf neg m e); fxValE x n

def exp2V : FVal → FVal
  | .nan => .nan
  | .inf neg => if neg then .fin false 0 0 else .inf false
  | .fin neg m e =>
    if m = 0 then one
    else if fleMag 160 0 m e then (if neg then tinyV false else hugeV)
    else
      let x := fxOf neg m e
      let i := x >>> fxP
      if x = i <<< fxP then .fin false 1 i
      else let (y, n) := fxExp (fxMul (x - i <<< fxP) fxLn2); fxValE y (n + i)

def logV : FVal → FVal
  | .nan => .nan
  | .inf neg => if neg then .nan else .inf false
  | .fin neg m e =>
    if m = 0 then .inf true else if neg then .nan
    else if 2 ^ Nat.log2 m = m && (Nat.log2 m : Int) + e = 0 then .fin false 0 0
    else fxVal (fxLn m e)

def log2V : FVal → FVal
  | .nan => .nan
  | .inf neg => if neg then .nan else .inf false
  | .fin neg m e =>
    if m = 0 then .inf true else if neg then .nan
    else if 2 ^ Nat.log2 m = m then
      let k := (Nat.log2 m : Int) + e
      .fin (decide (k < 0)) k.natAbs 0
    else fxVal (fxDiv (fxLn m e) fxLn2)

def recipV (x : FVal) : FVal := fdivV one x

def rsqrtV : FVal → FVal
  | .nan => .nan
  | .inf neg => if neg then .nan else .fin false 0 0
  | .fin neg m e =>
    if m = 0 then .inf neg else if neg then .nan else
    -- 1/√(m·2^e) with e even: √(2^(2·160)/m) · 2^(−e/2 − 160), sticky where inexact
    let e' := if e % 2 = 0 then e else e - 1
    let m' := if e % 2 = 0 then m else 2 * m
    let q := (2 : Nat) ^ 320 / m'
    let r := isqrt q
    let exact := decide (r * r * m' = 2 ^ 320)
    .fin false (2 * r + (if exact then 0 else 1)) (-(e' / 2) - 160 - 1)

/-- tanh |x| from exp(−2|x|). -/
def tanhV : FVal → FVal
  | .nan => .nan
  | .inf neg => .fin neg 1 0
  | .fin neg m e =>
    if m = 0 then .fin neg 0 0
    else if fleMag 12 0 m e then .fin neg (2 ^ 60 - 1) (-60)
    else
      let t := fxExpF (-2 * fxOf false m e)
      let v := fxDiv (fxOne - t) (fxOne + t)
      if neg then fnegV (fxVal v) else fxVal v

def sigmoidV : FVal → FVal
  | .nan => .nan
  | .inf neg => if neg then .fin false 0 0 else one
  | .fin neg m e =>
    if m = 0 then .fin false 1 (-1)
    else if fleMag 120 0 m e then (if neg then tinyV false else .fin false (2 ^ 60 - 1) (-60))
    else if neg then
      let t := fxExpF (fxOf true m e)
      fxVal (fxDiv t (fxOne + t))
    else
      let t := fxExpF (-(fxOf false m e))
      fxVal (fxDiv fxOne (fxOne + t))

/-- ln(1 + t) for 0 < t ≤ 1. -/
def fxLn1p (t : Int) : Int :=
  if 2 * t < fxOne then fxLnNear1 (fxOne + t) else fxLnNear1 ((fxOne + t) / 2) + fxLn2

def softplusV : FVal → FVal
  | .nan => .nan
  | .inf neg => if neg then .fin false 0 0 else .inf false
  | .fin neg m e =>
    if fleMag 120 0 m e then (if neg then tinyV false else .fin false m e)
    else
      let x := fxOf neg m e
      if neg then fxVal (fxLn1p (fxExpF x))
      else fxVal (x + fxLn1p (fxExpF (-x)))

def erfV : FVal → FVal
  | .nan => .nan
  | .inf neg => .fin neg 1 0
  | .fin neg m e =>
    if m = 0 then .fin neg 0 0
    else if fleMag 6 0 m e then .fin neg (2 ^ 60 - 1) (-60)
    else let v := fxErf (fxOf false m e)
         if neg then fnegV (fxVal v) else fxVal v

/-- √(1/2). -/
def fxSqrtHalf : Int := isqrt (2 ^ (2 * 768 - 1))

/-- GELU in its erf form: x · (1 + erf(x/√2)) / 2. -/
def geluV : FVal → FVal
  | .nan => .nan
  | .inf neg => if neg then .fin true 0 0 else .inf false
  | .fin neg m e =>
    if m = 0 then .fin neg 0 0
    else if fleMag 16 0 m e then (if neg then tinyV true else .fin false m e)
    else
      let x := fxOf neg m e
      let phi := (fxOne + fxErf (fxMul x fxSqrtHalf)) / 2
      fxVal (fxMul x phi)

/-- An elementary function on FP32 patterns in the mode in force. -/
def elem (t2 : Bool) (f : FVal → FVal) (x : Nat) : Nat := fout t2 fmtFP32 (f (fin32 t2 x))

/-- FN of R190; SiLU is RN(a · sigmoid(a)). Codes beyond the table are refused at admission and read as NaN here. -/
def fnApply (t2 : Bool) (fn a : Nat) : Nat :=
  match fn with
  | 0x0 => elem t2 expV a
  | 0x1 => elem t2 exp2V a
  | 0x2 => elem t2 logV a
  | 0x3 => elem t2 log2V a
  | 0x4 => elem t2 recipV a
  | 0x5 => elem t2 fsqrtV a
  | 0x6 => elem t2 rsqrtV a
  | 0x7 => elem t2 tanhV a
  | 0x8 => elem t2 sigmoidV a
  | 0x9 => elem t2 softplusV a
  | 0xA => elem t2 erfV a
  | 0xB => elem t2 geluV a
  | 0xC => fmul t2 a (elem t2 sigmoidV a)
  | _ => nanOf t2 fmtFP32

end Sys2Proof.Machine
end

