-- ==== Sys2Proof/Machine/Vector.lean ====
section
/-! DEFINITION. The vector unit: conversions with their scales and statistics, elementwise operations, functions, row
reductions, derivatives and drop-out (R148 to R152, R157 to R164, R168, R169, R173, R174, R190 to R200). -/

namespace Sys2Proof.Machine

/-- First DPA of a Hoop's SRAM (R225). -/
def sramBase (h : Nat) : Nat := 0x20000000000 + h * 2 ^ 28

/-- Little-endian words of n bytes. -/
def wordsOf (n : Nat) : Nat → List Byte → List Nat
  | 0, _ => []
  | k + 1, bs => leNat (bs.take n) :: wordsOf n k (bs.drop n)

def readWords (s : State) (a n k : Nat) : List Nat := wordsOf n k (s.readMem a (n * k))

/-- Key of a unit that runs one slot at a time. -/
def vecUnit (h : Nat) : Nat := 8 * h
def redUnit (s : Nat) : Nat := 8 * (4 + s) + 1
def updUnit (s : Nat) : Nat := 8 * (4 + s) + 2

/-- What a slot knows of its step while it works: the micro-batch's actual and maximum length (R91 to R93), seed and
step number (R154), T2 emulation. -/
structure WorkEnv where
  t2 : Bool
  seed : Nat
  step : Nat
  mb : Nat
  len : Nat
  maxLen : Nat
deriving DecidableEq, Repr

/-- Is this index of a descriptor's work skipped (R93)? At full length nothing is. -/
def WorkEnv.skips (w : WorkEnv) (desc : List Byte) (idx : Nat) : Bool :=
  decide (w.len < w.maxLen) && Config.beyond desc w.len w.maxLen idx

/-! ### Scale exponents and conversion of one element (R157, R158) -/

/-- Largest finite magnitude of a target as significand and exponent (R157, R158). -/
def fMax (fmt : Nat) : Nat × Int :=
  if fmt = 1 then (448, 0) else if fmt = 2 then (57344, 0) else if fmt = 3 then (127, 0) else if fmt = 4 then (6, 0)
  else if fmt = 5 then (255, 120) else (65504, 0)

/-- Largest n with a · 2^n ≤ f_max, for a finite a > 0 given as m · 2^e (R157). -/
def fittedExp (m : Nat) (e : Int) (fmt : Nat) : Int :=
  let f := fMax fmt
  let n := (Nat.log2 f.1 : Int) + f.2 - ((Nat.log2 m : Int) + e)
  if fleMag m (e + n) f.1 f.2 then n else n - 1

def clampExp (e : Int) : Int := if e < -127 then -127 else if e > 127 then 127 else e

/-- The E8M0 code of a scale exponent: D = 127 − e (R157). -/
def scaleCode (e : Int) : Nat := (127 - e).toNat

/-- Round to an integer and saturate to ±127 (R158); with a generator word, stochastically (R152). -/
def toInt8 (sr : Option Nat) (neg : Bool) (m : Nat) (e : Int) : Nat :=
  let (r, rem, den) := ftrunc m e 0
  let q := match sr with
    | none => rne r rem den
    | some w => if rem * 2 ^ 32 / den + w ≥ 2 ^ 32 then (if r ≥ 127 then r else r + 1) else r
  let q := min q 127
  if neg then (256 - q) % 256 else q

/-- One converted element: its code, the dequantised value, whether it counts in VEC_CVT_SAT, whether it is finite. -/
structure Cvt where
  code : Nat
  deq : FVal
  sat : Bool
  finite : Bool
deriving DecidableEq, Repr

/-- x · 2^e rounded once to the target (R151, R152, R158); stochastic rounding keeps the native rules in T2 emulation
(R156). -/
def cvtElem (t2 : Bool) (fmt : Nat) (sr : Option Nat) (e : Int) (x : Nat) : Cvt :=
  let t2 := t2 && sr.isNone
  match fin32 t2 x, fmtOf fmt with
  | .fin neg m ex, none =>
    let c := toInt8 sr neg m (ex + e)
    ⟨c, match opVal false 3 c with | .fin n q k => .fin n q (k - e) | v => v, !fleMag m (ex + e) 127 0, true⟩
  | .fin neg m ex, some f =>
    let c := match sr with
      | none => fround f neg m (ex + e)
      | some w => froundSR f w neg m (ex + e)
    let c := if t2 && f.sbit > 7 then flush f c else c
    ⟨c, match fdec f c with | .fin n q k => .fin n q (k - e) | v => v, !fleMag m (ex + e) (fMax fmt).1 (fMax fmt).2, true⟩
  | _, none => ⟨0, .fin false 0 0, false, false⟩
  | v, some f => ⟨match v with | .inf neg => if f.inf then finf f neg else nanOf t2 f | _ => nanOf t2 f, v, false, false⟩

/-! ### Statistics (R173) -/

/-- d and d² of one element, and |d|. -/
def errOf (t2 : Bool) (c : Cvt) (x : Nat) : Nat × Nat :=
  if c.finite then
    let d := fout t2 fmtFP32 (faddV c.deq (fnegV (fin32 t2 x)))
    (fmul t2 d d, d % 2 ^ 31)
  else (0, 0)

/-- Statistics of a run of elements. -/
def statOf (t2 : Bool) (cs : List (Cvt × Nat)) : ConvStat :=
  let es := cs.map fun p => errOf t2 p.1 p.2
  { sse := treeReduce (fadd t2) (es.map (·.1))
    count := (cs.filter fun p => p.1.finite).length
    maxErr := es.foldl (fun a p => fmax false a p.2) 0
    nonfin := (cs.filter fun p => !p.1.finite).length }

def statAdd (t2 : Bool) (a b : ConvStat) : ConvStat :=
  { sse := fadd t2 a.sse b.sse, count := min (a.count + b.count) (2 ^ 32 - 1)
    maxErr := fmax false a.maxErr b.maxErr, nonfin := min (a.nonfin + b.nonfin) (2 ^ 32 - 1) }

/-- The 16-byte record of a row group (R174). -/
def statBytes (c : ConvStat) : List Byte :=
  leBytes 4 c.sse ++ leBytes 4 (min c.count (2 ^ 32 - 1)) ++ leBytes 4 c.maxErr ++ leBytes 4 (min c.nonfin (2 ^ 32 - 1))

/-- Largest finite magnitude of a list of FP32 patterns, as a pattern (R164, R168). -/
def amaxOf (t2 : Bool) (xs : List Nat) : Nat :=
  xs.foldl (fun a x => let x := if t2 then flush fmtFP32 x else x
                       if fisFinite x then max a (x % 2 ^ 31) else a) 0

/-! ### A conversion entry (R159) -/

def fittedOf (a fmt : Nat) : Int :=
  match fdec fmtFP32 a with
  | .fin _ m e => if m = 0 then 0 else clampExp (fittedExp m e fmt)
  | _ => 0

/-- Pack element codes of a format into bytes (R159). -/
def packCodes (fmt : Nat) : List Nat → List Byte
  | [] => []
  | a :: r =>
    if fmt = 4 then
      match r with
      | [] => [BitVec.ofNat 8 a]
      | b :: r => BitVec.ofNat 8 (a + 16 * b) :: packCodes fmt r
    else if fmt ≤ 3 then BitVec.ofNat 8 a :: packCodes fmt r
    else leBytes 2 a ++ packCodes fmt r

/-- The block code of R169 for a run of 32 elements. -/
def blockCode (t2 : Bool) (xs : List Nat) : Nat :=
  if xs.any (fun x => !fisFinite x) then 0xFF else
  match fdec fmtFP32 (amaxOf t2 xs) with
  | .fin _ m e => if m = 0 then 0x7F else
    let x := (Nat.log2 m : Int) + e - 2 + 127
    (if x < 0 then 0 else if x > 254 then 254 else x).toNat
  | _ => 0xFF

/-- What a row's conversion leaves: codes with their inputs, and the scale bytes it writes. -/
def cvtRow (w : WorkEnv) (op fmt : Nat) (srId : Option Nat) (fixE dE : Int) (r rowLen : Nat) (xs : List Nat) :
    List (Cvt × Nat) × List Byte :=
  let word (i : Nat) : Option Nat := srId.map fun t => srWord w.seed t w.step (r * rowLen + i)
  let conv (e : Int) (i0 : Nat) (xs : List Nat) : List (Cvt × Nat) :=
    (xs.zip (List.range xs.length)).map fun p => (cvtElem w.t2 fmt (word (i0 + p.2)) e p.1, p.1)
  if op = 0x11 then
    let e := fittedOf (amaxOf w.t2 xs) fmt
    (conv e 0 xs, [BitVec.ofNat 8 (scaleCode e)])
  else if op = 0x12 then
    let parts := (List.range (xs.length / 32)).map fun b =>
      let ys := (xs.drop (32 * b)).take 32
      let c := blockCode w.t2 ys
      if c = 0x7F && amaxOf w.t2 ys = 0 then (ys.map fun y => (⟨0, .fin false 0 0, false, true⟩, y), c)
      else if c = 0xFF then (ys.map fun y => (⟨0, .fin false 0 0, false, fisFinite y⟩, y), c)
      else (conv (127 - (c : Int)) (32 * b) ys, c)
    (parts.flatMap (·.1), parts.map fun p => BitVec.ofNat 8 p.2)
  else (conv (if op = 0x13 then fixE else dE) 0 xs, [])

/-- Merge an amax into the step amax of a die's entry (R164). -/
def State.collect (s : State) (die idx amax : Nat) : State :=
  { s with stepStat := tmod {} s.stepStat (die * 2048 + idx) fun x => { x with amax := max x.amax amax, collected := true } }

def State.addStat (s : State) (t2 : Bool) (die idx : Nat) (c : ConvStat) : State :=
  { s with stepStat := tmod {} s.stepStat (die * 2048 + idx) fun x => { x with stat := statAdd t2 x.stat c } }

/-- A conversion's rows done one after another: memory, running codes of the whole conversion, amax. -/
structure CvtAcc where
  s : State
  all : List (List (Cvt × Nat))
  amax : Nat

/-- Run a conversion entry on a Hoop (R158 to R169, R173, R174). -/
def State.runConversion (s : State) (h : Nat) (w : WorkEnv) (d : List Byte) : State :=
  let op := leAt d 0 1
  let b1 := leAt d 1 1
  let fmt := b1 % 16
  let idx := leAt d 2 2 % 2048
  let rows := bits (leAt d 4 4) 19 0
  let fixE := signed 8 (bits (leAt d 4 4) 27 20)
  let rowLen := bits (leAt d 8 4) 19 0
  let group := bits (leAt d 8 4) 31 20
  let src := sramBase h + bits (leAt d 12 4) 27 0
  let dst := sramBase h + bits (leAt d 16 4) 27 0
  let scl := sramBase h + bits (leAt d 20 4) 27 0
  let stat := sramBase h + bits (leAt d 24 4) 27 0
  let srId := if bit b1 4 then some (leAt d 28 4) else none
  let dE : Int := 127 - ((tget {} s.scale idx).d : Int)
  let rowBytes := if fmt = 4 then rowLen / 2 else if fmt ≤ 3 then rowLen else 2 * rowLen
  let step (a : CvtAcc) (r : Nat) : CvtAcc :=
    if w.skips d r then { a with all := a.all ++ [[]] } else
    let xs := readWords a.s (src + 4 * r * rowLen) 4 rowLen
    let (cs, sb) := cvtRow w op fmt srId fixE dE r rowLen xs
    let s := a.s.writeMem (dst + r * rowBytes) (packCodes fmt (cs.map fun p => p.1.code))
    let s := if op = 0x11 then s.writeMem (scl + r) sb
      else if op = 0x12 then s.writeMem (scl + r * rowLen / 32) sb else s
    let s := s.inc (.vec h) F.VEC_CVT_SAT_COUNT (cs.filter fun p => p.1.sat).length
    let s := s.inc (.vec h) F.VEC_CVT_NONFIN_COUNT (cs.filter fun p => !fisFinite p.2).length
    { s := s, all := a.all ++ [cs], amax := max a.amax (amaxOf w.t2 xs) }
  let a := (List.range rows).foldl step { s := s, all := [], amax := 0 }
  let s := if bit b1 5 then a.s.collect h idx a.amax else a.s
  let s := if bit b1 6 then
      (List.range (ceilDiv rows group)).foldl (fun s g =>
        s.writeMem (stat + 16 * g) (statBytes (statOf w.t2 ((a.all.drop (g * group)).take group).flatten))) s
    else s
  if bit b1 7 && rows ≠ 0 then s.addStat w.t2 h idx (statOf w.t2 a.all.flatten) else s

/-! ### Vector operations (R190, R191, R194, R196) -/

/-- The result of one element. -/
def vecElem (t2 : Bool) (op fn a b c : Nat) : Nat :=
  let one := 0x3F800000
  let add := fadd t2
  let sub := fsub t2
  let mul := fmul t2
  match op with
  | 0x01 => add a b
  | 0x02 => sub a b
  | 0x03 => mul a b
  | 0x04 => ffma t2 a b c
  | 0x05 => fmax t2 a b
  | 0x06 => if t2 then (if fisNaN a then nanOf true fmtFP32 else flush fmtFP32 a) else if fisNaN a then 0x7FC00000 else a
  | 0x20 => fnApply t2 fn a
  | 0x30 => mul b (mul a (sub one a))
  | 0x31 => mul b (sub one (mul a a))
  | 0x32 =>
    let s := if fisNaN a then nanOf t2 fmtFP32 else if flt 0 (if t2 then flush fmtFP32 a else a) then one else 0
    mul b s
  | 0x33 => mul b (sub one (elem t2 expV (fneg a)))
  | 0x34 => mul b a
  | 0x38 =>
    let t1 := elem t2 erfV (mul a 0x3F3504F3)
    let t3 := mul 0x3F000000 (add one t1)
    let t5 := mul 0xBF000000 (mul a a)
    let t7 := mul (elem t2 expV t5) 0x3ECC422A
    mul b (add t3 (mul a t7))
  | 0x39 =>
    let s := elem t2 sigmoidV a
    let t3 := add one (mul a (sub one s))
    mul b (mul s t3)
  | _ => 0

/-- A row reduction (R150, R191). -/
def rowReduce (t2 : Bool) (op : Nat) (xs : List Nat) : Nat :=
  if op = 0x28 then
    let v := treeReduce (fadd t2) (xs.map fun x => if t2 then flush fmtFP32 x else x)
    if fisNaN v then nanOf t2 fmtFP32 else v
  else
    let ys := if op = 0x2A then xs.map (· % 2 ^ 31) else xs
    match ys with
    | [] => 0
    | y :: r => if ys.any fisNaN then nanOf t2 fmtFP32
      else r.foldl (fmax t2) (if t2 then flush fmtFP32 y else y)

/-- Does an opcode count its non-finite results (R194, R203)? -/
def isDerivative (op : Nat) : Bool := decide (0x30 ≤ op) && decide (op ≤ 0x39)

/-- Run a VEC_OP entry of R190 on a Hoop. -/
def State.runVecOp (s : State) (h : Nat) (w : WorkEnv) (d : List Byte) : State :=
  let op := leAt d 0 1
  let b1 := leAt d 1 1
  let rows := bits (leAt d 4 4) 19 0
  let n := bits (leAt d 8 4) 19 0
  let reg (o : Nat) : Nat := sramBase h + bits (leAt d o 4) 27 0
  let esz := if bit b1 6 then 2 else 4
  let step (s : State) (r : Nat) : State :=
    if w.skips d r then s else
    let a := (readWords s (reg 12 + esz * r * n) esz n).map fun x => if esz = 2 then x * 2 ^ 16 else x
    if 0x28 ≤ op && op ≤ 0x2A then s.writeMem (reg 24 + 4 * r) (leBytes 4 (rowReduce w.t2 op a))
    else
      let b := if bit b1 4 then List.replicate n (leNat (s.readMem (reg 16 + 4 * r) 4))
        else readWords s (reg 16 + 4 * r * n) 4 n
      let c := if bit b1 5 then List.replicate n (leNat (s.readMem (reg 20 + 4 * r) 4))
        else readWords s (reg 20 + 4 * r * n) 4 n
      let out := (a.zip (b.zip c)).map fun p => vecElem w.t2 op (b1 % 16) p.1 p.2.1 p.2.2
      let s := s.writeMem (reg 24 + 4 * r * n) (out.flatMap (leBytes 4))
      if isDerivative op then s.inc (.vec h) F.VEC_DRV_NONFIN_COUNT (out.filter fun x => !fisFinite x).length else s
  (List.range rows).foldl step s

/-! ### Drop-out (R198 to R200) -/

def State.runDropout (s : State) (h : Nat) (w : WorkEnv) (d : List Byte) : State :=
  let order := bit (leAt d 1 1) 0
  let rows := bits (leAt d 4 4) 19 0
  let n := bits (leAt d 8 4) 19 0
  let base := bits (leAt d 4 4) 31 20 + 4096 * bits (leAt d 8 4) 31 20
  let src := sramBase h + bits (leAt d 12 4) 27 0
  let dst := sramBase h + bits (leAt d 16 4) 27 0
  let drop := leAt d 20 4
  let k := leAt d 24 4
  let layer := leAt d 28 4
  let kept (r i : Nat) : Bool :=
    let e := base * 1024 + (if order then i * rows + r else r * n + i)
    decide (dropWord w.seed layer w.step w.mb e ≥ drop)
  let step (s : State) (r : Nat) : State :=
    if w.skips d r then s else
    let xs := readWords s (src + 4 * r * n) 4 n
    let ks := (List.range n).map (kept r)
    let out := (xs.zip ks).map fun p => fmul w.t2 p.1 (if p.2 then k else 0)
    (s.writeMem (dst + 4 * r * n) (out.flatMap (leBytes 4))).inc (.vec h) F.VEC_DROP_ZEROED_COUNT
      (ks.filter fun b => !b).length
  (List.range rows).foldl step s

/-- Run a VEC_OP slot's entry, by opcode (R159, R190, R198). -/
def State.runVxop (s : State) (h : Nat) (w : WorkEnv) (d : List Byte) : State :=
  let op := leAt d 0 1
  if 0x10 ≤ op && op ≤ 0x13 then s.runConversion h w d
  else if op = 0x40 then s.runDropout h w d
  else s.runVecOp h w d

end Sys2Proof.Machine
end

