-- ==== Sys2Proof/Machine/Arrays.lean ====
section
/-! DEFINITION. Matrix arrays and transposing buffers: passes, the stationary buffers, the drain, tiles, and their errors
(R113 to R135, R143 to R147, R170 to R172, R179 to R186, R201, R202). -/

namespace Sys2Proof.Machine

/-! ### What a slot of the running step works with -/

/-- Micro-batch of a slot that belongs to none (R81). -/
def noMb : Nat := 0x7FF

/-- The environment of a slot's work (R92, R93, R154). -/
def State.envOf (s : State) (p : Pricking) (r : Run) (mb : Nat) : WorkEnv :=
  { t2 := s.t2, seed := r.q.seed, step := r.q.step, mb := mb
    len := if mb = noMb then 1 else r.q.lens.getD mb 0
    maxLen := if mb = noMb then 1 else p.im.maxLen mb }

/-- Is index i of a slot's work beyond the actual length of its micro-batch (R93)? -/
def State.slotSkips (s : State) (p : Pricking) (die slot : Nat) (d : List Byte) (i : Nat) : Bool :=
  match s.run, p.slot die slot with
  | some r, some e => (s.envOf p r e.mb).skips d i
  | _, _ => false

/-- Does the work of n steps of a descriptor lie wholly beyond the actual length of a micro-batch (R93)? -/
def Run.beyond (r : Run) (p : Pricking) (mb : Nat) (d : List Byte) (n : Nat) : Bool :=
  let len := r.q.lens.getD mb 0
  mb != noMb && (len == 0 || (decide (len < p.im.maxLen mb) && n != 0
    && (List.range n).all fun i => Config.beyond d len (p.im.maxLen mb) i))

/-- The work of a micro-batch of length 0 lies wholly beyond it (R93). -/
def WorkEnv.none (w : WorkEnv) : Bool := w.len == 0

/-! ### A pass descriptor (R117) -/

def passFmtS (d : List Byte) : Nat := bits (leAt d 0 4) 3 0
def passFmtM (d : List Byte) : Nat := bits (leAt d 0 4) 7 4
def passDrainOp (d : List Byte) : Nat := bits (leAt d 0 4) 9 8
def passBias (d : List Byte) : Bool := bit (leAt d 0 4) 10
def passSwap (d : List Byte) : Bool := bit (leAt d 0 4) 11
def passSrc (d : List Byte) : Nat := bits (leAt d 0 4) 13 12
def passOutFmt (d : List Byte) : Nat := bits (leAt d 0 4) 15 14
def passV (d : List Byte) : Nat := bits (leAt d 4 4) 12 0
def passRow (d : List Byte) : Nat := bits (leAt d 4 4) 27 16
def passK (d : List Byte) : Nat := bits (leAt d 8 4) 10 0
def passN (d : List Byte) : Nat := bits (leAt d 8 4) 24 16
def passStream (d : List Byte) : Nat := bits (leAt d 12 4) 16 0
def passOut (d : List Byte) : Nat := bits (leAt d 16 4) 27 0
def passStride (d : List Byte) : Nat := bits (leAt d 20 4) 19 0
def passBiasSram (d : List Byte) : Nat := bits (leAt d 24 4) 27 0
def passStat (d : List Byte) : Nat := bits (leAt d 28 4) 16 0
def passScale (d : List Byte) : Nat := leAt d 32 8

/-- INIT_OUT and ACC_OUT write the row to SRAM; INIT_HOLD and INIT_OUT start it (R113). -/
def passWrites (d : List Byte) : Bool := decide (2 ≤ passDrainOp d)
def passInits (d : List Byte) : Bool := passDrainOp d % 2 == 0

/-! ### Transposing buffers (R179 to R186, R202) -/

def State.xpb (s : State) (k : Nat) : XpbBuf := tget {} s.xpbs k
def State.setXpb (s : State) (k : Nat) (u : XpbBuf) : State := { s with xpbs := tput {} s.xpbs k u }

def XpbBuf.half (u : XpbBuf) (h : Bool) : XpbHalf := if h then u.h1 else u.h0
def XpbBuf.setHalf (u : XpbBuf) (h : Bool) (x : XpbHalf) : XpbBuf := if h then { u with h1 := x } else { u with h0 := x }

/-- HALF0 and HALF1 of XPB_STATUS_b: 0 empty, 1 loading, 2 full, 3 being read. -/
def xpbHalfFld (b : Nat) (h : Bool) : Fld := if h then F.XPB_STATUS_HALF1 b else F.XPB_STATUS_HALF0 b

def State.xpbState (s : State) (k : Nat) (h : Bool) : Nat := s.g (.xpb (k / 2)) (xpbHalfFld (k % 2) h)
def State.xpbNext (s : State) (k : Nat) : Bool := s.gb (.xpb (k / 2)) (F.XPB_STATUS_NEXT (k % 2))

/-- PTR, USES_LEFT and the widths as the buffer holds them. -/
def State.xpbSync (s : State) (k : Nat) : State :=
  let b := Blk.xpb (k / 2)
  let u := s.xpb k
  let x := u.half (s.xpbNext k)
  let s := (s.p b (F.XPB_STATUS_PTR (k % 2)) x.ptr).p b (F.XPB_STATUS_USES_LEFT (k % 2)) x.uses
  (s.pb b (F.XPB_STATUS_W16_0 (k % 2)) u.h0.w16).pb b (F.XPB_STATUS_W16_1 (k % 2)) u.h1.w16

/-- Element (row, column) of a tile, in the width of the half; rows and bytes not loaded are zero. -/
def XpbHalf.elem (x : XpbHalf) (r c : Nat) : List Byte :=
  let row := x.rows.getD r []
  if x.w16 then [row.getD (2 * c) 0, row.getD (2 * c + 1) 0] else [row.getD c 0]

/-- Vector j of a tile (R179). -/
def XpbHalf.vector (x : XpbHalf) (j : Nat) : List Byte :=
  if x.w16 then (List.range 256).flatMap fun i => x.elem (256 * (j / 512) + i) (j % 512)
  else (List.range 512).flatMap fun i => x.elem i j

/-- A reader takes the next half (R202). -/
def State.xpbTake (s : State) (k : Nat) : State := s.p (.xpb (k / 2)) (xpbHalfFld (k % 2) (s.xpbNext k)) 3

/-- One read of the next half is over: after USES reads the half empties and the other half comes next (R183). -/
def State.xpbRead (s : State) (k ptr : Nat) : State :=
  let b := Blk.xpb (k / 2)
  let h := s.xpbNext k
  let u := s.xpb k
  let x := u.half h
  if x.uses ≤ 1 then
    (((s.setXpb k (u.setHalf h {})).p b (xpbHalfFld (k % 2) h) 0).pb b (F.XPB_STATUS_NEXT (k % 2)) (!h)).xpbSync k
  else
    ((s.setXpb k (u.setHalf h { x with uses := x.uses - 1, ptr := ptr })).p b (xpbHalfFld (k % 2) h) 2).xpbSync k

/-- An error of a transposing buffer: its register, its event and its snag (R201, R202). -/
def State.xpbErr (s : State) (k code slot : Nat) : State :=
  let b := Blk.xpb (k / 2)
  let s := (s.p b (F.XPB_ERR_CODE (k % 2)) code).p b (F.XPB_ERR_SLOT (k % 2)) slot
  ((s.line (k / 2) (35 + k % 2)).unitErr b (k % 2) 2 code slot).raiseVoid (k / 2) 5

/-- Source regions of a load. -/
def xpbRegions (hoop : Nat) (d : List Byte) : List (Nat × Nat) :=
  (List.range (bits (leAt d 4 4) 9 0)).map fun r =>
    (sramBase hoop + bits (leAt d 12 4) 27 0 + r * bits (leAt d 16 4) 19 0, bits (leAt d 8 4) 10 0)

/-- The head of a buffer's loads begins: into an empty half at once, else held (R182). -/
def State.xpbStart (s : State) (k slot vx : Nat) : State :=
  let u := s.xpb k
  let free := s.xpbState k u.loadHalf == 0
  let s := s.setXpb k { u with load := some (slot, vx), held := !free, since := s.grid.time }
  if free then s.p (.xpb (k / 2)) (xpbHalfFld (k % 2) u.loadHalf) 1 else s

/-- An XPB_LOAD slot is dispatched (R182). -/
def State.xpbDispatch (s : State) (k slot vx : Nat) : State :=
  let u := s.xpb k
  if u.load.isSome then s.setXpb k { u with waiting := u.waiting ++ [(slot, vx)] } else s.xpbStart k slot vx

/-- The load is over, landed or abandoned; the next one waiting begins. -/
def State.xpbLoadEnd (s : State) (k : Nat) : State :=
  let u := s.xpb k
  match u.waiting with
  | [] => s.setXpb k { u with load := none, held := false }
  | x :: r => (s.setXpb k { u with load := none, held := false, waiting := r }).xpbStart k x.1 x.2

/-- A load still held at its deadline is abandoned; the fabric cycles that it was held are counted (R182, R201). -/
def State.xpbGiveUp (s : State) (k : Nat) : State :=
  let u := s.xpb k
  match u.load with
  | some (slot, _) =>
    if !u.held then s
    else
      let cycles := ((s.grid.time + 2 ^ 64 - u.since) % 2 ^ 64) * 9 / (5 * 2 ^ 16)
      ((s.inc (.xpb (k / 2)) (F.XPB_HOLD_CYCLES (k % 2)) cycles).xpbLoadEnd k).xpbErr k 3 slot
  | none => s

/-- The last row of a tile is written (R182); rows beyond the actual length of the micro-batch are not loaded and stay zero
(R93, log entry 12, DESIGN CHOICE). -/
def State.xpbComplete (s : State) (k : Nat) : State :=
  let u := s.xpb k
  let b := Blk.xpb (k / 2)
  match u.load, s.img with
  | some (slot, vx), some p =>
    if u.held then s
    else
      let d := p.vxop vx
      let (s, ok) := s.unitReads (xpbRegions (k / 2) d) 0
      if !ok then (s.p b (xpbHalfFld (k % 2) u.loadHalf) 0).xpbLoadEnd k
      else
        let regs := xpbRegions (k / 2) d
        let rows := (regs.zip (List.range regs.length)).map fun r =>
          if s.slotSkips p (k / 2) slot d r.2 then [] else s.readMem r.1.1 r.1.2
        let x : XpbHalf := ⟨rows, bit (leAt d 1 1) 0, leAt d 2 1, bits (leAt d 8 4) 25 16⟩
        let s := s.setXpb k { u.setHalf u.loadHalf x with loadHalf := !u.loadHalf }
        let s := (s.p b (xpbHalfFld (k % 2) u.loadHalf) 2).inc b (F.XPB_LOADS_COUNT (k % 2)) 1
        let s := (s.xpbSync k).count (k / 2) 2 5 ((rows.map (·.length)).foldl (· + ·) 0)
        (s.xpbLoadEnd k).slotComplete (k / 2) slot 0
  | _, _ => s

/-- An XPB_STORE takes the next half; one that is not full is an error (R186, R201). Answers whether it could. -/
def State.xpbStoreBegin (s : State) (k slot : Nat) : State × Bool :=
  if s.xpbState k (s.xpbNext k) < 2 then (s.xpbErr k 2 slot, false) else (s.xpbTake k, true)

/-- An XPB_STORE writes the next half's tile with rows and columns exchanged (R184): output rows beyond the actual length of
its micro-batch are left out (R93). -/
def State.xpbStore (s : State) (k slot : Nat) (p : Pricking) (d : List Byte) : State :=
  let hoop := k / 2
  let x := (s.xpb k).half (s.xpbNext k)
  let rows := bits (leAt d 4 4) 9 0
  let base := sramBase hoop + bits (leAt d 12 4) 27 0
  let n := bits (leAt d 8 4) 10 0
  let js := (List.range n).filter fun j => !s.slotSkips p hoop slot d j
  let s := js.foldl (fun (s : State) j =>
    s.writeMem (base + j * bits (leAt d 16 4) 19 0) ((List.range rows).flatMap fun r => x.elem r j)) s
  let s := s.count hoop 2 6 (js.length * rows * if x.w16 then 2 else 1)
  (s.inc (.xpb hoop) (F.XPB_STORES_COUNT (k % 2)) 1).xpbRead k x.ptr

/-! ### Array state -/

def State.arrU (s : State) (a : Nat) : ArrayUnit := tget {} s.arrays a
def State.arrMod (s : State) (a : Nat) (f : ArrayUnit → ArrayUnit) : State := { s with arrays := tmod {} s.arrays a f }

def ArrayUnit.active (u : ArrayUnit) : Option StatBuf := if u.act then u.buf1 else u.buf0
def ArrayUnit.inactive (u : ArrayUnit) : Option StatBuf := if u.act then u.buf0 else u.buf1

/-- Does the array hold (R120): has the pass at its head, a chained one, entered ahead of its own slot's start? -/
def State.holds (s : State) (a : Nat) : Bool :=
  match (s.arrU a).passes, s.run with
  | q :: _, some r => q.chain && q.entered && !(tget slotNone r.slots (slotKey (a / 2) q.slot)).disp
  | _, _ => false

/-- BUSY, HOLD and CUR_SLOT in line with the passes inside (R135). -/
def State.arrSync (s : State) (a : Nat) : State :=
  let u := s.arrU a
  let s := (s.pb (.arr a) F.ARR_STATUS_BUSY (u.passes.any fun q => q.begun)).pb (.arr a) F.ARR_STATUS_HOLD (s.holds a)
  match u.passes.find? fun q => q.entered with
  | none => s.p (.arr a) F.ARR_CUR_SLOT_VALID 0
  | some q => (s.p (.arr a) F.ARR_CUR_SLOT_SLOT q.slot).p (.arr a) F.ARR_CUR_SLOT_VALID 1

/-- An array abandons what is inside it (R133); a pass that waits outside stays. The freezes of the abandoned passes have
been counted as they came, cycle by cycle (R124). -/
def State.arrAbandon (s : State) (a : Nat) : State :=
  ((s.arrFreezes a).arrMod a fun u => { u with passes := u.passes.filter fun (q : PassRun) => !q.begun }).arrSync a

/-- An error of an array: registers, event, the pass abandoned; a contained one raises INPUT_MISSING (R134, R135). -/
def State.arrErr (s : State) (a code slot : Nat) : State :=
  let b := Blk.arr a
  let s := ((s.p b F.ARR_ERR_CODE code).p b F.ARR_ERR_SLOT slot).p2 b F.ARR_ERR_KNOT_LO_KNOT_LO
    F.ARR_ERR_KNOT_HI_KNOT_HI s.knotNow
  let s := (s.line (a / 2) (32 + a % 2)).unitErr b a (if code = 8 then 3 else 2) code slot
  let s := s.arrAbandon a
  if code = 8 then s.fatal (a / 2) 0x0B (b.index * 256 + 8) else s.raiseVoid (a / 2) 5

/-- Slot of the pass that an array-level error names: the one inside, else none. -/
def State.arrSlot (s : State) (a : Nat) : Nat := match (s.arrU a).passes with | q :: _ => q.slot | [] => 0

/-! ### A pass begins and enters (R119, R120, R126 to R130) -/

/-- Is slot k of its Hoop an ARRAY_PASS of array a? -/
def Pricking.isPass (p : Pricking) (a k : Nat) : Bool :=
  match p.slot (a / 2) k with
  | some e => e.action == 1 && e.unit % 2 == a % 2
  | none => false

/-- The pass slot of an array before slot i, and the one after it. -/
def Pricking.passBefore (p : Pricking) (a i : Nat) : Option Nat := ((List.range i).filter (p.isPass a)).getLast?
def Pricking.passAfter (p : Pricking) (a i : Nat) : Option Nat :=
  (List.range (p.slots.getD (a / 2) []).length).find? fun k => decide (i < k) && p.isPass a k

/-- Has the pass of a slot work in this step (R93, R133)? -/
def Run.passWorks (r : Run) (p : Pricking) (e : SlotEntry) : Bool :=
  let d := p.pass e.operand
  !r.voided && passV d != 0 && !r.beyond p e.mb d (passV d)

/-- The next pass of a chain takes up its feed once the one before it has entered, ahead of its own slot's start (R120). -/
def State.chainEnter (s : State) (a : Nat) : State :=
  let u := s.arrU a
  match s.img, s.run, u.passes.getLast? with
  | some p, some r, some q =>
    match p.passAfter a q.slot with
    | none => s
    | some i => match p.slot (a / 2) i with
      | none => s
      | some e =>
        if u.passes.all (·.entered) && e.chain && r.passWorks p e && !(tget slotNone r.slots (slotKey (a / 2) i)).disp then
          s.arrMod a fun u => { u with passes := u.passes ++ [⟨i, e.operand, e.mb, true, true, false, s.grid.time, [], [], none⟩] }
        else s
  | _, _, _ => s

/-- The pass of an array that comes just before slot i is inside it, so that a chained pass has a feed to continue (R120). -/
def State.feedsOn (s : State) (a i : Nat) : Bool :=
  match s.img, (s.arrU a).passes.getLast? with
  | some p, some q => p.passBefore a i == some q.slot
  | _, _ => false

/-- An ARRAY_PASS slot is dispatched. A chained pass may have entered already; one whose predecessor left no feed runs as a
head pass (R120). A head pass waits for an occupied array (R119). -/
def State.passDispatch (s : State) (a slot pass mb : Nat) (chain : Bool) : State :=
  let u := s.arrU a
  match u.passes.find? fun (q : PassRun) => q.slot == slot with
  | some q => (s.slotActual (a / 2) slot q.actual).arrSync a
  | none =>
    let chained := chain && s.feedsOn a slot
    let q : PassRun := ⟨slot, pass, mb, chained, chained || u.passes.isEmpty, false, s.grid.time, [], [], none⟩
    let s := s.arrMod a fun u => { u with passes := u.passes ++ [q] }
    (if q.begun && !chained then s.slotActual (a / 2) slot (s.grid.time + nsT 16) else s).arrSync a

/-- Replace the pass of a slot. -/
def State.setPass (s : State) (a : Nat) (q : PassRun) : State :=
  s.arrMod a fun u => { u with passes := u.passes.map fun (x : PassRun) => if x.slot = q.slot then q else x }

/-- The tile record matches (R130): with SWAP the inactive buffer holds this pass's STAT_LOAD of the step, else the
active buffer holds a tile of the step. -/
def ArrayUnit.tileFor (u : ArrayUnit) (d : List Byte) (step : Nat) : Option (List Byte) :=
  match if passSwap d then u.inactive else u.active with
  | some b => if b.complete && b.step == step && (!passSwap d || b.stream == passStat d) then some b.bytes else none
  | none => none

/-- All vectors of a pass of array a have entered: its read of a transposing buffer, if it has one, is over (R183). -/
def State.readEnd (s : State) (a : Nat) (q : PassRun) : State :=
  match q.reads with
  | some (k, ptr) => (s.arrMod a fun u => { u with passes := u.passes.map fun (x : PassRun) =>
      if x.slot = q.slot then { x with reads := none } else x }).xpbRead k ptr
  | none => s

/-- The reads of the passes inside array a are over. -/
def State.arrReadsEnd (s : State) (a : Nat) : State := (s.arrU a).passes.foldl (fun (s : State) q => s.readEnd a q) s

/-- The reads of buffer k by the passes of either array of its Hoop are over. -/
def State.readsEnd (s : State) (k : Nat) : State := s.forN 2 fun i s =>
  let a := 2 * (k / 2) + i
  ((s.arrU a).passes.filter fun (q : PassRun) => q.reads.any fun x => x.1 == k).foldl (fun (s : State) q => s.readEnd a q) s

/-- Vector 0 of the pass that is next to enter is due: it enters, or the pass is abandoned (R126, R130, R186). -/
def State.vectorDue (s : State) (a : Nat) (present : Bool) : State :=
  match (s.arrU a).passes.find? (fun q => !q.entered), s.img, s.run with
  | some q, some p, some r =>
    let d := p.pass q.pass
    let hoop := a / 2
    let k := 2 * hoop + (passSrc d - 1)
    if !q.begun then s
    else
      let s := s.arrReadsEnd a
      let s := if passK d ≠ 0 && passSrc d ≠ 0 then s.readsEnd k else s
      let tile := if passK d = 0 then some [] else (s.arrU a).tileFor d r.q.step
      match tile with
      | none => s.arrErr a 1 q.slot
      | some img =>
        if passK d ≠ 0 && passSrc d ≠ 0 && s.xpbState k (s.xpbNext k) < 2 then
          (s.arrAbandon a).xpbErr k 2 q.slot
        else if passK d ≠ 0 && passSrc d = 0 && !present then
          (if q.chain then s else s.arrErr a 2 q.slot)
        else
          let (s, feed, reads) := if passK d = 0 || passSrc d = 0 then (s, [], none)
            else
              let x := (s.xpb k).half (s.xpbNext k)
              let fs := (List.range (passV d)).map fun v => x.vector ((x.ptr + v) % 1024)
              let s := (s.inc (.xpb hoop) (F.XPB_VECTORS_COUNT (k % 2)) (passV d)).count hoop 2 3 (passV d)
              (s.xpbTake k, fs, some (k, (x.ptr + passV d) % 1024))
          let s := s.setPass a { q with entered := true, tile := img, feed := feed, reads := reads, actual := s.grid.time }
          let s := if q.chain then s.slotActual hoop q.slot s.grid.time else s
          let s := if passSwap d then
              s.arrMod a fun u => { u with act := !u.act, leaving := true }
            else s
          (s.count hoop (a % 2) 7 (passV d)).arrSync a
  | _, _, _ => s

/-- VECTOR0_ENTRY: of the pass at the head of the array, or of the chained pass that follows it (R120, R130). -/
def State.vector0 (s : State) (a : Nat) (present : Bool) : State := (s.chainEnter a).vectorDue a present

/-! ### The drain and the end of a pass (R113, R131, R132, R143 to R147, R170 to R172) -/

/-- Scale factors of a pass that hold for a whole row, and the per-column codes (R170). -/
def passSigma (s : State) (hoop : Nat) (d : List Byte) (v : Nat) (col : Option Nat) : FVal :=
  let c := passScale d
  let two (code : Nat) : FVal := if code = 255 then .nan else .fin false 1 ((code : Int) - 127)
  let ts (on idx : Nat) (acc : FVal) : FVal := if bit c on then fmulV acc (two (tget {} s.scale (bits c (idx + 10) idx)).d) else acc
  let x := ts 1 20 (ts 0 8 (.fin false 1 0))
  let x := match col with | some n => fmulV x (two n) | none => x
  if bit c 3 then
    let e := bits c 43 32 + if bit c 4 then 0 else v
    fmulV x (fdec fmtFP32 (s.rd ((Blk.vec hoop).base + 0x4000 + 8 * e)).toNat)
  else x

/-- Channel entry of an integer rescale. -/
def passChan (s : State) (hoop : Nat) (d : List Byte) (v : Nat) : ChanEntry :=
  let c := passScale d
  let e := bits c 43 32 + if bit c 4 then 0 else v
  ⟨(s.rd ((Blk.vec hoop).base + 0x4000 + 8 * e)).toNat, (s.rd ((Blk.vec hoop).base + 0x4004 + 8 * e)).toNat⟩

/-- The bytes of one result row and how many of its values saturated. -/
def passRowOut (s : State) (hoop : Nat) (t2 : Bool) (d : List Byte) (v : Nat) (cols : List Byte) (row : List DVal) :
    List Byte × Nat :=
  let c := passScale d
  if passOutFmt d = 2 then
    let outs := row.map fun x =>
      let sum : Int := x.s / (2 ^ 46 : Int)
      if c = 0 then clampBits 32 sum else rescale sum (passChan s hoop d v) (bits c 7 6)
    (outs.flatMap fun o => leBytes 4 (int32Code o.1), (outs.filter (·.2)).length)
  else
    let bf := passOutFmt d == 1
    let one (n : Nat) (x : DVal) : List Byte :=
      let sg := passSigma s hoop d v (if bit c 2 then some ((cols.getD n 0).toNat) else none)
      leBytes (if bf then 2 else 4) (finalFloat t2 (pairExact (passFmtS d)) (if bf then fmtBF16 else fmtFP32) sg x)
    ((row.zip (List.range row.length)).flatMap fun p => one p.2 p.1, 0)

/-- Regions of SRAM a pass reads besides its feed: the bias, the per-column scales (R116, R170). -/
def passRegions (hoop : Nat) (d : List Byte) : List (Nat × Nat) :=
  (if passBias d then [(sramBase hoop + passBiasSram d, 4 * passV d)] else [])
    ++ (if bit (passScale d) 2 then [(sramBase hoop + bits (passScale d) 62 44 * 512, nMax (passFmtS d))] else [])

/-- First row of its arm that pass slot i takes: the passes that read one arm take its rows one after another (R208; log
entry 5). -/
def Pricking.feedRow (p : Pricking) (die stream i : Nat) : Nat :=
  let st := p.starts.getD die []
  let arm (k : Nat) : Option Nat := p.armSlot die stream (st.getD k (0, 0))
  ((List.range i).filter fun k => match p.slot die k with
    | some e =>
      let d := p.pass e.operand
      e.action == 1 && passK d != 0 && passSrc d == 0 && passStream d == stream && arm k == arm i
    | none => false).foldl (fun n k => match p.slot die k with
    | some e => n + passV (p.pass e.operand)
    | none => n) 0

/-- The vectors of a pass: captured from a transposing buffer, or the rows its stream arm has landed; none when some are
still to land. -/
def State.passFeed (s : State) (p : Pricking) (hoop : Nat) (q : PassRun) (d : List Byte) : Option (List (List Byte)) :=
  if passK d = 0 then some (List.replicate (passV d) [])
  else if passSrc d ≠ 0 then some q.feed
  else match s.consumerArm p hoop (passStream d) q.slot with
    | none => none
    | some arm => (List.range (passV d)).mapM fun v => s.armRow arm (p.feedRow hoop (passStream d) q.slot + v)

/-- Buffer regions of a stream feed, for the words that may be in error. -/
def State.feedRegions (s : State) (p : Pricking) (hoop : Nat) (q : PassRun) (d : List Byte) : List (Nat × Nat) :=
  if passK d = 0 || passSrc d ≠ 0 then []
  else match s.consumerArm p hoop (passStream d) q.slot with
    | none => []
    | some arm =>
      let r := p.feedRow hoop (passStream d) q.slot
      (((List.range (passV d)).map (r + ·)).filter fun v => decide (arm.taken.length ≤ v)).map fun v =>
        (arm.bufRow v, descRowBytes arm.desc)

/-- One vector of a pass reaches the drain: its drain row, and the result row when the pass writes one. -/
def State.drainVector (s : State) (a hoop : Nat) (w : WorkEnv) (d : List Byte) (tile : Tile) (cols : List Byte)
    (v : Nat) (vec : List Byte) : State :=
  if w.skips d v then s
  else
    let k := passK d
    let codes := opCodes (passFmtM d) k vec
    let sM := if passFmtM d = 4 then ((vec.drop 512).take (k / 32)).map BitVec.toNat else []
    let beta := if passBias d then leNat (s.readMem (sramBase hoop + passBiasSram d + 4 * v) 4) else 0
    let old := tget [] (s.arrU a).drain (passRow d + v)
    let row := (List.range (passN d)).map fun n =>
      drainVal w.t2 (passInits d) (passBias d) beta (passFmtS d) (passFmtM d) (old.getD n {}) (tile.cols.getD n [])
        codes (tile.scales.getD n []) sM
    let s := s.arrMod a fun u => { u with drain := tput [] u.drain (passRow d + v) (row ++ old.drop (passN d)) }
    if !passWrites d then s
    else
      let (bs, sat) := passRowOut s hoop w.t2 d v cols row
      let s := (s.writeMem (sramBase hoop + passOut d + v * passStride d) bs).count hoop 2 6 bs.length
      s.inc (.arr a) F.ARR_SAT_COUNT sat

/-- The vectors of a pass that reads a stream have landed by its end (R116, R210, log entry 4, DEDUCED). -/
def State.passLand (s : State) (p : Pricking) (hoop : Nat) (q : PassRun) (d : List Byte) : State :=
  if passK d = 0 || passSrc d ≠ 0 then s
  else match s.consumerArm p hoop (passStream d) q.slot with
    | none => s
    | some a => (s.landAhead a ((p.feedRow hoop (passStream d) q.slot + passV d) * descRowBytes a.desc)).1

/-- The swap marker has passed the last stitch: the buffer left behind is free, ACT_BUF shows the new one, and writes of
the stationary port that were held land (R127, R130, R135). -/
def State.statRelease (s : State) (a : Nat) : State :=
  let u := s.arrU a
  if !u.leaving then s
  else
    let s := s.arrMod a fun u =>
      let v := { u with leaving := false, held := [] }
      if u.act then { v with buf0 := none } else { v with buf1 := none }
    u.held.foldl (fun s h =>
      match s.arms.find? fun (x : Arm) => x.die == a / 2 && x.bobbin == h.bobbin && x.slot == h.slot && x.stream != 0x1FFFF
          && x.phase == ArmPhase.live with
      | none => s
      | some x => (s.statLand x a).armEnd x) (s.pb (.arr a) F.ARR_STATUS_ACT_BUF u.act)

/-- A pass drains and its slot completes (R119, R135).
Readings: log entry 46, DEDUCED. -/
def State.passEnd (s : State) (a freezeFeed freezeDrain hold : Nat) : State :=
  match (s.arrU a).passes, s.img, s.run with
  | q :: rest, some p, some r =>
    let hoop := a / 2
    let d := p.pass q.pass
    let w := s.envOf p r q.mb
    let ends := q.entered && (tget slotNone r.slots (slotKey hoop q.slot)).disp
    let s := if ends then s.passLand p hoop q d else s
    if !ends then s
    else match s.passFeed p hoop q d with
      | none => s
      | some feed =>
        let (s, ok) := s.unitReads (passRegions hoop d ++ s.feedRegions p hoop q d) 0
        let s := (s.readEnd a q).arrMod a fun u => { u with passes := rest }
        let s := s.statRelease a
        let s := (s.inc (.arr a) F.ARR_FRZ_FEED_CYCLES freezeFeed).inc (.arr a) F.ARR_FRZ_DRAIN_CYCLES freezeDrain
        let s := s.inc (.arr a) F.ARR_FRZ_HOLD_CYCLES hold
        let s := (s.count hoop (a % 2) 3 freezeFeed).count hoop (a % 2) 4 freezeDrain
        if !ok then s.arrSync a
        else
          let tile := tileOf (passFmtS d) (passK d) (passN d) q.tile
          let cols := if bit (passScale d) 2 then
              s.readMem (sramBase hoop + bits (passScale d) 62 44 * 512) (nMax (passFmtS d)) else []
          let s := (feed.zip (List.range feed.length)).foldl (fun s x => s.drainVector a hoop w d tile cols x.2 x.1) s
          let s := (s.inc (.arr a) F.ARR_PASS_DONE_COUNT 1).count hoop (a % 2) 8 1
          let s := s.count hoop 2 5 ((feed.map (·.length)).foldl (· + ·) 0 + if passBias d then 4 * passV d else 0)
          (s.arrSync a).slotComplete hoop q.slot (freezeFeed + freezeDrain + hold) |>.settleUe .unit
  | _, _, _ => s

/-- Arrays, transposing buffers at the first knot of a step (R128, R131, R186). -/
def State.arraysFirstKnot (s : State) : State :=
  let s := { s with
    arrays := s.arrays.map fun (x : Nat × ArrayUnit) =>
      (x.1, { x.2 with passes := [], act := true, leaving := false, buf0 := none, buf1 := none, drain := [], held := [] })
    xpbs := [] }
  let s := s.forN 8 fun a s => (((s.p (.arr a) F.ARR_STATUS_EMPTY 0).p (.arr a) F.ARR_STATUS_ACT_BUF 1).p (.arr a)
    F.ARR_STATUS_BUSY 0).p (.arr a) F.ARR_CUR_SLOT_VALID 0
  s.forN 8 fun k s => s.wr ((Blk.xpb (k / 2)).base + 0x40 * (k % 2)) 0

/-! ### The commands of this chapter -/

/-- HEAD_PASS_DEFERRED_START: the array is idle and a waiting head pass starts its cycle 0 (R119). -/
def execHeadPassDeferredStart (array : ArrayId) (s : State) : Host.Outcome State Fault Refusal :=
  let a := array.val
  match (s.arrU a).passes with
  | q :: _ =>
    if q.begun then .next s
    else .next ((s.setPass a { q with begun := true, actual := s.grid.time }).slotActual (a / 2) q.slot s.grid.time |>.arrSync a)
  | [] => .next s

/-- VECTOR0_ENTRY (R126, R130). -/
def execVector0Entry (array : ArrayId) (present : Bool) (s : State) : Host.Outcome State Fault Refusal :=
  .next (s.vector0 array.val present)

/-- ARRAY_FREEZE_LIMIT: the freeze has counted its limit of cycles (R125). -/
def execArrayFreezeLimit (array : ArrayId) (drain : Bool) (s : State) : Host.Outcome State Fault Refusal :=
  let a := array.val
  let limit := s.g (.arr a) F.ARR_CTRL_FREEZE_LIMIT
  .next (if !(s.arrU a).passes.any (·.begun) then s
    else
      let s := if drain then (s.inc (.arr a) F.ARR_FRZ_DRAIN_CYCLES limit).count (a / 2) (a % 2) 4 limit
        else (s.inc (.arr a) F.ARR_FRZ_FEED_CYCLES limit).count (a / 2) (a % 2) 3 limit
      s.arrErr a (if drain then 4 else 3) (s.arrSlot a))

/-- PASS_COMPLETE (R119). -/
def execPassComplete (array : ArrayId) (freezeFeed freezeDrain hold : BitVec 32) (s : State) :
    Host.Outcome State Fault Refusal :=
  .next (s.passEnd array.val freezeFeed.toNat freezeDrain.toNat hold.toNat)

/-- STAT_WRITE_RELEASE (R130). -/
def execStatWriteRelease (array : ArrayId) (s : State) : Host.Outcome State Fault Refusal :=
  .next (s.statRelease array.val)

/-- ARRAY_ERROR (R134). A corrected drain row is reported with CODE 0 and class 1 (log entry 51, DEDUCED). -/
def execArrayError (array : ArrayId) (fault : ArrayFault) (s : State) : Host.Outcome State Fault Refusal :=
  let a := array.val
  .next (match fault with
    | .drainSingle =>
      ((s.inc (.arr a) F.ARR_ECC_CORRECTED 1).count (a / 2) (a % 2) 10 1).unitErr (.arr a) a 1 0 (s.arrSlot a)
    | .stationaryParity => s.arrErr a 5 (s.arrSlot a)
    | .drainDouble => s.arrErr a 6 (s.arrSlot a)
    | .portParity => s.arrErr a 7 (s.arrSlot a)
    | .drainMismatch => s.arrErr a 8 (s.arrSlot a))

/-- XPB_LOAD_RELEASE: the half that a held load aims at has emptied, since every vector of its last reader has entered; the
hold is counted (R182, R185). -/
def execXpbLoadRelease (hoop : Hoop) (buffer : Bool) (held : BitVec 32) (s : State) : Host.Outcome State Fault Refusal :=
  let k := 2 * hoop.val + if buffer then 1 else 0
  if !(s.xpb k).held then .next s
  else
    let t := s.readsEnd k
    let u := t.xpb k
    if t.xpbState k u.loadHalf ≠ 0 then .next s
    else
      let t := (t.setXpb k { u with held := false }).p (.xpb hoop.val) (xpbHalfFld (k % 2) u.loadHalf) 1
      .next (t.inc (.xpb hoop.val) (F.XPB_HOLD_CYCLES (k % 2)) held.toNat)

/-- XPB_LOAD_COMPLETE (R182). -/
def execXpbLoadComplete (hoop : Hoop) (buffer : Bool) (s : State) : Host.Outcome State Fault Refusal :=
  .next (s.xpbComplete (2 * hoop.val + if buffer then 1 else 0))

/-- A parity error of a transposing buffer abandons its reader: a running store, or the pass that takes its vectors
(R201). -/
def State.xpbParity (s : State) (k : Nat) : State :=
  let key := 8 * (k / 2) + 3 + k % 2
  let a := ((List.range 2).map (2 * (k / 2) + ·)).find? fun a => (s.arrU a).passes.any fun q => q.reads.any (·.1 == k)
  match tget none s.units key, a with
  | some u, _ => { s with units := tput none s.units key none }.xpbErr k 1 u.slot
  | none, some a =>
    match (s.arrU a).passes.find? fun q => q.reads.any (·.1 == k) with
    | some q => (s.arrAbandon a).xpbErr k 1 q.slot
    | none => s
  | none, none => s.xpbErr k 1 0

/-- VEC_OP_ERROR: parity and mismatch of the vector unit, parity and a held load of the transposing buffers (R201). -/
def execVecOpError (hoop : Hoop) (fault : VecFault) (s : State) : Host.Outcome State Fault Refusal :=
  let h := hoop.val
  let b := Blk.vec h
  let slot := match tget none s.units (vecUnit h) with | some u => u.slot | none => 0
  let stop (s : State) : State :=
    ({ s with units := tput none s.units (vecUnit h) none }.p b F.VEC_OP_STATUS_BUSY 0).p b F.VEC_OP_SLOT_VALID 0
  let vec (code cls : Nat) : State :=
    let s := ((s.p b F.VEC_OP_ERR_CODE code).p b F.VEC_OP_ERR_SLOT slot).line h 34
    stop (s.unitErr b h cls code slot)
  let k (buffer : Bool) : Nat := 2 * h + if buffer then 1 else 0
  .next (match fault with
    | .vecParity => (vec 1 2).raiseVoid h 5
    | .vecMismatch => (vec 2 3).fatal h 0x0B (b.index * 256 + 2)
    | .xpbParity buffer => s.xpbParity (k buffer)
    | .xpbHeld buffer => s.xpbGiveUp (k buffer))

end Sys2Proof.Machine
end

