-- ==== Sys2Proof/Machine/Reduction.lean ====
section
/-! DEFINITION. Gradient reduction: the tree, trailers and digests, the three stages, the verdict and the digest ring
(R279 to R296). -/

namespace Sys2Proof.Machine

/-! ### The tree (R279 to R281) -/

/-- Depth of a job's tree: the least D with 2^D ≥ N. -/
def treeDepth (n : Nat) : Nat := Nat.log2 (2 * n - 1)

def nodeExists (n l j : Nat) : Bool := decide (j * 2 ^ l + 2 ^ (l - 1) < n)
def nodeHost (l j : Nat) : Nat := j * 2 ^ l + 2 ^ (l - 1) - 1

/-- Rank that holds the value of subtree (l, j). -/
def holder (n : Nat) : Nat → Nat → Nat
  | 0, j => j
  | l + 1, j => if nodeExists n (l + 1) j then nodeHost (l + 1) j else holder n l (2 * j)

/-- Where the value of subtree (l, j) is sent: host and level, or none. -/
def parentHost (n : Nat) : Nat → Nat → Nat → Option (Nat × Nat)
  | 0, _, _ => none
  | fuel + 1, l, j =>
    let j := j / 2
    let l := l + 1
    if l > treeDepth n then none
    else if nodeExists n l j then some (nodeHost l j, l) else parentHost n fuel l j

def parentOf (n l j : Nat) : Option (Nat × Nat) := parentHost n 17 l j

def trailingZeros : Nat → Nat → Nat
  | 0, _ => 0
  | f + 1, x => if x % 2 = 1 then 0 else trailingZeros f (x / 2) + 1

/-- The node a rank below N - 1 hosts (R280). -/
def nodeOf (n r : Nat) : Option (Nat × Nat) :=
  if r + 1 < n then
    let l := trailingZeros 17 (r + 1) + 1
    some (l, (r + 1) / 2 ^ l)
  else none

def rootHost (n : Nat) : Nat := holder n (treeDepth n) 0

/-- The rank that sends this one the reduced gradient (R281). -/
def downSrc (n r : Nat) : Option Nat :=
  if r = rootHost n then none
  else
    let odd := decide (r + 1 < n) && r % 2 == 1
    if odd then
      match nodeOf n r with
      | some (l, j) => (parentOf n l j).map fun p => p.1 - 1
      | none => none
    else if r + 2 < n then some (r + 1)
    else
      (if r + 1 = n then parentOf n 0 r else parentOf n 1 (r / 2)).map fun p => if p.2 = 1 then p.1 else p.1 - 1

/-- RED_TREE and RED_TREE_UP of both Shuttles (R296). -/
def State.treeRegs (s : State) (n r : Nat) : State :=
  let node := nodeOf n r
  let leaf := parentOf n 0 r
  let up := match node with | some (l, j) => parentOf n l j | none => none
  s.forN 2 fun k s =>
    let b := Blk.red k
    let s := (s.p b F.RED_TREE_LEVEL (match node with | some (l, _) => l | none => 0)).pb b F.RED_TREE_ROOT (r == rootHost n)
    let s := (s.p b F.RED_TREE_DOWN_SRC ((downSrc n r).getD 0)).pb b F.RED_TREE_DOWN_VALID (downSrc n r).isSome
    let s := s.p b F.RED_TREE_UP_LEAF_DEST (match leaf with | some p => p.1 | none => 0)
    let s := s.pb b F.RED_TREE_UP_LEAF_LOCAL (match leaf with | some p => p.1 == r | none => true)
    (s.p b F.RED_TREE_UP_NODE_DEST (match up with | some p => p.1 | none => 0)).pb b F.RED_TREE_UP_NODE_VALID up.isSome

/-! ### Buckets, blocks and trailers (R94, R282 to R284) -/

def Pricking.buckets (p : Pricking) : Nat := if p.im.secSize 13 = 0 then 0 else leAt p.im (p.im.secOff 13) 2
def Pricking.bucket (p : Pricking) (b : Nat) : List Byte := (p.im.drop (p.im.secOff 13 + 16 + 32 * b)).take 32

def bucketElems (e : List Byte) : Nat := leAt e 0 4
def bucketSrc (e : List Byte) : Nat := leAt e 8 8
def bucketDst (e : List Byte) : Nat := leAt e 16 8

/-- Payload bytes of a block, and the bytes of a block (R282). -/
def blockP (elems : Nat) : Nat := 64 * ceilDiv elems 16
def blockQ (elems : Nat) : Nat := blockP elems + 64

/-- The digest of a payload (R284). -/
def redDigest (step bucket elems : Nat) (payload : List Byte) : List Byte :=
  (shake256 (leBytes 4 step ++ leBytes 2 bucket ++ leBytes 4 elems ++ payload.take (4 * elems))).take 16

/-- The NF_ fields of a trailer: NONFIN, level, rank, element. -/
structure Nf where
  flag : Bool := false
  level : Nat := 0
  rank : Nat := 0
  elem : Nat := 0
deriving DecidableEq, Repr

/-- A trailer (R283). -/
def trailerBytes (digest : List Byte) (step knot elems bucket : Nat) (f : Nf) : List Byte :=
  digest ++ leBytes 4 step ++ leBytes 4 knot ++ leBytes 4 elems ++ leBytes 2 bucket ++ leBytes 1 (if f.flag then 1 else 0)
    ++ leBytes 1 f.level ++ leBytes 2 f.rank ++ leBytes 2 0 ++ leBytes 4 f.elem ++ List.replicate 24 0

def trailerNf (t : List Byte) : Nf := ⟨bit (leAt t 30 1) 0, leAt t 31 1, leAt t 32 2 % 2 ^ 15, leAt t 36 4 % 2 ^ 27⟩

/-- Fields of a received trailer as R287 checks them, but for the digest. -/
def trailerOk (t : List Byte) (step knot elems bucket : Nat) : Bool :=
  leAt t 16 4 == step && leAt t 20 4 == knot && leAt t 24 4 == elems && leAt t 28 2 == bucket
    && decide (leAt t 30 1 < 2) && decide (leAt t 32 2 < 2 ^ 15) && leAt t 34 2 == 0 && decide (leAt t 36 4 < 2 ^ 27)
    && leNat ((t.drop 40).take 24) == 0

/-- What a stage works with. -/
structure RedEnv where
  die : Nat
  slot : Nat
  bucket : Nat
  elems : Nat
  src : Nat
  step : Nat
  knot : Nat
  rank : Nat
  n : Nat
deriving DecidableEq, Repr

/-- What a stage reads of a block: payload and trailer, or the error that stops it. -/
inductive BlockRead where
  | ok (payload trailer : List Byte)
  | fault (va : Nat)
  | bad (dpa : Nat)
deriving DecidableEq, Repr

def State.readBlock (s : State) (e : RedEnv) (i : Nat) : BlockRead :=
  let va := e.src + i * blockQ e.elems
  match walkRange (s.tlbOf e.die) false va (blockQ e.elems) with
  | none => .fault va
  | some rs =>
    match s.badRuns rs 0 with
    | some b => .bad b.1
    | none => let bs := s.readRuns rs; .ok (bs.take (blockP e.elems)) (bs.drop (blockP e.elems))

/-- Write a block or a part of it. -/
def State.writeBlock (s : State) (e : RedEnv) (i off : Nat) (bs : List Byte) : State :=
  match walkRange (s.tlbOf e.die) true (e.src + i * blockQ e.elems + off) bs.length with
  | none => s.xlatFault e.die (e.src + i * blockQ e.elems + off) false
  | some rs => s.writeRuns rs bs

/-- An error of a reduction engine (R295). -/
def State.redErr (s : State) (die code slot : Nat) : State :=
  let b := Blk.red (die - 4)
  let s := ((s.p b F.RED_ERR_CODE code).p b F.RED_ERR_SLOT slot).line die 32
  s.unitErr b 0 (if code ≥ 5 then 3 else 2) code slot

/-- What a block that could not be read comes to (R247, R295). -/
def State.redStop (s : State) (e : RedEnv) (r : BlockRead) : State :=
  match r with
  | .ok _ _ => s
  | .fault va => (s.redIdle (e.die - 4)).xlatFault e.die va false
  | .bad dpa => ((s.redIdle (e.die - 4)).redErr e.die 3 e.slot).memUe dpa 1 2 .unit

def markBadBucket (s : State) (b : Nat) : State :=
  match s.run with
  | some r => { s with run := some { r with badBucket := b :: r.badBucket } }
  | none => s

/-- The check of a received block (R287, R295): true when it may be used. -/
def State.redCheck (s : State) (e : RedEnv) (payload trailer : List Byte) : State × Bool :=
  if !trailerOk trailer e.step e.knot e.elems e.bucket then
    (((markBadBucket s e.bucket).redErr e.die 1 e.slot).raiseVoid e.die 5, false)
  else if redDigest e.step e.bucket e.elems payload ≠ trailer.take 16 then
    let s := ((markBadBucket s e.bucket).inc (.red (e.die - 4)) F.RED_DIGEST_FAIL_COUNT 1).redErr e.die 2 e.slot
    ((s.count e.die 0 4 1).raiseVoid e.die 5, false)
  else (s.count e.die 0 3 (4 * e.elems), true)

/-! ### The stages (R285, R286) -/

/-- The digests met in a bucket (R293). -/
def State.noteDigests (s : State) (b : Nat) (f : RedDigests → RedDigests) : State :=
  match s.run with
  | some r => { s with run := some { r with digests := tmod {} r.digests b f } }
  | none => s

def payloadWords (e : RedEnv) (bs : List Byte) : List Nat := wordsOf 4 e.elems bs

def firstNonFinite (xs : List Nat) : Option Nat := xs.findIdx? fun x => !fisFinite x

/-- SEAL: G's trailer. -/
def State.redSeal (s : State) (e : RedEnv) : State :=
  match s.readBlock e 0 with
  | .ok g _ =>
    let nf : Nf := match firstNonFinite (payloadWords e g) with
      | some i => ⟨true, 0, e.rank, i⟩
      | none => {}
    let dg := redDigest e.step e.bucket e.elems g
    let s := s.noteDigests e.bucket fun x => { x with leaf := dg }
    (s.writeBlock e 0 (blockP e.elems) (trailerBytes dg e.step e.knot e.elems e.bucket nf)).count e.die 0 3 (4 * e.elems)
  | x => s.redStop e x

/-- SUM of the two halves of this rank's node (l, j). -/
def State.redSum (s : State) (e : RedEnv) (l j : Nat) : State :=
  let (il, ir) := if l = 1 then (0, 1) else (1, 2)
  match s.readBlock e il, s.readBlock e ir with
  | .ok lp lt, .ok rp rt =>
    let s := s.noteDigests e.bucket fun d =>
      if l = 1 then { d with x := rt.take 16 } else { d with x := lt.take 16, y := rt.take 16 }
    let (s, ok) := if l = 1 then s.redCheck e rp rt
      else
        let (s, a) := s.redCheck e lp lt
        let (s, b) := s.redCheck e rp rt
        (s, a && b)
    if !ok then s
    else
      let sum := ((payloadWords e lp).zip (payloadWords e rp)).map fun p => fadd false p.1 p.2
      let lf := trailerNf lt
      let rf := trailerNf rt
      let nf : Nf := if lf.flag then lf else if rf.flag then rf
        else match firstNonFinite sum with
          | some i => ⟨true, l, j * 2 ^ l, i⟩
          | none => {}
      let bs := sum.flatMap (leBytes 4)
      let bs := bs ++ List.replicate (blockP e.elems - bs.length) 0
      let dg := redDigest e.step e.bucket e.elems bs
      let s := s.writeBlock e 3 0 (bs ++ trailerBytes dg e.step e.knot e.elems e.bucket nf)
      ((s.count e.die 0 2 e.elems).count e.die 0 3 (4 * e.elems)).noteDigests e.bucket fun d => { d with node := dg }
  | .ok _ _, x => s.redStop e x
  | x, _ => s.redStop e x

/-- The 128 bytes of a digest-ring entry (R293). -/
def ringEntry (e : RedEnv) (d : RedDigests) (t : List Byte) (failed : Bool) : List Byte :=
  let z := List.replicate 16 (0 : Byte)
  let or0 (d : List Byte) : List Byte := if d = [] then z else d
  let nf := trailerNf t
  or0 d.leaf ++ or0 d.x ++ or0 d.y ++ or0 d.node ++ or0 (t.take 16) ++ leBytes 4 e.step ++ leBytes 4 e.knot
    ++ leBytes 1 (1 + (if nf.flag then 2 else 0) + if failed then 4 else 0) ++ leBytes 1 nf.level ++ leBytes 2 nf.rank
    ++ leBytes 4 nf.elem ++ List.replicate 32 0

/-- Write the bucket's entry of the digest ring, when it is kept (R293). -/
def State.ringWrite (s : State) (e : RedEnv) (t : List Byte) : State :=
  let b := Blk.red (e.die - 4)
  if !s.gb b F.RED_RING_CTRL_EN then s
  else
    let (d, failed) := match s.run with
      | some r => (tget ({} : RedDigests) r.digests e.bucket, decide (e.bucket ∈ r.badBucket))
      | none => (({} : RedDigests), false)
    let base := s.g2 b F.RED_RING_BASE_LO_BASE_LO F.RED_RING_BASE_HI_BASE_HI
    let bs := ringEntry e d t failed
    (s.writeMem (base + (e.step % 64 * 4096 + e.bucket) * 128) bs).p b F.RED_RING_POS_LAST (e.step % 64)

/-- FINISH once S stands in its block: checked on a rank that received it, the ring entry written, the trailer kept for
the verdict. -/
def State.redResult (s : State) (e : RedEnv) : State :=
  match s.readBlock e 3 with
  | .ok p t =>
    let (s, ok) := if e.rank = rootHost e.n then (s, true) else s.redCheck e p t
    let s := s.ringWrite e t
    if !ok then s
    else match s.run with
      | some r => { s with run := some { r with finished := tput [] r.finished e.bucket t } }
      | none => s
  | x => s.redStop e x

/-- FINISH: with N = 1 the reduced gradient is G, copied into S. -/
def State.redFinish (s : State) (e : RedEnv) : State :=
  if e.n = 1 then
    match s.readBlock e 0 with
    | .ok g t => (s.writeBlock e 3 0 (g ++ t)).redResult e
    | x => s.redStop e x
  else s.redResult e

/-- The stage that the k-th REDUCE slot of a bucket performs on a rank: 1 SEAL, 2 SUM, 3 FINISH (R285). -/
def stageOf (n r k : Nat) : Nat :=
  let l := if (nodeOf n r).isSome then [1, 2, 3] else [1, 3]
  l.getD k 0

/-- How many REDUCE slots of the same bucket come before slot i in the table. -/
def stageIndex (tab : List SlotEntry) (i bucket : Nat) : Nat :=
  ((tab.take i).filter fun x => x.action == 7 && x.operand == bucket).length

/-- The stage of a REDUCE slot, with what it works with (R285). -/
def redJob (p : Pricking) (r : Run) (die slot bucket : Nat) : RedEnv × Nat :=
  let ent := p.bucket bucket
  let e : RedEnv := ⟨die, slot, bucket, bucketElems ent, bucketSrc ent, r.q.step, r.first % 2 ^ 32, p.rank, p.rankM1 + 1⟩
  (e, stageOf e.n e.rank (stageIndex (p.slots.getD die []) slot bucket))

/-- A REDUCE slot starts (R296). -/
def State.redBegin (s : State) (p : Pricking) (r : Run) (die slot bucket : Nat) : State :=
  let b := Blk.red (die - 4)
  ((s.p b F.RED_STATUS_BUSY 1).p b F.RED_STATUS_STAGE (redJob p r die slot bucket).2).p b F.RED_STATUS_BUCKET bucket

/-- The work of a REDUCE slot (R285). -/
def State.runReduce (s : State) (p : Pricking) (r : Run) (die slot bucket : Nat) : State :=
  let (e, stage) := redJob p r die slot bucket
  match stage, nodeOf e.n e.rank with
  | 1, _ => s.redSeal e
  | 2, some (l, j) => s.redSum e l j
  | 3, _ => s.redFinish e
  | _, _ => s

/-! ### The verdict (R290 to R292) -/

/-- Flagged buckets that reached FINISH, in increasing index. -/
def Run.flagged (r : Run) : List (Nat × Nf) := (r.finished.map fun x => (x.1, trailerNf x.2)).filter (·.2.flag)

/-- The verdict of the running step is taken at knot `v` (R290, R292, R296). -/
def State.takeVerdict (s : State) (v : Nat) : State :=
  match s.run with
  | none => s
  | some r =>
    if r.verdict.isSome then s
    else
      let fl := r.flagged
      let code := if r.hostVoid then 3 else if r.voided then 2 else if fl.isEmpty then 0 else 1
      let s := s.forN 2 fun k s =>
        let b := Blk.red k
        let s := ((s.p b F.RED_VERDICT_VALID 1).pb b F.RED_VERDICT_CLEAN (code == 0)).pb b F.RED_VERDICT_VOIDED r.voided
        let s := (s.pb b F.RED_VERDICT_NONFIN (!fl.isEmpty)).p b F.RED_VERDICT_NF_BUCKETS (min fl.length 8191)
        let s := (s.p2 b F.RED_VERDICT_KNOT_LO_KNOT_LO F.RED_VERDICT_KNOT_HI_KNOT_HI v).p b F.RED_VERDICT_STEP_STEP r.q.step
        let x := fl.headD (0, {})
        let s := ((s.p b F.RED_NF_BUCKET_BUCKET x.1).p b F.RED_NF_BUCKET_LEVEL x.2.level).pb b F.RED_NF_BUCKET_VALID (!fl.isEmpty)
        ((s.p b F.RED_NF_RANK_RANK x.2.rank).p b F.RED_NF_ELEM_ELEM x.2.elem).line (4 + k) 33
      let x := fl.headD (0, {})
      let s := s.event { type := 0x14, cls := 0, die := 4, block := (Blk.red 0).index, code := code, inst := x.2.level
                         data := x.1 + x.2.rank * 2 ^ 12 + x.2.elem * 2 ^ 27 + min fl.length 1023 * 2 ^ 54 }
      { s with run := some { r with verdict := some code, withheld := code != 0 } }

end Sys2Proof.Machine
end

