-- ==== Sys2Proof/Machine/Update.lean ====
section
/-! DEFINITION. The update engines: parameter records, the three rules, the push, the preconditioner, withholding; and the
tensor scale table at the verdict knot (R162 to R167, R173, R175, R297 to R319). -/

namespace Sys2Proof.Machine

/-! ### The UPDATE section (R95) and the areas of a block (R299, R300) -/

def Pricking.blocks (p : Pricking) : Nat := if p.im.secSize 14 = 0 then 0 else leAt p.im (p.im.secOff 14) 4
def Pricking.block (p : Pricking) (b : Nat) : List Byte := (p.im.drop (p.im.secOff 14 + 16 + 64 * b)).take 64

def updVa (e : List Byte) : Nat := leAt e 0 8
def updRecords (e : List Byte) : Nat := leAt e 8 4
def updRule (e : List Byte) : Nat := leAt e 12 1
def updExp (e : List Byte) : Int := signed 8 (leAt e 13 1)
def updDim (e : List Byte) : Nat := leAt e 14 2
def updP (e : List Byte) : Nat := leAt e 16 1
def updIters (e : List Byte) : Nat := leAt e 17 1
def updEvery (e : List Byte) : Nat := leAt e 18 2
/-- HYPER: learning rate, β1, β2, ε, weight decay. -/
def updHyper (e : List Byte) (i : Nat) : Nat := leAt e (20 + 4 * i) 4
def updPushVa (e : List Byte) : Nat := leAt e 40 8
def updFmt (e : List Byte) : Nat := leAt e 48 1

/-- First byte of the gradient area. -/
def updGrad (e : List Byte) : Nat := ceilDiv (updVa e + 136 * updRecords e) 128 * 128

/-- Size of the push image. -/
def updPushBytes (e : List Byte) : Nat := updRecords e * if updFmt e = 1 then 32 else 64

/-- Bytes of one matrix of a block in the preconditioner region. -/
def precMat (e : List Byte) : Nat := ceilDiv (4 * updDim e * updDim e) 64 * 64

/-- Shuttle (0 or 1) whose slow tier holds a block's record area, by its translation. -/
def shuttleOf (ps : List Page) (e : List Byte) : Option Nat :=
  match pageOf ps (updVa e) with
  | some g => match memOf (g.dpa + (updVa e - g.va)) with
    | some (.slow k) => some k
    | _ => none
  | none => none

/-- PRECOND blocks of a Shuttle in section order, with their places in the preconditioner region (R300). -/
def precPlaces (p : Pricking) (ps : List Page) (k : Nat) : List (Nat × Nat) :=
  ((List.range p.blocks).foldl (fun (a : Nat × List (Nat × Nat)) b =>
    let e := p.block b
    if updRule e = 3 && shuttleOf ps e = some k then (a.1 + 2 * precMat e, a.2 ++ [(b, a.1)]) else a) (0, [])).2

/-- Bytes of the region before its workspace, and with it; PREC_BYTES (R300). -/
def precUsed (p : Pricking) (ps : List Page) (k : Nat) : Nat :=
  let l := (precPlaces p ps k).map fun x => p.block x.1
  let d := l.foldl (fun m e => max m (updDim e)) 0
  (l.map fun e => 2 * precMat e).foldl (· + ·) 0 + 4 * (4 * d * d)

def precBytes (p : Pricking) (ps : List Page) (k : Nat) : Nat := ceilDiv (precUsed p ps k) (2 ^ 20) * 2 ^ 20

/-- First DPA of block b's statistic G in Shuttle k's region, as admission laid the region out; P follows it. -/
def precAt (p : Pricking) (k b : Nat) : Nat :=
  dieSram (4 + k) + ((p.prec.getD k []).find? fun x => x.1 == b).elim 0 (·.2)

/-- First DPA of the push stage. -/
def pushStage (k : Nat) : Nat := dieSram (4 + k) + 0x3000000

/-! ### FP32 operations of the rules, and what they leave (R148, R149, R304) -/

/-- Round an exact value to FP32. -/
def rn (x : FVal) : Nat := fenc fmtFP32 x

def v32 (x : Nat) : FVal := fdec fmtFP32 x

/-- An E8M0 scale as a value; 0xFF is a NaN. -/
def e8m0 (c : Nat) : FVal := if c = 255 then .nan else .fin false 1 ((c : Int) - 127)

/-- FMA(a, b, c) with an exact b. -/
def fmaV (a : Nat) (b : FVal) (c : Nat) : Nat := rn (faddV (fmulV (v32 a) b) (v32 c))

/-- The four step factors (R302). -/
structure Factors where
  grad : Nat
  lr : Nat
  bc1 : Nat
  bc2 : Nat
deriving DecidableEq, Repr

/-- What an UPDATE slot forms once (R304). -/
structure UpdEnv where
  die : Nat
  block : Nat
  e : List Byte
  f : Factors
  seed : Nat
  step : Nat
  lam : Nat
  c1 : Nat
  c2 : Nat
deriving DecidableEq, Repr

def updEnv (die block : Nat) (e : List Byte) (f : Factors) (seed step : Nat) : UpdEnv :=
  ⟨die, block, e, f, seed, step, fmul false (updHyper e 0) f.lr, fsub false 0x3F800000 (updHyper e 1),
    fsub false 0x3F800000 (updHyper e 2)⟩

/-- A parameter record as read (R297). -/
structure Rec where
  raw : List Byte
deriving DecidableEq, Repr

def Rec.w (r : Rec) (i : Nat) : Nat := leAt r.raw (2 * i) 2 * 2 ^ 16
def Rec.frozen (r : Rec) (i : Nat) : Bool := bit (leAt r.raw 128 4) i
def Rec.mCode (r : Rec) (i : Nat) : Nat := leAt r.raw (64 + i) 1
def Rec.vCode (r : Rec) (i : Nat) : Nat := leAt r.raw (96 + i) 1
/-- Readings: log entry 41, DEDUCED. -/
def Rec.m (r : Rec) (i : Nat) : FVal := fmulV (fdec fmtE4M3 (r.mCode i)) (e8m0 (leAt r.raw 132 1))
def Rec.v (r : Rec) (i : Nat) : FVal := fmulV (fdec fmtE5M2 (r.vCode i)) (e8m0 (leAt r.raw 133 1))

def elems32 : List Nat := List.range 32
def Rec.live (r : Rec) : List Nat := elems32.filter fun i => !r.frozen i

/-- Why a record is kept before any arithmetic: 3 reserved bytes, 1 a non-finite stored value or scale (R298; log
entry 24 for the order of the causes). -/
def Rec.storedCause (r : Rec) : Nat :=
  if leAt r.raw 134 2 ≠ 0 then 3
  else if leAt r.raw 132 1 = 255 || leAt r.raw 133 1 = 255
      || r.live.any (fun i => r.mCode i % 128 = 0x7F || r.vCode i % 128 ≥ 0x7C || !fisFinite (r.w i)) then 1
  else 0

/-- One element under a rule: m′, v′, the direction before the weight decay (MOMENTUM and ADAMW), and every
intermediate value (R304 to R306; m′ and mh of R307). -/
structure ElemOut where
  m : Nat := 0
  v : Nat := 0
  mh : Nat := 0
  q : Nat := 0
  g : Nat := 0
  all : List Nat := []
deriving DecidableEq, Repr

def updElem (u : UpdEnv) (r : Rec) (gRaw : List Byte) (i : Nat) : ElemOut :=
  let g := fmul false u.f.grad (leAt gRaw (4 * i) 4)
  let b1 := updHyper u.e 1
  if updRule u.e = 1 then
    let m := fmaV b1 (r.m i) g
    { m := m, q := m, g := g, all := [u.lam, g, m] }
  else
    let cg := fmul false u.c1 g
    let m := fmaV b1 (r.m i) cg
    let mh := fmul false m u.f.bc1
    if updRule u.e = 3 then { m := m, mh := mh, g := g, all := [u.lam, g, cg, m, mh] }
    else
      let gg := fmul false g g
      let cgg := fmul false u.c2 gg
      let v := fmaV (updHyper u.e 2) (r.v i) cgg
      let vh := fmul false v u.f.bc2
      let sq := fsqrt false vh
      let den := fadd false sq (updHyper u.e 3)
      let q := fdiv false mh den
      { m := m, v := v, mh := mh, q := q, g := g, all := [u.lam, g, cg, m, gg, cgg, v, mh, vh, sq, den, q] }

/-- The word that rounds element i of record r: kind 0 weight, 1 first moment, 2 second moment (R308). -/
def updWord (u : UpdEnv) (r kind i : Nat) : Nat :=
  srWord u.seed (0xF0000000 + u.block) u.step (kind * 2 ^ 40 + 32 * r + i)

/-- A new weight: w − t · 2^(−E), rounded once (R175, R308). -/
def updWeight (word : Nat) (w t : Nat) (ex : Int) : Nat :=
  match faddV (v32 w) (fnegV (fmulV (v32 t) (.fin false 1 (-ex)))) with
  | .fin neg m x => if m = 0 then 0 else froundSR fmtBF16 word neg m x
  | _ => 0x7FC0

/-- A moment's codes and scale (R309). -/
def updMoments (u : UpdEnv) (r kind : Nat) (fmt : Nat) (f : Fmt) (live : List Nat) (val : Nat → Nat) : List Byte × Nat :=
  let e := fittedOf (amaxOf false (live.map val)) fmt
  (elems32.map fun i =>
    if i ∈ live then
      match v32 (val i) with
      | .fin neg m x => BitVec.ofNat 8 (froundSR f (updWord u r kind i) neg m (x + e))
      | _ => 0x7F
    else 0, scaleCode e)

/-- A record's new bytes from its elements' outcomes and directions u, or the cause that keeps it (R298, R304 to R309). -/
def updRecord (u : UpdEnv) (rn_ : Nat) (r : Rec) (outs : List ElemOut) (dir : Nat → Nat) : List Byte × Nat :=
  let live := r.live
  let o (i : Nat) : ElemOut := outs.getD i {}
  let dirs (i : Nat) : Nat := ffma false (updHyper u.e 4) (r.w i) (dir i)
  let t (i : Nat) : Nat := fmul false u.lam (dirs i)
  let stored := r.storedCause
  if stored ≠ 0 then (r.raw, stored)
  else if live.any fun i => (dir i :: dirs i :: t i :: (o i).all).any fun x => !fisFinite x then (r.raw, 2)
  else
    let ws := elems32.flatMap fun i =>
      leBytes 2 (if i ∈ live then updWeight (updWord u rn_ 0 i) (r.w i) (t i) (updExp u.e) else leAt r.raw (2 * i) 2)
    let (ms, s1) := updMoments u rn_ 1 1 fmtE4M3 live fun i => (o i).m
    let (vs, s2) := if updRule u.e = 2 then updMoments u rn_ 2 2 fmtE5M2 live fun i => (o i).v
      else (List.replicate 32 0, 0x7F)
    (ws ++ ms ++ vs ++ (r.raw.drop 128).take 4 ++ [BitVec.ofNat 8 s1, BitVec.ofNat 8 s2, 0, 0], 0)

/-! ### The engine at work (R303, R307, R310, R318) -/

/-- An error of an update engine (R318); the class follows the code. -/
def State.updErr (s : State) (k code slot : Nat) : State :=
  let b := Blk.upd k
  let s := ((s.p b F.UPD_ERR_CODE code).p b F.UPD_ERR_SLOT slot).line (4 + k) 34
  s.unitErr b 0 (if code = 5 || code = 6 then 2 else 3) code slot

/-- Read a range by virtual address; what stops it is recorded (R247, R318). -/
def State.updRead (s : State) (k slot va n : Nat) : State × Option (List Byte) :=
  match walkRange (s.tlbOf (4 + k)) false va n with
  | none => ((s.updErr k 3 slot).xlatFault (4 + k) va false, none)
  | some rs => match s.badRuns rs 0 with
    | some b => ((s.updErr k 1 slot).memUe b.1 1 3 .unit, none)
    | none => (s, some (s.readRuns rs))

/-- Write a range by virtual address. -/
def State.updWrite (s : State) (k slot va : Nat) (bs : List Byte) : State × Bool :=
  match walkRange (s.tlbOf (4 + k)) true va bs.length with
  | none => ((s.updErr k 3 slot).xlatFault (4 + k) va false, false)
  | some rs => (s.writeRuns rs bs, true)

/-- Partial writes that met bad units in a push (R231, R318). -/
def State.updSettle (s : State) (k slot code : Nat) : State :=
  if s.ueHits.isEmpty then s else (s.updErr k code slot).settleUe .unit

/-- The first kept record of a step is reported (R298). -/
def State.updKeptNote (s : State) (k blk r cause : Nat) : State :=
  let b := Blk.upd k
  let s := ((s.p b F.UPD_KEPT_INFO_BLOCK blk).p b F.UPD_KEPT_INFO_CAUSE cause).p b F.UPD_KEPT_INFO_VALID 1
  (s.p b F.UPD_KEPT_REC_RECORD r).event { type := 0x52, cls := 0, die := b.die, block := b.index, code := cause
                                          data := blk + r * 2 ^ 16 }

/-- A kept record: counted, the first of the step recorded (R298). -/
def State.updKept (s : State) (k blk r cause : Nat) : State :=
  let t := ((s.inc (.upd k) F.UPD_KEPT_COUNT 1).count (4 + k) 1 3 1).line (4 + k) 35
  match s.run with
  | some x =>
    if k ∈ x.keptSeen then t
    else { t with run := some { x with keptSeen := k :: x.keptSeen } }.updKeptNote k blk r cause
  | none => t

/-- A statistic or refresh failure (R307, R315). -/
def State.precFail (s : State) (k blk code : Nat) : State :=
  let b := Blk.upd k
  let s := (s.inc b F.UPD_PREC_FAIL_COUNT 1).p b F.UPD_PREC_FAIL_BLOCK blk
  (s.line (4 + k) 35).event { type := 0x53, cls := 0, die := b.die, block := b.index, code := code, data := blk }

/-- A d × d matrix in Shuttle SRAM. -/
def State.readMat (s : State) (a d : Nat) : List (List Nat) :=
  (List.range d).map fun j => readWords s (a + 4 * d * j) 4 d

def matBytes (m : List (List Nat)) : List Byte := m.flatMap fun r => r.flatMap (leBytes 4)

/-- C = A · B, each element summed in the tree of R150 (R314). -/
def matMul (a b : List (List Nat)) : List (List Nat) :=
  let n := a.length
  a.map fun row => (List.range n).map fun k =>
    treeReduce (fadd false) ((row.zip b).map fun p => fmul false p.1 (p.2.getD k 0))

/-- Split a list into groups of n. -/
def groupsOf {α : Type} (n : Nat) : Nat → List α → List (List α)
  | 0, _ => []
  | k + 1, l => l.take n :: groupsOf n k (l.drop n)

/-- The directions of a PRECOND block: y of each group in element order (R307). -/
def precDirs (pm : List (List Nat)) (d : Nat) (mh : List Nat) : List Nat :=
  (groupsOf d (mh.length / d) mh).flatMap fun x =>
    pm.map fun row => treeReduce (fadd false) ((row.zip x).map fun p => fmul false p.1 p.2)

/-- H over the groups, and the new statistic G (R307). -/
def precStat (u : UpdEnv) (gm : List (List Nat)) (d : Nat) (zs : List Nat) : List (List Nat) :=
  let groups := groupsOf d (zs.length / d) zs
  let h0 := List.replicate d (List.replicate d 0)
  let h := groups.foldl (fun (h : List (List Nat)) z =>
    (h.zip z).map fun p => (p.1.zip z).map fun q => fadd false q.1 (fmul false p.2 q.2)) h0
  let invq := elem false recipV (rn (.fin false groups.length 0))
  (gm.zip h).map fun p => (p.1.zip p.2).map fun q =>
    ffma false (updHyper u.e 2) q.1 (fmul false u.c2 (fmul false q.2 invq))

def allFinite (m : List (List Nat)) : Bool := m.all fun r => r.all fisFinite

/-- Write back one record and stage its weights (R303). -/
def State.updStore (s : State) (k slot blk : Nat) (u : UpdEnv) (r : Nat) (out : List Byte × Nat) : State :=
  let b := Blk.upd k
  let s := s.p b F.UPD_RECORD_RECORD r
  let s := if out.2 = 0 then s.count (4 + k) 1 6 (if updRule u.e = 2 then 24 else 16) else s.updKept k blk r out.2
  let (s, ok) := s.updWrite k slot (updVa u.e + 136 * r) out.1
  if !ok then s
  else
    let s := s.writeMem (pushStage k + 64 * r) (out.1.take 64)
    let s := (s.inc b F.UPD_RECORDS_DONE_COUNT 1).count (4 + k) 1 2 1
    s.updSettle k slot 2

/-- Read record r and its gradient block. -/
def State.updFetch (s : State) (k slot : Nat) (e : List Byte) (r : Nat) : State × Option (Rec × List Byte) :=
  match s.updRead k slot (updVa e + 136 * r) 136 with
  | (s, none) => (s, none)
  | (s, some raw) => match s.updRead k slot (updGrad e + 128 * r) 128 with
    | (s, none) => (s, none)
    | (s, some g) => (s, some (⟨raw⟩, g))

/-- Records of a MOMENTUM or ADAMW block one after another, until a fatal error stops the engine (R303). -/
def State.updPlain (s : State) (k slot blk : Nat) (u : UpdEnv) : List Nat → State
  | [] => s
  | r :: rs =>
    if s.fatalSet then s
    else match s.updFetch k slot u.e r with
      | (s, none) => s
      | (s, some (x, g)) =>
        let outs := elems32.map fun i => updElem u x g i
        (s.updStore k slot blk u r (updRecord u r x outs fun i => (outs.getD i {}).q)).updPlain k slot blk u rs

/-- Every record of a block with its gradient, or none where a read fails. -/
def State.updFetchAll (s : State) (k slot : Nat) (e : List Byte) : List Nat → State × Option (List (Rec × List Byte))
  | [] => (s, some [])
  | r :: rs => match s.updFetch k slot e r with
    | (s, none) => (s, none)
    | (s, some x) => match s.updFetchAll k slot e rs with
      | (s, none) => (s, none)
      | (s, some xs) => (s, some (x :: xs))

/-- Write back computed records until a fatal error stops the engine. -/
def State.updStoreAll (s : State) (k slot blk : Nat) (u : UpdEnv) : List (Nat × (List Byte × Nat)) → State
  | [] => s
  | (r, o) :: rest => if s.fatalSet then s else (s.updStore k slot blk u r o).updStoreAll k slot blk u rest

/-- A PRECOND block (R307): the directions of each group, the records, then the statistic. -/
def State.updPrecond (s : State) (p : Pricking) (k slot blk : Nat) (u : UpdEnv) : State :=
  let d := updDim u.e
  let a := precAt p k blk
  let pa := a + precMat u.e
  match s.badIn a (2 * precMat u.e) with
  | some bad => (s.updErr k 2 slot).memUe bad 1 3 .unit
  | none =>
    match s.updFetchAll k slot u.e (List.range (updRecords u.e)) with
    | (s, none) => s
    | (s, some xs) =>
      let outs := xs.map fun x => (x.1, elems32.map fun i => updElem u x.1 x.2 i)
      let pick (f : ElemOut → Nat) : List Nat := outs.flatMap fun x => elems32.map fun i =>
        if x.1.frozen i then 0 else f (x.2.getD i {})
      let y := precDirs (s.readMat pa d) d (pick (·.mh))
      let news := (outs.zip (List.range outs.length)).map fun x =>
        (x.2, updRecord u x.2 x.1.1 x.1.2 fun i => y.getD (32 * x.2 + i) 0)
      let s := s.updStoreAll k slot blk u news
      if s.fatalSet then s
      else
        let g := precStat u (s.readMat a d) d (pick (·.g))
        if allFinite g then s.writeMem a (matBytes g) else s.precFail k blk 0

/-- The step factors in force on a Shuttle (R302, R319). -/
def State.factors (s : State) (k : Nat) : Factors :=
  let b := Blk.upd k
  ⟨s.g b F.UPD_GRAD_MULT_VALUE, s.g b F.UPD_LR_MULT_VALUE, s.g b F.UPD_BC1_VALUE, s.g b F.UPD_BC2_VALUE⟩

/-- An UPDATE slot's work (R303). -/
def State.runUpdate (s : State) (p : Pricking) (r : Run) (k slot blk : Nat) : State :=
  let e := p.block blk
  let u := updEnv (4 + k) blk e (s.factors k) r.q.seed r.q.step
  if updRule e = 3 then s.updPrecond p k slot blk u else s.updPlain k slot blk u (List.range (updRecords e))

/-- A PUSH slot's work (R310, R311). -/
def State.runPush (s : State) (p : Pricking) (k slot operand : Nat) : State :=
  let blk := operand % 2 ^ 16
  let idx := bits operand 26 16
  let e := p.block blk
  let n := 32 * updRecords e
  match s.badIn (pushStage k) (2 * n) with
  | some bad => (s.updErr k 2 slot).memUe bad 1 3 .unit
  | none =>
    let stage := s.readMem (pushStage k) (2 * n)
    let ws := (wordsOf 2 n stage).map (· * 2 ^ 16)
    let out := if updFmt e = 1 then
        let ex : Int := 127 - ((tget {} s.scale idx).d : Int)
        ws.map fun w => BitVec.ofNat 8 (cvtElem false 1 none ex w).code
      else stage
    let s := if updFmt e = 1 then s.collect (4 + k) idx (amaxOf false ws) else s
    let (s, ok) := s.updWrite k slot (updPushVa e) out
    if !ok then s
    else
      let b := Blk.upd k
      let total := s.g2 b F.UPD_PUSH_BYTES_LO_BYTES_LO F.UPD_PUSH_BYTES_HI_BYTES_HI + out.length
      let s := (s.p2 b F.UPD_PUSH_BYTES_LO_BYTES_LO F.UPD_PUSH_BYTES_HI_BYTES_HI (total % 2 ^ 48)).count (4 + k) 1 5 out.length
      s.updSettle k slot 8

/-! ### The refresh (R313 to R315) -/

/-- One Newton iteration on (X, M). -/
def newtonStep (p : Nat) (x : List (List Nat) × List (List Nat)) : List (List Nat) × List (List Nat) :=
  let c := rn (.fin false (p + 1) 0)
  let invp := rn (.fin false 1 (-(Nat.log2 p : Int)))
  let n := x.2.length
  let t := (x.2.zip (List.range n)).map fun r => (r.1.zip (List.range n)).map fun q =>
    fmul false (fsub false (if r.2 = q.2 then c else 0) q.1) invp
  let m := matMul t x.2
  let m := if p ≥ 2 then matMul t m else m
  let m := if p = 4 then matMul t (matMul t m) else m
  (matMul x.1 t, m)

def newton (p : Nat) : Nat → List (List Nat) × List (List Nat) → List (List Nat) × List (List Nat)
  | 0, x => x
  | n + 1, x => newton p n (newtonStep p x)

/-- The candidate preconditioner of a statistic (R314). -/
def precCandidate (p iters eps : Nat) (g : List (List Nat)) : List (List Nat) :=
  let n := g.length
  let a := (g.zip (List.range n)).map fun r => (r.1.zip (List.range n)).map fun q =>
    if r.2 = q.2 then fadd false q.1 eps else q.1
  let alpha := elem false fsqrtV (treeReduce (fadd false) (a.flatMap fun r => r.map fun x => fmul false x x))
  let r := if p = 1 then elem false recipV alpha else if p = 2 then elem false rsqrtV alpha
    else elem false rsqrtV (elem false fsqrtV alpha)
  let ra := elem false recipV alpha
  let x := (List.range n).map fun j => (List.range n).map fun k => if j = k then r else 0
  (newton p iters (x, a.map fun row => row.map fun y => fmul false y ra)).1

/-- Does a PRECOND_REFRESH slot have work in this step (R313)? -/
def refreshDue (e : List Byte) (step : Nat) : Bool := updEvery e != 0 && step % updEvery e == 0

/-- The refresh ends: a finite X replaces P (R315). Answers whether the slot completes. -/
def State.runRefresh (s : State) (p : Pricking) (r : Run) (k slot blk : Nat) : State × Bool :=
  let e := p.block blk
  let d := updDim e
  let a := precAt p k blk
  match s.badIn a (precMat e) with
  | some bad => ((s.updErr k 5 slot).memUe bad 1 2 .unit, false)
  | none =>
    let x := precCandidate (updP e) (updIters e) (updHyper e 3) (s.readMat a d)
    if allFinite x then
      ((s.writeMem (a + precMat e) (matBytes x)).p (.upd k) F.UPD_PREC_STEP_STEP r.q.step, true)
    else (s.precFail k blk 1, true)

/-- Clear the preconditioner region: every G is +0, every P the identity (R316). -/
def State.precClear (s : State) (p : Pricking) : State :=
  s.forN 2 fun k s =>
    let s := s.p (.upd k) F.UPD_PREC_STEP_STEP 0
    (p.prec.getD k []).foldl (fun (s : State) x =>
      let e := p.block x.1
      let a := dieSram (4 + k) + x.2
      let ident := (List.range (updDim e)).map fun j => (List.range (updDim e)).map fun i =>
        if i = j then 0x3F800000 else 0
      (s.zeroRange a (2 * precMat e)).writeMem (a + precMat e) (matBytes ident)) s

/-! ### The tensor scale table (R162 to R167, R173) -/

/-- D of an entry under VEC_TS_POLICY (R163); the Shuttles use H0's policy (R176). -/
def State.scaleD (s : State) (x : ScaleEntry) : Nat :=
  let init := signed 8 (s.g (.vec 0) F.VEC_TS_POLICY_INIT_EXP)
  let a := (x.hist.take (s.g (.vec 0) F.VEC_TS_POLICY_HIST_DEPTH)).foldl max 0
  let e := if x.hist.isEmpty || a = 0 || x.fmt = 0 then init
    else match v32 a with
      | .fin _ m ex => fittedExp m ex x.fmt - s.g (.vec 0) F.VEC_TS_POLICY_MARGIN
      | _ => init
  scaleCode (clampExp e)

/-- S0 merges the dies' step amax and statistics in die order (R165, R173). -/
def mergeStats (t : Table StepStat) (idx : Nat) : StepStat :=
  (List.range 6).foldl (fun (a : StepStat) d =>
    let x := tget {} t (d * 2048 + idx)
    { amax := max a.amax x.amax, collected := a.collected || x.collected, stat := statAdd false a.stat x.stat }) {}

/-- The verdict knot: the merged values are on their way to every die (R165, R176 RECALC). -/
def State.scaleMerge (s : State) (clean : Bool) : State :=
  let idx := (s.stepStat.map fun x => x.1 % 2048).eraseDups
  let m := (idx.mergeSort (· ≤ ·)).map fun i => (i, mergeStats s.stepStat i)
  let s := { s with scaleJob := some ⟨clean, m⟩ }
  s.forN 4 fun h s => s.p (.vec h) F.VEC_SCL_STATUS_RECALC 1

/-- One entry as the verdict leaves it.
Readings: log entry 48, DEDUCED. -/
def State.scaleNext (s : State) (j : ScaleJob) (i : Nat) (x : ScaleEntry) : ScaleEntry :=
  let m := tget {} j.merged i
  let x := { x with last := m.stat }
  if !j.clean then x
  else
    let x := if m.collected then { x with hist := (m.amax :: x.hist).take 16 } else x
    { x with d := s.scaleD x }

/-- 1,000 ns after the verdict knot the new values take effect on all dies together (R165). -/
def State.scaleApply (s : State) : State :=
  match s.scaleJob with
  | none => s
  | some j =>
    let t := (List.range 2048).filterMap fun i =>
      let x := s.scaleNext j i (tget {} s.scale i)
      if x = {} then none else some (i, x)
    let s := { s with scale := t, stepStat := [], scaleJob := none }
    s.forN 4 fun h s => s.p (.vec h) F.VEC_SCL_STATUS_RECALC 0

/-- SCALE_TABLE_APPLY (R165). -/
def execScaleTableApply (s : State) : Host.Outcome State Fault Refusal := .next s.scaleApply

/-- Clear the table for another job's image, with the formats that image gives its entries (R162, R167). -/
def State.scaleClear (s : State) (fmts : Table Nat) : State :=
  let init := signed 8 (s.g (.vec 0) F.VEC_TS_POLICY_INIT_EXP)
  let x : ScaleEntry := { d := scaleCode (clampExp init) }
  let t := (List.range 2048).filterMap fun i =>
    let y := { x with fmt := tget 0 fmts i }
    if y = {} then none else some (i, y)
  { s with scale := t, stepStat := [], scaleJob := none }

/-! ### Dispatch and completion of the update engine's slots (R312, R319) -/

def State.updBusy (s : State) (k kind blk : Nat) : State :=
  ((s.p (.upd k) F.UPD_STATUS_BUSY 1).p (.upd k) F.UPD_STATUS_KIND kind).p (.upd k) F.UPD_STATUS_BLOCK blk

def State.updIdle (s : State) (k : Nat) : State :=
  (s.p (.upd k) F.UPD_STATUS_BUSY 0).p (.upd k) F.UPD_STATUS_KIND 0

end Sys2Proof.Machine
end

