-- ==== Sys2Proof/Machine/Slots.lean ====
section
/-! DEFINITION. Slots: dispatch at the start time, completion, and the check at the deadline (R93, R105 to R107, R158,
R182, R184, R193, R194, R209, R211, R257, R285, R290, R294, R303, R310, R312 to R315). -/

namespace Sys2Proof.Machine

/-! ### What a VXOP entry touches (R159, R180, R190, R198) -/

def vxOp (d : List Byte) : Nat := leAt d 0 1
def vxRows (d : List Byte) : Nat := if vxOp d = 0x50 || vxOp d = 0x51 then bits (leAt d 4 4) 9 0 else bits (leAt d 4 4) 19 0
def vxLen (d : List Byte) : Nat := bits (leAt d 8 4) 19 0
def vxOff (d : List Byte) (o : Nat) : Nat := bits (leAt d o 4) 27 0

def vxReadsB (op : Nat) : Bool := (decide (1 ≤ op) && decide (op ≤ 5)) || (decide (0x30 ≤ op) && decide (op ≤ 0x39))

/-- SRAM regions an entry reads, as (offset, bytes). -/
def vxReads (d : List Byte) : List (Nat × Nat) :=
  let op := vxOp d
  let n := vxRows d * vxLen d
  if op = 0x50 then
    (List.range (vxRows d)).map fun r => (vxOff d 12 + r * bits (leAt d 16 4) 19 0, bits (leAt d 8 4) 10 0)
  else if op = 0x51 then []
  else if (0x10 ≤ op && op ≤ 0x13) || op = 0x40 then [(vxOff d 12, 4 * n)]
  else
    let row (b : Nat) : Nat := if bit (leAt d 1 1) b then 4 * vxRows d else 4 * n
    [(vxOff d 12, (if bit (leAt d 1 1) 6 then 2 else 4) * n)]
      ++ (if vxReadsB op then [(vxOff d 16, row 4)] else []) ++ (if op = 4 then [(vxOff d 20, row 5)] else [])

/-- Regions it writes. A store of 16-bit elements writes twice the bytes of an 8-bit one. -/
def vxWrites (w16 : Bool) (d : List Byte) : List (Nat × Nat) :=
  let op := vxOp d
  let rows := vxRows d
  let n := rows * vxLen d
  if op = 0x50 then []
  else if op = 0x51 then
    (List.range (bits (leAt d 8 4) 10 0)).map fun j =>
      (vxOff d 12 + j * bits (leAt d 16 4) 19 0, rows * if w16 then 2 else 1)
  else if 0x10 ≤ op && op ≤ 0x13 then
    let fmt := leAt d 1 1 % 16
    [(vxOff d 16, if fmt = 4 then n / 2 else if fmt ≤ 3 then n else 2 * n)]
      ++ (if op = 0x11 then [(vxOff d 20, rows)] else if op = 0x12 then [(vxOff d 20, n / 32)] else [])
      ++ (if bit (leAt d 1 1) 6 then [(vxOff d 24, 16 * ceilDiv rows (max 1 (bits (leAt d 8 4) 31 20)))] else [])
  else if op = 0x40 then [(vxOff d 16, 4 * n)]
  else [(vxOff d 24, if 0x28 ≤ op && op ≤ 0x2A then 4 * rows else 4 * n)]

/-! ### Which slot is next (R83, R107) -/

/-- Start of a slot in ns from the step's first knot, for the order of dispatch. -/
def Pricking.startPos (p : Pricking) (die i : Nat) : Nat :=
  let t := (p.starts.getD die []).getD i (0, 0)
  t.1 * p.interval + t.2

/-- The earliest slot of a die that has not been dispatched: by start, then by table order. -/
def nextSlot (p : Pricking) (r : Run) (die : Nat) : Option Nat :=
  let open_ := (List.range (p.slots.getD die []).length).filter fun i => !(tget slotNone r.slots (slotKey die i)).disp
  open_.foldl (fun m i => match m with
    | none => some i
    | some j => if p.startPos die i < p.startPos die j then some i else some j) none

/-- PRK_SLOT_NEXT (R111). -/
def State.slotNextReg (s : State) (die : Nat) : State :=
  match s.run, s.img with
  | some r, some p => s.p (.prk die) F.PRK_SLOT_NEXT_NEXT ((nextSlot p r die).getD (p.slots.getD die []).length)
  | _, _ => s

/-! ### Units that run one slot at a time -/

def xpbUnit (die b : Nat) : Nat := 8 * die + 3 + b

/-- Key of the unit that a unit code of R82 names, for the units that run one slot at a time. -/
def unitKey (die code : Nat) : Option Nat :=
  if die < 4 then (if code = 0x02 then some (vecUnit die) else if code = 0x03 || code = 0x04 then some (xpbUnit die (code - 3)) else none)
  else if code = 0x40 then some (redUnit (die - 4)) else if code = 0x41 then some (updUnit (die - 4)) else none

/-- The work of a slot that an engine of a Shuttle runs, done when the slot ends: a stage of a reduction, an update, a push
or a refresh, which replaces P at this instant (R285, R303, R310, R315). Answers whether the slot completes. -/
def State.engineWork (s : State) (p : Pricking) (r : Run) (die slot : Nat) (e : SlotEntry) : State × Bool :=
  let k := die - 4
  match e.action with
  | 7 => ((s.runReduce p r die slot e.operand).settleUe .unit, true)
  | 9 => ((s.runUpdate p r k slot e.operand).updSettle k slot 2, true)
  | 10 => (s.runPush p k slot e.operand, true)
  | 11 => s.runRefresh p r k slot (e.operand % 2 ^ 16)
  | _ => (s, true)

/-- The slot a unit runs ends: an engine does its work, the unit is idle, the slot is complete (R107). A slot that its own
work stopped does not complete. -/
def State.unitFinish (s : State) (die code : Nat) : State :=
  match unitKey die code with
  | none => s
  | some key =>
    match tget none s.units key, s.run, s.img with
    | some u, some r, some p =>
      let k := die - 4
      if code = 0x02 then
        let s := { s with units := tput none s.units key none }
        ((s.p (.vec die) F.VEC_OP_STATUS_BUSY 0).p (.vec die) F.VEC_OP_SLOT_VALID 0).slotComplete die u.slot 0
      else if code = 0x40 || code = 0x41 then
        match p.slot die u.slot with
        | none => s
        | some e =>
          let (s, ok) := s.engineWork p r die u.slot e
          if tget none s.units key = none then s
          else
            let s := if code = 0x41 then { s with units := tput none s.units key none }.updIdle k
              else ((if e.action = 7 then s.inc (.red k) F.RED_STAGES_COUNT 1 else s)).redIdle k
            if ok then s.slotComplete die u.slot 0 else s
      else
        let s := match p.slot die u.slot with
          | some e => s.xpbStore (2 * die + (code - 3)) u.slot p (p.vxop e.operand)
          | none => s
        ({ s with units := tput none s.units key none }.slotComplete die u.slot 0).settleUe .unit
    | _, _, _ => s

/-- A reduction or update engine meets an error of its own while it runs a slot (R247, R295, R318). A lookup that fails its
TLB entry's parity stops the work where it uses that entry. -/
def State.engineFault (s : State) (die code : Nat) (f : EngineFault) : State :=
  match (if code = 0x40 || code = 0x41 then unitKey die code else none) with
  | none => s
  | some key =>
    match tget none s.units key with
    | none => s
    | some u =>
      let k := die - 4
      let b := if code = 0x40 then Blk.red k else Blk.upd k
      let refresh := s.g (.upd k) F.UPD_STATUS_KIND == 3
      let idle (s : State) : State :=
        if code = 0x40 then s.redIdle k else { s with units := tput none s.units key none }.updIdle k
      match f with
      | .lookup va =>
        let s := match pageOf s.tlb va.toNat with
          | some p => { s with tlbBad := s.tlbBad ++ [(die, p.va)] }
          | none => s
        s.unitFinish die code
      | .mismatch =>
        let c := if code = 0x40 then 5 else 7
        ((if code = 0x40 then s.redErr die c u.slot else s.updErr k c u.slot)).fatal die 0x0B (b.index * 256 + c)
      | .parity =>
        if code = 0x40 then ((idle s).redErr die 4 u.slot).raiseVoid die 5
        else if refresh then ((idle s).updErr k 6 u.slot).raiseVoid die 5
        else (s.updErr k 4 u.slot).fatal die 0x0D 4

/-- A unit takes a slot; one that still runs an earlier slot ends that one first (log entry 25, DEDUCED). -/
def State.unitTake (s : State) (die code slot : Nat) : State :=
  match unitKey die code with
  | none => s
  | some key =>
    let s := s.unitFinish die code
    { s with units := tput none s.units key (some ⟨slot, s.grid.time⟩) }

/-- A unit abandons its slot (R193). -/
def State.unitDrop (s : State) (die code : Nat) : State :=
  match unitKey die code with
  | none => s
  | some key => { s with units := tput none s.units key none }

/-! ### Dispatch by action (R82) -/

/-- A VEC_OP slot with work (R158, R190, R193, R200). -/
def State.vecDispatch (s : State) (h slot : Nat) (d : List Byte) (w : WorkEnv) : State :=
  let b := Blk.vec h
  let s := s.unitTake h 0x02 slot
  let s := ((s.p b F.VEC_OP_STATUS_BUSY 1).p b F.VEC_OP_STATUS_OPCODE (vxOp d)).p b F.VEC_OP_SLOT_SLOT slot
  let s := s.p b F.VEC_OP_SLOT_VALID 1
  let abs (r : Nat × Nat) : Nat × Nat := (sramBase h + r.1, r.2)
  let (s, ok) := s.unitReads ((vxReads d).map abs) 0
  if !ok then
    ((s.unitDrop h 0x02).p b F.VEC_OP_STATUS_BUSY 0).p b F.VEC_OP_SLOT_VALID 0
  else
    let rows := vxRows d
    let kept := ((List.range rows).filter fun r => !w.skips d r).length
    let total (l : List (Nat × Nat)) : Nat := (l.map (·.2)).foldl (· + ·) 0 * kept / max 1 rows
    let sat := s.g b F.VEC_CVT_SAT_COUNT
    let s := s.runVxop h w d
    let s := (s.count h 2 2 (kept * vxLen d)).count h 2 5 (total (vxReads d))
    ((s.count h 2 6 (total (vxWrites false d))).count h 2 9 (s.g b F.VEC_CVT_SAT_COUNT - sat)).settleUe .unit

/-- A STREAM slot arms its descriptor (R211, R212). -/
def State.streamDispatch (s : State) (p : Pricking) (die slot unit stream : Nat) : State :=
  s.arm { die := die, bobbin := unit - 0x10, stream := stream, desc := p.stream stream, rcv := p.stream (stream + 1)
          gen := 0, slot := slot, phase := .pending }

/-- A LINK_SEND or LINK_RECV slot with bytes to move occupies its frames: up to the last row within the actual length
(R93, R257, R258). -/
def State.linkDispatch (s : State) (p : Pricking) (r : Run) (die slot : Nat) (e : SlotEntry) (start : Nat × Nat) : State :=
  let port := if die < 4 then 4 * die + (e.unit - 0x30) else 12 + die
  let d := p.stream e.operand
  match s.consumerArm p die e.operand slot with
  | none => if e.action = 5 then s.slotErr port 5 (start.2 / 64) s.grid.knot else s
  | some a =>
    let n := (List.range (descRows d)).foldl (fun m i => if (s.envOf p r e.mb).skips d i then m else i + 1) 0
    let bytes := n * descRowBytes d
    let run : LinkRun := {
      die := die, slot := slot, port := port, send := e.action == 5, stream := e.operand, gen := a.gen
      knot := (r.first + start.1) % 2 ^ 48, first := start.2 / 64, frames := ceilDiv bytes 12800, done := 0
      bytes := bytes, actual := s.grid.time }
    { s with links := s.links ++ [run] }

/-- The descriptor of a slot of a micro-batch, and how many rows or vectors of work it has. -/
def slotWork (p : Pricking) (e : SlotEntry) : List Byte × Nat :=
  match e.action with
  | 1 => (p.pass e.operand, passV (p.pass e.operand))
  | 2 | 3 => (p.vxop e.operand, vxRows (p.vxop e.operand))
  | 4 | 5 | 6 => (p.stream e.operand, descRows (p.stream e.operand))
  | _ => ([], 0)

/-- Does a slot's work lie wholly beyond the actual length of its micro-batch (R93)? -/
def slotBeyond (p : Pricking) (r : Run) (e : SlotEntry) : Bool :=
  r.beyond p e.mb (slotWork p e).1 (slotWork p e).2

/-- Has a slot no work: of a voided step, of an unclean verdict, beyond the length of its micro-batch, or of length zero
(R93, R160, R193, R209, R221, R257, R294, R312)? VERDICT and NOP never run empty. -/
def slotEmpty (p : Pricking) (r : Run) (e : SlotEntry) : Bool :=
  if e.action = 0 || e.action = 8 then false
  else if r.voided then true
  else if slotBeyond p r e then true
  else match e.action with
    | 1 => passV (p.pass e.operand) == 0
    | 2 => vxRows (p.vxop e.operand) == 0
    | 4 => descRows (p.stream e.operand) == 0
    | 5 | 6 => descRows (p.stream e.operand) == 0
    | 9 | 10 => r.withheld
    | _ => false

/-- A slot with work starts. -/
def State.slotStart (s : State) (p : Pricking) (r : Run) (die i : Nat) (e : SlotEntry) (start : Nat × Nat) : State :=
  let w := s.envOf p r e.mb
  let k := die - 4
  match e.action with
  | 1 => s.passDispatch (2 * die + e.unit % 2) i e.operand e.mb e.chain
  | 2 => s.vecDispatch die i (p.vxop e.operand) w
  | 3 =>
    let b := e.unit - 3
    if vxOp (p.vxop e.operand) = 0x50 then s.xpbDispatch (2 * die + b) i e.operand
    else
      let (t, ok) := ((s.unitFinish die e.unit).readsEnd (2 * die + b)).xpbStoreBegin (2 * die + b) i
      if ok then t.unitTake die e.unit i else t
  | 4 => s.streamDispatch p die i e.unit e.operand
  | 5 | 6 => s.linkDispatch p r die i e start
  | 7 => (s.unitTake die 0x40 i).redBegin p r die i e.operand
  | 8 => ((s.unitTake die 0x40 i).p (.red k) F.RED_STATUS_BUSY 1).p (.red k) F.RED_STATUS_STAGE 0
  | 9 => (s.unitTake die 0x41 i).updBusy k 1 e.operand
  | 10 => (s.unitTake die 0x41 i).updBusy k 2 (e.operand % 2 ^ 16)
  | 11 =>
    if refreshDue (p.block e.operand) r.q.step then (s.unitTake die 0x41 i).updBusy k 3 e.operand
    else s.slotComplete die i 0
  | _ => s.slotComplete die i 0

/-- A conversion that runs empty still names its entry with COLLECT, and collects nothing (R164, R165). -/
def State.collectEmpty (s : State) (die : Nat) (d : List Byte) : State :=
  if 0x10 ≤ vxOp d && vxOp d ≤ 0x13 && bit (leAt d 1 1) 5 then s.collect die (leAt d 2 2 % 2048) 0 else s

/-- Dispatch slot i at its start (R107): noted in the run, then started, or completed at once when it has no work. -/
def State.dispatch (s : State) (p : Pricking) (r : Run) (die i : Nat) (e : SlotEntry) : State :=
  let start := (p.starts.getD die []).getD i (0, 0)
  let sched := (r.times.getD start.1 0 + nsT start.2) % 2 ^ 64
  let s := s.advanceTo sched
  let empty := slotEmpty p r e
  let x : SlotRec := { done := false, empty := empty, actual := s.grid.time, sched := sched
                       knot := (r.first + start.1) % 2 ^ 48, disp := true }
  let r := { r with slots := tput slotNone r.slots (slotKey die i) x }
  let s := { s with run := some r }.slotNextReg die
  if !empty then s.slotStart p r die i e start
  else
    let s := if e.action = 2 && !r.voided then s.collectEmpty die (p.vxop e.operand) else s
    let s := if e.action = 9 || e.action = 10 then s.p (.upd (die - 4)) F.UPD_STATUS_EMPTY 1 else s
    if e.action = 4 && !r.voided && descRows (p.stream e.operand) = 0 then s.streamDispatch p die i e.unit e.operand
    else s.slotComplete die i 0

/-- Has knot k of the running step come? -/
def Run.knotCame (r : Run) (k : Nat) : Bool := decide (k < r.times.length)

/-! ### The deadline (R107, R201) -/

/-- A slot of a live step that is not complete at its deadline: counted once, and UNCOVERED is raised (R107). A
transposing-buffer load still held is abandoned (R201). -/
def State.slotMiss (s : State) (die i : Nat) : State :=
  match s.liveRun, s.img with
  | some r, some p =>
    if r.slotDone die i || slotKey die i ∈ r.missed then s
    else
      let s := { s with run := some { r with missed := slotKey die i :: r.missed } }
      let s := s.inc (.prk die) F.PRK_MISS_MISSES 1
      let s := match p.slot die i with
        | some e =>
          let k : Nat := 2 * die + (e.unit - 3)
          if e.action = 3 && (s.xpb k).load.any (fun (x : Nat × Nat) => x.1 == i) then s.xpbGiveUp k else s
        | none => s
      s.raiseVoid die 6
  | _, _ => s

/-- Deadlines that fall on a knot itself (R83, R86): every slot due at offset 0 of knot k of the step. -/
def State.knotDeadlines (s : State) (k : Nat) : State :=
  match s.liveRun, s.img with
  | some _, some p =>
    s.forN 6 fun d s =>
      let dl := p.deads.getD d []
      ((List.range dl.length).filter fun i => dl.getD i (0, 0) == (k, 0)).foldl (fun s i => s.slotMiss d i) s
  | _, _ => s

/-! ### The commands -/

/-- SLOT_DISPATCH: the next slot of a die reaches its start (R107). -/
def execSlotDispatch (die : Die) (s : State) : Host.Outcome State Fault Refusal :=
  match s.run, s.img with
  | some r, some p =>
    match nextSlot p r die.val with
    | none => .next s
    | some i =>
      match p.slot die.val i with
      | none => .next s
      | some e =>
        if r.knotCame ((p.starts.getD die.val []).getD i (0, 0)).1 then .next (s.dispatch p r die.val i e) else .next s
  | _, _ => .next s

/-- UNIT_SLOT_COMPLETE: the unit that a code of R82 names ends the slot it runs (R107, R319), or meets an error of its own
instead (R295, R318). -/
def execUnitSlotComplete (die : Die) (work : UnitEnd) (s : State) : Host.Outcome State Fault Refusal :=
  .next ((match work.fault with
    | none => s.unitFinish die.val work.unit.toNat
    | some f => s.engineFault die.val work.unit.toNat f).settleUe .unit)

/-- SLOT_DEADLINE_CHECK (R107). -/
def execSlotDeadlineCheck (die : Die) (slot : BitVec 17) (s : State) : Host.Outcome State Fault Refusal :=
  match s.run, s.img with
  | some r, some p =>
    let dl := p.deads.getD die.val []
    let d := dl.getD slot.toNat (0, 0)
    if slot.toNat < dl.length && r.knotCame d.1 then
      .next ((s.advanceTo (r.times.getD d.1 0 + nsT d.2)).slotMiss die.val slot.toNat)
    else .next s
  | _, _ => .next s

end Sys2Proof.Machine
end

