-- ==== Sys2Proof/Machine/AdmitStatic.lean ====
section
/-! DEFINITION. Admission, steps 1 to 4 of R98: header, directory and digest; reserved fields and encodings; mode and
interval; the ranges and order of every section (R13, R14, R78 to R96, R98, R112 to R118, R128, R131, R133, R145, R147,
R156, R159, R160, R162, R170, R171, R175, R176, R179 to R183, R188, R190 to R192, R198, R205 to R210, R289, R301,
R305 to R307, R311, R313). -/

namespace Sys2Proof.Machine

def need (ok : Bool) (r : Rej) : Option Rej := if ok then none else some r

/-- The first failure over a list, each element with its index. -/
def eachIdx {α : Type} (f : Nat → α → Option Rej) : Nat → List α → Option Rej
  | _, [] => none
  | i, x :: r => match f i x with
    | some e => some e
    | none => eachIdx f (i + 1) r

def each {α : Type} (l : List α) (f : Nat → α → Option Rej) : Option Rej := eachIdx f 0 l

/-- The first failure of checks in order. -/
def firstOf : List (Option Rej) → Option Rej
  | [] => none
  | some r :: _ => some r
  | none :: l => firstOf l

/-- What a check sees: the device, and the image as a pricking at the requested class. -/
structure AdEnv where
  s : State
  /-- IMAGE_SIZE that ADMIT names. -/
  size : Nat
  guard : Nat
  policyOk : Bool
  delays : List Nat
  p : Pricking

def AdEnv.im (v : AdEnv) : Image := v.p.image

/-! ### Entries of the sections (R79) -/

/-- Entry size of a section, and its header. -/
def secEntry (i : Nat) : Nat :=
  if i ≤ 5 then 16 else if i ≤ 7 then 64 else if i = 8 then 32 else if i ≤ 11 then 8 else if i = 12 then 2
  else if i = 13 then 32 else if i = 14 then 64 else 16
def secHead (i : Nat) : Nat := if i = 13 || i = 14 then 16 else if i = 15 then 40 else 0

/-- Most entries a section may have. -/
def secMost (i : Nat) : Nat :=
  if i ≤ 3 then 65536 else if i ≤ 5 then 8192 else if i ≤ 8 then 65536 else if i = 9 then 262144 else if i = 10 then 16
  else if i = 11 then 8 else if i = 12 then 2047 else if i = 13 then 4096 else if i = 14 then 65536 else 4096

def Image.count (im : Image) (i : Nat) : Nat := (im.secSize i - secHead i) / secEntry i

/-- The entries of a section in order, past its header. -/
def Image.list (im : Image) (i : Nat) : List (List Byte) :=
  entries (secEntry i) ((im.sec i).drop (secHead i))

def noIdx : Nat := 0x1FFFF

/-- A MEMORY range (R96). -/
def memRange (b : List Byte) : Nat × Nat := (leAt b 0 8, leAt b 8 8)

/-- Partition words of a Hoop in MiB (R96). -/
def Image.act (im : Image) (h : Nat) : Nat := leAt (im.sec 15) (8 * h) 2
def Image.buf (im : Image) (h : Nat) : Nat := leAt (im.sec 15) (8 * h + 2) 2
def Image.save (im : Image) (h : Nat) : Nat := leAt (im.sec 15) (8 * h + 4) 2

def zeroAt (bs : List Byte) (off n : Nat) : Bool := leAt bs off n == 0

/-! ### Step 1: header, directory, digest (R78 to R80, R96) -/

/-- A whole number of entries, and no size zero that R79 refuses. -/
def dirWhole (im : Image) (i : Nat) : Bool :=
  let n := im.secSize i
  if i = 10 || i = 11 then n != 0 && n % 8 == 0
  else if i = 12 then n % 2 == 0 && (n != 0 || im.mbCount == 0)
  else if i = 13 || i = 14 then n == 0 || (decide (16 ≤ n) && (n - 16) % secEntry i == 0)
  else if i = 15 then decide (40 ≤ n) && n == 40 + 16 * (leAt im (im.secOff 15 + 32) 8 % 2 ^ 13)
  else n % secEntry i == 0

def dirOk (im : Image) (i : Nat) : Bool :=
  let o := im.secOff i
  let n := im.secSize i
  let me := (o, n)
  o % 8 == 0 && decide (o + n ≤ leAt im 8 4) && dirWhole im i && !rangesMeet me (0, 256)
    && (List.range i).all fun j => !rangesMeet me (im.secOff j, im.secSize j)

/-- IMAGE_DIGEST over the image with its own field zero (R80). -/
def imageDigest (im : Image) : List Byte :=
  (shake256 (im.take 0xC0 ++ List.replicate 32 0 ++ im.drop 0xE0)).take 32

def AdEnv.step1 (v : AdEnv) : Option Rej :=
  let im := v.im
  let size := leAt im 8 4
  firstOf [
    need (decide (256 ≤ v.size) && leAt im 0 4 == 0x4B505256) ⟨Code.format, 0, 0, noIdx, 0, 0⟩,
    need (leAt im 4 2 == 2) ⟨Code.version, 0, 0, noIdx, 0, 0⟩,
    need (leAt im 6 2 == 0x100 && decide (size ≤ 2 ^ 28) && size == v.size) ⟨Code.format, 0, 0, noIdx, 0, 0⟩,
    each (List.range 16) fun i _ => need (dirOk im i) ⟨Code.format, 0, i, noIdx, 0, 0⟩,
    need (imageDigest im == im.digest) ⟨Code.digest, 0, 0, noIdx, 0, 0⟩]

/-! ### Step 2: reserved fields and encodings (R13, R14) -/

/-- Pairs of ACTION and UNIT (R82). -/
def pairOk (die act unit : Nat) : Bool :=
  if act = 0 then true
  else if die < 4 then
    match act with
    | 1 => decide (unit ≤ 1)
    | 2 => unit == 2
    | 3 => unit == 3 || unit == 4
    | 4 => decide (0x10 ≤ unit) && decide (unit ≤ 0x2F)
    | 5 | 6 => decide (0x30 ≤ unit) && decide (unit ≤ 0x33)
    | _ => false
  else match act with
    | 4 => decide (0x10 ≤ unit) && decide (unit ≤ 0x17)
    | 5 | 6 => unit == 0x30
    | 7 | 8 => unit == 0x40
    | 9 | 10 | 11 => unit == 0x41
    | _ => false

def isXpb (d : List Byte) : Bool := vxOp d == 0x50 || vxOp d == 0x51

/-- A slot entry (R81, R82, R180, R206). -/
def AdEnv.slotReserved (v : AdEnv) (die : Nat) (e : SlotEntry) : Bool :=
  let im := v.im
  bit (leAt e.raw 4 4) 31 || bits (leAt e.raw 12 4) 31 29 != 0 || !pairOk die e.action e.unit
    || ((e.action == 2 || e.action == 3) && decide (e.operand < im.count 8)
        && isXpb (v.p.vxop e.operand) != (e.action == 3))
    || (e.action == 4 && decide (e.operand < im.count 6) && descKind (v.p.stream e.operand) == 6)

/-- A STREAM entry or a receiver list (R205, R206). -/
def streamReserved (b : List Byte) : Bool :=
  let w0 := leAt b 0 4
  if descKind b = 6 then
    w0 / 16 != 0 || !zeroAt b 4 12 || (List.range 16).any fun j =>
      let w := leAt b (16 + 3 * j) 3
      let t := rcvTarget w
      bits w 7 6 != 0 || bit w 23 || !(decide (t ≤ 5) || (decide (0x10 ≤ t) && decide (t ≤ 0x21)))
  else
    decide (descKind b > 6) || descPattern b == 3 || bits w0 11 9 != 0 || bits w0 31 24 != 0 || leAt b 7 1 != 0 || bits (leAt b 8 4) 31 21 != 0
      || !zeroAt b 14 2 || bits (leAt b 32 4) 31 28 != 0 || bits (leAt b 36 4) 31 28 != 0
      || bits (leAt b 40 4) 31 28 != 0 || bits (leAt b 44 4) 31 28 != 0 || bit (leAt b 48 2) 15 || !zeroAt b 50 14

/-- Format pairs of R112 (R115). -/
def pairFmt (fs fm : Nat) : Bool :=
  if fs = 1 || fs = 2 then fm == 1 || fm == 2 else decide (3 ≤ fs) && decide (fs ≤ 6) && fs == fm

/-- A PASS entry (R115, R117, R156, R170). -/
def passReserved (t2 : Bool) (b : List Byte) : Bool :=
  let sc := passScale b
  !pairFmt (passFmtS b) (passFmtM b) || passSrc b == 3 || passOutFmt b == 3 || bits (leAt b 0 4) 31 16 != 0
    || bits (leAt b 4 4) 15 13 != 0 || bits (leAt b 4 4) 31 28 != 0 || bits (leAt b 8 4) 15 11 != 0
    || bits (leAt b 8 4) 31 25 != 0 || bits (leAt b 12 4) 31 17 != 0 || bits (leAt b 16 4) 31 28 != 0
    || bits (leAt b 20 4) 31 20 != 0 || bits (leAt b 24 4) 31 28 != 0 || bits (leAt b 28 4) 31 17 != 0
    || bit sc 5 || bits sc 7 6 == 3 || bit sc 19 || bit sc 31 || bit sc 63 || !zeroAt b 40 24
    || (t2 && passFmtS b == 4)

def vxOpcodes : List Nat :=
  [0x01, 0x02, 0x03, 0x04, 0x05, 0x06, 0x10, 0x11, 0x12, 0x13, 0x20, 0x28, 0x29, 0x2A, 0x30, 0x31, 0x32, 0x33, 0x34,
   0x38, 0x39, 0x40, 0x50, 0x51]

def isCvt (d : List Byte) : Bool := decide (0x10 ≤ vxOp d) && decide (vxOp d ≤ 0x13)

/-- A VXOP entry (R159, R180, R190, R191, R198). -/
def vxReserved (b : List Byte) : Bool :=
  let op := vxOp b
  let f := leAt b 1 1
  let top (o : Nat) : Bool := bits (leAt b o 4) 31 28 != 0
  if !(vxOpcodes.contains op) then true
  else if op = 0x50 || op = 0x51 then
    f / 2 != 0 || !zeroAt b 3 1 || bits (leAt b 4 4) 31 10 != 0 || bits (leAt b 8 4) 15 11 != 0
      || bits (leAt b 8 4) 31 26 != 0 || top 12 || bits (leAt b 16 4) 31 20 != 0 || !zeroAt b 20 12
  else if op = 0x40 then f / 2 != 0 || !zeroAt b 2 2 || top 12 || top 16
  else if isCvt b then
    f % 16 == 0 || decide (f % 16 > 6) || bits (leAt b 2 2) 15 11 != 0 || top 4 || top 12 || top 16 || top 20 || top 24
  else
    bit f 7 || !zeroAt b 2 2 || bits (leAt b 4 4) 31 20 != 0 || bits (leAt b 8 4) 31 20 != 0 || top 12 || top 16 || top 20
      || top 24 || !zeroAt b 28 4 || (op == 0x20 && decide (f % 16 > 0xC))

/-- A DEP entry (R85). -/
def depReserved (b : List Byte) : Bool :=
  let w := leAt b 0 8
  bits w 7 3 != 0 || bits w 31 27 != 0 || bits w 63 48 != 0 || decide (bits w 2 0 > 5) || decide (bits w 26 24 > 5)

def depP (b : List Byte) : Nat × Nat := let w := leAt b 0 8; (bits w 2 0, bits w 23 8)
def depC (b : List Byte) : Nat × Nat := let w := leAt b 0 8; (bits w 26 24, bits w 47 32)

def segReserved (b : List Byte) : Bool :=
  decide (leAt b 2 1 > 1) || !([2, 3, 5].contains (leAt b 3 1)) || !zeroAt b 4 4

/-- The entries of one section, one by one. -/
def AdEnv.secReserved (v : AdEnv) (i : Nat) : Option Rej :=
  let bad (ok : List Byte → Bool) : Option Rej :=
    each (v.im.list i) fun k b => need (!ok b) ⟨Code.reserved, 0, i, k, 0, 0⟩
  let sec := v.im.sec i
  if i ≤ 5 then
    each (v.p.slots.getD i []) fun k e => need (!v.slotReserved i e) ⟨Code.reserved, i, i, k, 0, 0⟩
  else match i with
    | 6 => bad streamReserved
    | 7 => bad (passReserved v.s.t2)
    | 8 => bad vxReserved
    | 9 => bad depReserved
    | 10 => bad segReserved
    | 11 => bad fun b => leAt b 0 8 / 2 ^ 21 != 0
    | 12 => bad fun b => leAt b 0 2 / 8 != 0
    | 13 => firstOf [need (zeroAt sec 2 14) ⟨Code.reserved, 0, 13, noIdx, 0, 0⟩,
        bad fun b => decide (leAt b 4 1 > 1) || !zeroAt b 5 3 || !zeroAt b 24 8]
    | 14 => firstOf [need (zeroAt sec 4 12) ⟨Code.reserved, 0, 14, noIdx, 0, 0⟩,
        bad fun b => !([1, 2, 3].contains (updRule b)) || !([1, 2].contains (updFmt b)) || !zeroAt b 49 15]
    | _ => need (((List.range 4).all fun h => zeroAt sec (8 * h + 6) 2) && leAt sec 32 8 / 2 ^ 13 == 0)
        ⟨Code.reserved, 0, 15, noIdx, 0, 0⟩

def AdEnv.step2 (v : AdEnv) : Option Rej :=
  let im := v.im
  firstOf [
    need (leAt im 0x0C 4 / 2 == 0 && zeroAt im 0x28 8 && zeroAt im 0xB0 16 && zeroAt im 0xE0 32)
      ⟨Code.reserved, 0, 0, noIdx, 0, 0⟩,
    each (List.range 16) fun i _ => v.secReserved i]

/-! ### Step 3: mode and interval -/

def AdEnv.step3 (v : AdEnv) : Option Rej :=
  firstOf [
    need (bit (leAt v.im 0x0C 4) 0 == v.s.t2) ⟨Code.mode, 0, 0, noIdx, 0, 0⟩,
    need (v.im.knotInt == v.s.g .grid F.GRID_EFF_INT_INTERVAL) ⟨Code.interval, 0, 0, noIdx, 0, 0⟩]

/-! ### Step 4: counts, segments, classes (R78, R79, R86, R91, R94 to R96, R176) -/

def AdEnv.counts (v : AdEnv) : Option Rej :=
  let im := v.im
  let segs := im.segments
  let range (sec slot : Nat) : Rej := ⟨Code.range, 0, sec, slot, 0, 0⟩
  firstOf [
    need (v.policyOk) (range 0 noIdx),
    need (decide (1 ≤ im.segCount) && decide (im.segCount ≤ 16) && decide (1 ≤ im.lcCount) && decide (im.lcCount ≤ 8)
      && decide (im.mbCount ≤ 2047) && decide (im.rank ≤ im.rankM1) && decide (im.rankM1 ≤ 32767)) (range 0 noIdx),
    each (List.range 16) fun i _ => need (decide (im.count i ≤ secMost i)) (range i noIdx),
    need (im.count 10 == im.segCount) (range 10 noIdx),
    need (im.count 11 == im.lcCount) (range 11 noIdx),
    need (im.count 12 == im.mbCount) (range 12 noIdx),
    need (im.secSize 13 == 0 || leAt (im.sec 13) 0 2 == im.count 13) (range 13 noIdx),
    need (im.secSize 14 == 0 || leAt (im.sec 14) 0 4 == im.count 14) (range 14 noIdx),
    each segs fun k g => firstOf [
      need (g.ref != 0) (range 10 k),
      need (k == 0 || (match segs[k - 1]? with | some q => decide (q.phase ≤ g.phase) | none => true))
        ⟨Code.order, 0, 10, k, 0, 0⟩,
      need (!g.scaled || g.phase == 2) ⟨Code.order, 0, 10, k, 0, 0⟩],
    (let sum := (segs.map (·.ref)).foldl (· + ·) 0
     need (leAt im 0x24 4 == sum && decide (sum ≤ 65535)) (range 0 noIdx)),
    each (im.list 11) fun k b => need (leAt b 0 4 != 0 && decide (leAt b 0 4 ≤ 2 ^ 20)) (range 11 k),
    each (im.list 12) fun k b => need (decide (leAt b 0 2 < im.lcCount)) (range 12 k),
    each (im.list 15) fun k b => need (decide ((memRange b).1 < 2 ^ 48) && (memRange b).2 != 0) (range 15 k)]

/-! ### Step 4: slot tables (R81 to R86, R118, R128, R131, R133, R198, R206, R289, R311) -/

/-- Index of the segment that holds a reference position; a deadline may equal its end. -/
def segAt (interval : Nat) (dl : Bool) (pos : Nat) : List Segment → Nat → Nat → Option Nat
  | [], _, _ => none
  | g :: gs, r, i =>
    let lo := r * interval
    let hi := (r + g.ref) * interval
    if (if dl then decide (lo < pos) && decide (pos ≤ hi) else decide (lo ≤ pos) && decide (pos < hi)) then some i
    else segAt interval dl pos gs (r + g.ref) (i + 1)

/-- Reference knot at which a segment starts. -/
def segStart (segs : List Segment) (i : Nat) : Nat := ((segs.take i).map (·.ref)).foldl (· + ·) 0

/-- Bound of an OPERAND, by action; none where it must be zero (R82). -/
def Image.operands (im : Image) (act : Nat) : Option Nat :=
  match act with
  | 1 => some (im.count 7)
  | 2 | 3 => some (im.count 8)
  | 4 | 5 | 6 => some (im.count 6)
  | 7 => some (im.count 13)
  | 9 | 10 | 11 => some (im.count 14)
  | _ => none

def slotIndexOf (e : SlotEntry) : Nat := if e.action = 10 then e.operand % 2 ^ 16 else e.operand

/-- Ranges of one slot: positions, indexes, the kinds of the streams it names (R81, R82, R86, R198, R206, R311). CHAIN on a
slot that is no array pass has no code of its own: RANGE (log entry 14, DESIGN CHOICE). -/
def AdEnv.slotRange (v : AdEnv) (die : Nat) (e : SlotEntry) : Bool :=
  let im := v.im
  let ki := im.knotInt
  let k := slotIndexOf e
  decide (e.knotOfs < leAt im 0x24 4) && decide (e.startNs < ki) && decide (e.dlNs < ki)
    && (decide (e.mb < im.mbCount) || e.mb == noMb) && (!e.chain || e.action == 1)
    && (match im.operands e.action with | some n => decide (k < n) | none => e.operand == 0)
    && (match e.action with
      | 1 =>
        let d := v.p.pass k
        let n := im.count 6
        let st := passStream d
        let sl := passStat d
        (st == noIdx || (decide (st < n) && descKind (v.p.stream st) == 1 && descArray (v.p.stream st) == e.unit))
          && (sl == noIdx || (decide (sl < n) && descKind (v.p.stream sl) == 2 && descArray (v.p.stream sl) == e.unit))
      | 2 => vxOp (v.p.vxop k) != 0x40 || e.mb != noMb
      | 4 => decide (die < 4) || !(descKind (v.p.stream k) == 1 || descKind (v.p.stream k) == 2)
      | 5 => descKind (v.p.stream k) == 3 || descKind (v.p.stream k) == 5
      | 6 => descKind (v.p.stream k) == 4
      | 10 => if updFmt (v.p.block k) = 1 then e.operand / 2 ^ 27 == 0 else e.operand / 2 ^ 16 == 0
      | _ => true)

/-- Phase that an action's slots must lie in (R86). -/
def phaseOf (act : Nat) : Option Nat :=
  match act with
  | 7 | 8 => some 3
  | 9 | 10 => some 5
  | 11 => some 2
  | _ => none

/-- Place of one slot: start and deadline in one segment of the right phase; a VERDICT in the last PHASE 3 segment with
the verdict knot as its deadline (R83, R86). -/
def AdEnv.slotPlace (v : AdEnv) (e : SlotEntry) : Bool :=
  let im := v.im
  let ki := im.knotInt
  let segs := im.segments
  let ps := e.knotOfs * ki + e.startNs
  let pd := (e.knotOfs + e.dlKnots) * ki + e.dlNs
  match segAt ki false ps segs 0 0, segAt ki true pd segs 0 0 with
  | some i, some j =>
    i == j && decide (ps < pd)
      && (match phaseOf e.action with | some ph => ((segs[i]?.map (·.phase)) == some ph) | none => true)
      && (e.action != 8 ||
        (let five := (segs.takeWhile fun g => g.phase != 5).length
         decide (five < segs.length) && i + 1 == five && pd == segStart segs five * ki))
  | _, _ => false

/-- Slots of a table before slot k that share its key do so in table order; keys never fall (R83). -/
def slotsOrdered : List SlotEntry → Nat → Nat → Option Nat
  | [], _, _ => none
  | e :: r, i, prev =>
    let key := e.knotOfs * 2 ^ 20 + e.startNs
    if key < prev then some i else slotsOrdered r (i + 1) key

def AdEnv.tableCheck (v : AdEnv) (die : Nat) : Option Rej :=
  let tab := v.p.slots.getD die []
  firstOf [
    each tab fun k e => need (v.slotRange die e) ⟨Code.range, die, die, k, 0, 0⟩,
    each tab fun k e => need (v.slotPlace e) ⟨Code.order, die, die, k, 0, 0⟩,
    (match slotsOrdered tab 0 0 with | some k => some ⟨Code.order, die, die, k, 0, 0⟩ | none => none),
    need (decide (die < 4) || (tab.filter fun e => e.action == 8).length == (if hasPhase5 v.im.segments then 1 else 0))
      ⟨Code.order, die, die, noIdx, 0, 0⟩]

/-- Array passes of one array in table order, with their slot indexes. -/
def Pricking.passesOf (p : Pricking) (die unit : Nat) : List (Nat × SlotEntry) :=
  let tab := p.slots.getD die []
  ((List.range tab.length).zip tab).filter fun x => x.2.action == 1 && x.2.unit == unit

/-- Kinds of the drain rows: rows whose last writer was an exact pass, or an FP32 pass (R131). -/
structure RowKinds where
  exact : List (Nat × Nat) := []
  fp : List (Nat × Nat) := []

def cutRange (a : Nat × Nat) : List (Nat × Nat) → List (Nat × Nat)
  | [] => []
  | b :: r =>
    let lo := (b.1, min (b.1 + b.2) a.1 - b.1)
    let hi := (max b.1 (a.1 + a.2), b.1 + b.2 - max b.1 (a.1 + a.2))
    (if rangesMeet a b then [lo, hi].filter (fun x : Nat × Nat => x.2 != 0) else [b]) ++ cutRange a r

/-- The passes of one array in order: V = 0 and CHAIN (R118), the first pass and tiles (R128), row kinds (R131). -/
def AdEnv.arrayOrder (v : AdEnv) (die : Nat) :
    Bool → RowKinds → Option Nat → List (Nat × SlotEntry) → Option Rej
  | _, _, _, [] => none
  | first, rows, lastK, (k, e) :: r =>
    let d := v.p.pass e.operand
    let next := match r with | x :: _ => x.2.chain | [] => false
    let reg := (passRow d, passV d)
    let fp := decide (5 ≤ passFmtS d)
    let other := if fp then rows.exact else rows.fp
    let range : Rej := ⟨Code.range, die, die, k, 0, 0⟩
    let unit : Rej := ⟨Code.unit, die, die, k, 0, 0⟩
    match firstOf [
      need (passV d != 0 || !(e.chain || next)) range,
      need (passInits d || !(other.any (rangesMeet reg))) range,
      need (!first || (passSwap d && !e.chain)) unit,
      need (passSwap d || passK d == 0 || lastK != some 0) unit] with
    | some x => some x
    | none =>
      let ex := cutRange reg rows.exact
      let f := cutRange reg rows.fp
      v.arrayOrder die false (if fp then ⟨ex, reg :: f⟩ else ⟨reg :: ex, f⟩)
        (if passSwap d then some (passK d) else lastK) r

/-- STREAM indexes that the passes of an array name (R133). -/
def AdEnv.passStreams (v : AdEnv) (die unit : Nat) : List (Nat × Nat) :=
  ((v.p.passesOf die unit).filter fun x => decide (x.2.operand < v.im.count 7)).flatMap fun x =>
    let d := v.p.pass x.2.operand
    ([passStream d, passStat d].filter (· != noIdx)).map fun i => (x.1, i)

/-- A STREAM index is named by the passes of one array only (R133). -/
def AdEnv.sharedStreams (v : AdEnv) : Option Rej :=
  each (List.range 4) fun die _ =>
    match (v.passStreams die 1).find? fun x => (v.passStreams die 0).any fun y => y.2 == x.2 with
    | some x => some ⟨Code.unit, die, die, x.1, 0, 0⟩
    | none => none

def AdEnv.arraysCheck (v : AdEnv) : Option Rej :=
  each (List.range 4) fun die _ => firstOf [
    v.arrayOrder die true {} none (v.p.passesOf die 0),
    v.arrayOrder die true {} none (v.p.passesOf die 1)]

/-- Every STREAM slot of a descriptor lies on one bobbin (R213). -/
def AdEnv.oneBobbin (v : AdEnv) : Option Rej :=
  let all := (List.range 6).flatMap fun d =>
    let tab := v.p.slots.getD d []
    ((List.range tab.length).zip tab).filterMap fun x =>
      if x.2.action = 4 then some (x.2.operand, d, x.2.unit, x.1) else none
  match all.find? fun x => all.any fun y => y.1 == x.1 && (decide (y.2.1 < x.2.1) ||
      (y.2.1 == x.2.1 && y.2.2.1 != x.2.2.1 && decide (y.2.2.2 < x.2.2.2))) with
  | some x => some ⟨Code.unit, x.2.1, x.2.1, x.2.2.2, 0, 0⟩
  | none => none

/-! ### Step 4: transposing buffers (R179, R183) -/

/-- A tile of a transposing buffer: the slot that loads it, its VXOP entry, and the slots that read it in order. -/
structure XpbTile where
  load : Nat
  d : List Byte
  readers : List Nat := []
deriving DecidableEq, Repr

def XpbTile.full (t : XpbTile) : Bool := decide (leAt t.d 2 1 ≤ t.readers.length)

/-- Readers and loads of one buffer in table order: each reader takes the oldest tile with reads left; a load needs the
readers of the tile two before it to be done (R183). -/
def xpbAssign (p : Pricking) (die b : Nat) : List (Nat × SlotEntry) → List XpbTile → Except Rej (List XpbTile)
  | [], ts => .ok ts
  | (k, e) :: r, ts =>
    let dep : Rej := ⟨Code.dependency, die, die, k, 0, 0⟩
    let vx := p.vxop e.operand
    let load := e.action == 3 && e.unit == 3 + b && vxOp vx == 0x50
    let store := e.action == 3 && e.unit == 3 + b && vxOp vx == 0x51
    let d := p.pass e.operand
    let pass := e.action == 1 && passSrc d == b + 1 && passV d != 0
    if load then
      if decide (2 ≤ ts.length) && !((ts.getD (ts.length - 2) ⟨0, [], []⟩).full) then .error dep
      else xpbAssign p die b r (ts ++ [⟨k, vx, []⟩])
    else if store || pass then
      match ts.findIdx? fun t => !t.full with
      | none => .error dep
      | some i => xpbAssign p die b r (ts.modify i fun t => { t with readers := t.readers ++ [k] })
    else xpbAssign p die b r ts

def Pricking.xpbTiles (p : Pricking) (die b : Nat) : Except Rej (List XpbTile) :=
  let tab := p.slots.getD die []
  xpbAssign p die b ((List.range tab.length).zip tab) []

/-- Is a reader's width that of the tile, and does a store fit it (R179, R180, R181)? -/
def readerFits (p : Pricking) (die : Nat) (t : XpbTile) (k : Nat) : Bool :=
  let w16 := bit (leAt t.d 1 1) 0
  match p.slot die k with
  | none => true
  | some e =>
    if e.action = 1 then decide (5 ≤ passFmtS (p.pass e.operand)) == w16
    else
      let d := p.vxop e.operand
      let row := bits (leAt d 4 4) 9 0 * (if w16 then 2 else 1)
      row % 64 == 0 && decide (row ≤ bits (leAt d 16 4) 19 0)
        && decide (bits (leAt d 8 4) 10 0 ≤ if w16 then 512 else 1024)

def AdEnv.xpbCheck (v : AdEnv) : Option Rej :=
  each (List.range 8) fun q _ =>
    match v.p.xpbTiles (q / 2) (q % 2) with
    | .error r => some r
    | .ok ts => each ts fun _ t => each t.readers fun _ k =>
        need (readerFits v.p (q / 2) t k) ⟨Code.range, q / 2, q / 2, k, 0, 0⟩

/-- Width of the tile that a store slot reads: 16-bit? -/
def Pricking.storeW16 (p : Pricking) (die k : Nat) : Bool :=
  match p.slot die k with
  | none => false
  | some e => match p.xpbTiles die (e.unit - 3) with
    | .ok ts => match ts.find? fun t => t.readers.contains k with
      | some t => bit (leAt t.d 1 1) 0
      | none => false
    | .error _ => false

/-! ### Step 4: streams (R205 to R210, R245) -/

/-- Dies that run a slot on entry i of a section, with the slot. -/
def Pricking.users (p : Pricking) (acts : List Nat) (i : Nat) : List (Nat × Nat × SlotEntry) :=
  (List.range 6).flatMap fun d =>
    let tab := p.slots.getD d []
    ((List.range tab.length).zip tab).filterMap fun x =>
      if acts.contains x.2.action && slotIndexOf x.2 == i then some (d, x.1, x.2) else none

def dieSramBytes (d : Nat) : Nat := if d < 4 then 2 ^ 28 else 2 ^ 26

/-- Is a DVA range inside one listed mapping (R96)? -/
def Image.listed (im : Image) (va n : Nat) : Bool :=
  (im.list 15).any fun b => decide ((memRange b).1 ≤ va) && decide (va + n ≤ (memRange b).1 + (memRange b).2)


/-- Bytes from the first to the last byte that n rows of rb bytes at a stride touch. -/
def rowSpan (n rb stride : Nat) : Nat := if n = 0 then 0 else (n - 1) * stride + rb

def descDstStep (d : List Byte) : Nat := if descDstStride d = 0 then descRowBytes d else descDstStride d

/-- Fields of a descriptor by kind (R205, R208, R209, R245). -/
def streamFields (d : List Byte) : Bool :=
  let k := descKind d
  let rb := descRowBytes d
  let buf := k == 1 || k == 3 || k == 4 || k == 5
  let pat := descPattern d
  let st := descSrcStride d
  let dst := descDstStride d
  decide (32 ≤ rb) && decide (rb ≤ 2 ^ 20) && rb % 32 == 0
    && (if buf then descTileRows d != 0 else descTileRows d == 0 && descLook d == 0 && descBuf d == 0)
    && (k == 1 || k == 2 || descArray d == 0) && (k == 5 || descRcv d == 0) && (k != 4 || descSrc d == 0)
    && (!(k == 1 || k == 2 || k == 3) || descDst d == 0) && (pat == 2 || descIndex d == 0)
    && (k == 3 || k == 4 || descPeer d == 0)
    && (if pat = 0 then st == 0 else if pat = 1 then decide (rb ≤ st) && st % 32 == 0 else st != 0)
    && (dst == 0 || (decide (rb ≤ dst) && dst % 32 == 0)) && (k != 2 || pat != 2)
    && decide (descSrc d < 2 ^ 48) && decide (descDst d < 2 ^ 48)

/-- The receiver list of a multicast on the dies that arm it, in the pricking of a rank (R205, R208). -/
def rcvOk (rank : Nat) (d l : List Byte) (dies : List Nat) : Bool :=
  let n := descRcv d + 1
  let ws := (List.range n).map fun j => leAt l (16 + 3 * j) 3
  let locals := (ws.map rcvTarget).filter (decide <| · < 6)
  descKind l == 6 && ws.all (· != 0) && ws.eraseDups.length == n && locals.eraseDups.length == locals.length
    && ((List.range 16).drop n).all (fun j => leAt l (16 + 3 * j) 3 == 0)
    && ws.all fun w =>
      let t := rcvTarget w
      if t < 6 then bits w 22 8 == rank
      else dies.all fun die => if die < 4 then decide (16 + 4 * die ≤ t) && decide (t < 20 + 4 * die) else t == 32 + (die - 4)

/-- Rows of rb bytes at a stride, as runs of DVA: one run when they are packed. -/
def rowRanges (va n rb stride : Nat) : List (Nat × Nat) :=
  if stride = rb then (if n = 0 then [] else [(va, n * rb)]) else (List.range n).map fun r => (va + r * stride, rb)

def descSrcStep (d : List Byte) : Nat := if descPattern d = 0 then descRowBytes d else descSrcStride d

def inMem (ps : List Page) (va n : Nat) (write : Bool) (ok : Mem → Bool) : Bool :=
  match walkRange ps write va n with
  | none => false
  | some rs => rs.all fun r => match memOf r.1 with | some m => ok m | none => false

/-- Where the buffer, the index list and a stationary image lie on the die that arms the stream (R206, R208, R210). -/
def AdEnv.streamPlace (v : AdEnv) (d : List Byte) (die : Nat) : Bool :=
  let im := v.im
  let k := descKind d
  let top := descBuf d + (descLook d + 1) * descSlotBytes d
  let lo := if die < 4 then im.act die * 2 ^ 20 else precBytes v.p v.s.pages (die - 4)
  let hi := if die < 4 then (im.act die + im.buf die) * 2 ^ 20 else 2 ^ 26
  (!(k == 1 || k == 3 || k == 4 || k == 5) || (decide (lo ≤ descBuf d) && decide (top ≤ hi)))
    && (descPattern d != 2 || decide (descIndex d + 4 * descRows d ≤ dieSramBytes die))
    && (k != 2 || (rowRanges (descSrc d) (descRows d) (descRowBytes d) (descSrcStep d)).all fun r =>
      inMem v.s.pages r.1 r.2 false (· == .sram die))

/-- Does a descriptor move rows to DST: a COPY, a LINK_IN, a multicast with a local receiver (R206, R217)? -/
def descHasDst (d l : List Byte) : Bool :=
  descKind d == 0 || descKind d == 4
    || (descKind d == 5 && (List.range (descRcv d + 1)).any fun j => decide ((rcvWord l j).1 < 6))

/-- Ranges in device virtual space lie in listed mappings (R207, R208). -/
def AdEnv.streamListed (v : AdEnv) (d l : List Byte) : Bool :=
  let im := v.im
  let n := descRows d
  let rb := descRowBytes d
  let src := if descPattern d = 2 then 1 else rowSpan n rb (if descPattern d = 0 then rb else descSrcStride d)
  n == 0 || ((descKind d == 4 || im.listed (descSrc d) src)
    && (!descHasDst d l || im.listed (descDst d) (rowSpan n rb (descDstStep d))))

/-- Passes that name the stream as feed or as stationary load, by PASS entry. -/
def AdEnv.passesNaming (v : AdEnv) (f : List Byte → Nat) (i : Nat) : List (List Byte) :=
  (v.im.list 7).filter fun d => f d == i

def AdEnv.streamOk (v : AdEnv) (i : Nat) (d : List Byte) : Bool :=
  let k := descKind d
  let dies := ((v.p.users [4] i).map (·.1)).eraseDups
  if k = 6 then i != 0 && descKind (v.p.stream (i - 1)) == 5
  else
    streamFields d && dies.all (v.streamPlace d) && v.streamListed d (v.p.stream (i + 1))
      && (k != 5 || (decide (i + 1 < v.im.count 6) && rcvOk v.p.rank d (v.p.stream (i + 1)) dies))
      && (v.passesNaming passStream i).all (fun p => descRowBytes d == if passFmtS p = 4 then 544 else 512)
      && (v.passesNaming passStat i).all fun p => descRows d * descRowBytes d == tileBytes (passFmtS p)

def AdEnv.streamsCheck (v : AdEnv) : Option Rej :=
  each (v.im.list 6) fun i d => need (v.streamOk i d) ⟨Code.range, 0, 6, i, 0, 0⟩

/-! ### Step 4: VXOP entries (R160, R162, R181, R188, R192, R198, R301) -/

def fFinitePos (x : Nat) : Bool := x != 0 && decide (x < 0x7F800000)

def cvtFields (d : List Byte) : Bool :=
  let op := vxOp d
  let f := leAt d 1 1
  let fmt := f % 16
  let fix := bits (leAt d 4 4) 27 20
  let group := bits (leAt d 8 4) 31 20
  let id := leAt d 28 4
  (if op = 0x10 || op = 0x11 then decide (1 ≤ fmt) && decide (fmt ≤ 3)
   else if op = 0x12 then fmt == 4 && vxLen d % 32 == 0 else fmt != 4)
    && (fix == 0 || (op == 0x13 && fix != 0x80))
    && (leAt d 2 2 % 2 ^ 11 == 0 || op == 0x10 || bit f 5 || bit f 7)
    && ((group != 0) == bit f 6) && (vxOff d 20 == 0 || op == 0x11 || op == 0x12) && (vxOff d 24 == 0 || bit f 6)
    && [12, 16, 20, 24].all (fun o => vxOff d o % 64 == 0)
    && !(bit f 4 && decide (0xF0000000 ≤ id) && decide (id ≤ 0xF000FFFF))

def dropFields (d : List Byte) : Bool :=
  let base := bits (leAt d 4 4) 31 20 + 2 ^ 12 * bits (leAt d 8 4) 31 20
  decide (base * 1024 + vxRows d * vxLen d ≤ 2 ^ 34) && fFinitePos (leAt d 24 4)
    && vxOff d 12 % 64 == 0 && vxOff d 16 % 64 == 0

def xpbFields (d : List Byte) : Bool :=
  let rows := bits (leAt d 4 4) 9 0
  let n := bits (leAt d 8 4) 10 0
  let stride := bits (leAt d 16 4) 19 0
  vxOff d 12 % 64 == 0 && stride % 64 == 0 &&
  (if vxOp d = 0x50 then
    leAt d 2 1 != 0 && decide (rows ≤ 512) && decide (64 ≤ n) && decide (n ≤ 1024) && n % 64 == 0 && decide (n ≤ stride)
  else
    leAt d 1 1 == 0 && leAt d 2 1 == 0 && bits (leAt d 8 4) 25 16 == 0 && rows != 0 && decide (rows ≤ 512) && n != 0
      && decide (n ≤ 1024))

def vecFields (d : List Byte) : Bool :=
  let op := vxOp d
  let f := leAt d 1 1
  let b := vxReadsB op
  let c := op == 4
  let red := decide (0x28 ≤ op) && decide (op ≤ 0x2A)
  (op == 0x20 || f % 16 == 0) && (b || (!bit f 4 && vxOff d 16 == 0)) && (c || (!bit f 5 && vxOff d 20 == 0))
    && vxOff d 12 % 64 == 0 && vxOff d 24 % (if red then 4 else 64) == 0
    && vxOff d 16 % (if bit f 4 then 4 else 64) == 0 && vxOff d 20 % (if bit f 5 then 4 else 64) == 0

/-- Regions inside the Hoop's SRAM; within one entry the destination is its A region exactly, and a region read meets it
only where it is that region too; no two regions written meet (R188). -/
def vxRegions (d : List Byte) : Bool :=
  let rd := vxReads d
  let wr := vxWrites false d
  (rd ++ wr).all (fun r => decide (r.1 + r.2 ≤ 2 ^ 28))
    && (vxOp d == 0x51 || (List.range wr.length).all fun i =>
      let w := wr.getD i (0, 0)
      rd.all (fun r => !rangesMeet w r || (i == 0 && w == rd.getD 0 (0, 0) && w == r))
        && ((wr.drop (i + 1)).all fun x => !rangesMeet w x))

def vxFields (d : List Byte) : Bool :=
  (if isXpb d then xpbFields d
   else decide (vxLen d ≠ 0) && (if isCvt d then cvtFields d else if vxOp d = 0x40 then dropFields d else vecFields d))
    && vxRegions d

/-- Writes keep out of the stream buffers and the save area, reads out of the save area (R188). -/
def Image.hoopRegions (im : Image) (h : Nat) (reads writes : List (Nat × Nat)) : Bool :=
  let buf := (im.act h * 2 ^ 20, im.buf h * 2 ^ 20)
  let save := ((256 - im.save h) * 2 ^ 20, im.save h * 2 ^ 20)
  writes.all (fun r => decide (r.1 + r.2 ≤ 2 ^ 28) && !rangesMeet r buf && !rangesMeet r save)
    && reads.all fun r => !rangesMeet r save

/-- The format that a CVT_TENSOR, or an FP8 PUSH, gives a tensor scale entry (R162, R311). -/
def Pricking.scaleFmts (p : Pricking) : Table Nat :=
  let vx := (p.im.list 8).filterMap fun d => if vxOp d = 0x10 then some (leAt d 2 2 % 2 ^ 11, leAt d 1 1 % 16) else none
  let push := ((p.slots.getD 4 []) ++ (p.slots.getD 5 [])).filterMap fun e =>
    if e.action = 10 && updFmt (p.block (e.operand % 2 ^ 16)) = 1 then some (bits e.operand 26 16, 1) else none
  vx ++ push

def AdEnv.vxopsCheck (v : AdEnv) : Option Rej :=
  let fmts := v.p.scaleFmts
  each (v.im.list 8) fun i d => firstOf [
    need (vxFields d && (vxOp d != 0x10 ||
      fmts.all fun x => x.1 != leAt d 2 2 % 2 ^ 11 || x.2 == leAt d 1 1 % 16)) ⟨Code.range, 0, 8, i, 0, 0⟩,
    each (v.p.users [2, 3] i) fun _ u =>
      need (decide (4 ≤ u.1) || v.im.hoopRegions u.1 (vxReads d) (vxWrites (v.p.storeW16 u.1 u.2.1) d))
        ⟨Code.range, u.1, 8, i, 0, 0⟩]

/-! ### Step 4: PASS entries (R117, R118, R145, R147, R171, R179, R183, R188) -/


def passFields (d : List Byte) : Bool :=
  let fs := passFmtS d
  let v := passV d
  let k := passK d
  let xb := passSrc d != 0
  let st := passStream d
  let out := passWrites d
  let int32 := passOutFmt d == 2
  decide (v ≤ 4096) && decide (passRow d + v ≤ 4096) && decide (k ≤ kMax fs) && passN d != 0 && decide (passN d ≤ nMax fs)
    && (fs != 4 || k % 32 == 0) && (v != 0 || !passSwap d)
    && (k != 0 || (st == noIdx && !xb)) && (k == 0 || v == 0 || ((st != noIdx) != xb))
    && ((passStat d != noIdx) == (passSwap d && k != 0))
    && (!passBias d || passInits d) && (passBias d || passBiasSram d == 0) && passBiasSram d % 4 == 0
    && (!passBias d || decide (passBiasSram d + 4 * v ≤ 2 ^ 28))
    && (!int32 || (fs == 3 && !passBias d)) && !(decide (5 ≤ fs) && passScale d != 0)
    && !(xb && (fs == 4 || decide (1024 < v)))
    && (if out then decide (64 ≤ passStride d) && decide (passStride d ≤ 1048512) && passStride d % 64 == 0
          && passOut d % 64 == 0 && decide (passOut d + v * passStride d ≤ 2 ^ 28)
        else passOut d == 0 && passStride d == 0 && passOutFmt d == 0)

/-- KIND of channel entry n of a Hoop (R176). -/
def State.chanKind (s : State) (h n : Nat) : Nat := s.g (.vec h) (F.VEC_CHS_CTL_KIND n)

/-- SCALE_CTL (R171); channel entries as they stand in the Hoops that run the pass. -/
def AdEnv.scaleOk (v : AdEnv) (d : List Byte) (hoops : List Nat) : Bool :=
  let c := passScale d
  let fs := passFmtS d
  let tsS := bit c 0
  let tsM := bit c 1
  let rowS := bit c 2
  let chan := bit c 3
  let base := bits c 43 32
  let int32 := passOutFmt d == 2
  let names (i fmt : Nat) : Bool := (v.im.list 8).any fun x =>
    vxOp x == 0x10 && leAt x 2 2 % 2 ^ 11 == i && leAt x 1 1 % 16 == fmt
  let used := if bit c 4 then [base] else (List.range (passV d)).map (base + ·)
  c == 0 || (passWrites d && !(fs == 4 && (tsS || tsM || rowS))
    && (!tsS || names (bits c 18 8) fs) && (!tsM || names (bits c 30 20) (passFmtM d))
    && (!rowS || (decide (fs ≤ 3) && decide (bits c 62 44 * 512 + nMax fs ≤ 2 ^ 28)))
    && (chan || !bit c 4) && (!chan || used.all fun n => decide (n < 4096))
    && (if int32 then chan && !tsS && !tsM && !rowS else bits c 7 6 == 0)
    && (!chan || hoops.all fun h => used.all fun n => v.s.chanKind h n == if int32 then 1 else 0))

def passWriteRegions (d : List Byte) : List (Nat × Nat) := if passWrites d then [(passOut d, passV d * passStride d)] else []
def passReadRegions (d : List Byte) : List (Nat × Nat) :=
  (if passBias d then [(passBiasSram d, 4 * passV d)] else [])
    ++ (if bit (passScale d) 2 then [(bits (passScale d) 62 44 * 512, nMax (passFmtS d))] else [])

def AdEnv.passesCheck (v : AdEnv) : Option Rej :=
  each (v.im.list 7) fun i d =>
    let hoops := ((v.p.users [1] i).map (·.1)).eraseDups
    let named (k : Nat) : Bool := k == noIdx || decide (k < v.im.count 6)
    firstOf [
      need (passFields d && named (passStream d) && named (passStat d) && v.scaleOk d hoops) ⟨Code.range, 0, 7, i, 0, 0⟩,
      each hoops fun _ h => need (v.im.hoopRegions h (passReadRegions d) (passWriteRegions d)) ⟨Code.range, h, 7, i, 0, 0⟩]

/-! ### Step 4: dependencies, reduction, update (R85, R94, R95, R175, R289, R301, R305 to R307, R313) -/

/-- Slots declared as producers of a slot. -/
def Pricking.producers (p : Pricking) (die k : Nat) : List (Nat × Nat) :=
  ((p.im.list 9).filter fun b => depC b == (die, k)).map depP

def AdEnv.depsCheck (v : AdEnv) : Option Rej :=
  let has (x : Nat × Nat) : Bool := (v.p.slot x.1 x.2).isSome
  each (v.im.list 9) fun k b => need (has (depP b) && has (depC b)) ⟨Code.range, 0, 9, k, 0, 0⟩

/-- Stage that a REDUCE slot performs: 1 SEAL, 2 SUM, 3 FINISH (R285). -/
def Pricking.stage (p : Pricking) (die i : Nat) (e : SlotEntry) : Nat :=
  stageOf (p.rankM1 + 1) p.rank (stageIndex (p.slots.getD die []) i e.operand)

def stageCount (p : Pricking) : Nat := if p.rank < p.rankM1 then 3 else 2

def AdEnv.reduceCheck (v : AdEnv) : Option Rej :=
  let p := v.p
  firstOf [
    each (v.im.list 13) fun b e => firstOf [
      need (decide (bucketElems e ≤ 2097152) && bucketSrc e % 64 == 0 && decide (bucketSrc e < 2 ^ 48)
        && decide (bucketDst e < 2 ^ 48)) ⟨Code.range, 0, 13, b, 0, 0⟩,
      each (p.users [7] b) fun _ u => need (u.1 == 4 + leAt e 4 1) ⟨Code.unit, u.1, 13, b, 0, 0⟩,
      need ((p.users [7] b).length == stageCount p) ⟨Code.range, 0, 13, b, 0, 0⟩],
    each [4, 5] fun _ die =>
      let tab := p.slots.getD die []
      match tab.findIdx? fun e => e.action == 8 with
      | none => none
      | some vs => each tab fun k e =>
          need (e.action != 7 || p.stage die k e != 3 || (p.producers die vs).contains (die, k))
            ⟨Code.order, die, die, k, 0, 0⟩]

/-- Finite and zero or above; in 0 to below 1; at least 2^-126 (R305, R306). -/
def fNonNeg (x : Nat) : Bool := decide (x < 0x7F800000) || x == 0x80000000
def fUnit (x : Nat) : Bool := decide (x < 0x3F800000) || x == 0x80000000
def fNormal (x : Nat) : Bool := decide (0x00800000 ≤ x) && decide (x < 0x7F800000)

def updFields (e : List Byte) : Bool :=
  let h := updHyper e
  let n := updRecords e
  decide (1 ≤ n) && decide (n ≤ 262144) && updVa e % 8 == 0 && updPushVa e % 64 == 0 && decide (updVa e < 2 ^ 48)
    && decide (updPushVa e < 2 ^ 48) && decide (-64 ≤ updExp e) && decide (updExp e ≤ 63)
    && fNonNeg (h 0) && fUnit (h 1) && fNonNeg (h 4)
    && (if updRule e = 1 then h 2 == 0 && h 3 == 0 else fUnit (h 2) && fNormal (h 3))
    && (if updRule e = 3 then
        decide (1 ≤ updDim e) && decide (updDim e ≤ 256) && [1, 2, 4].contains (updP e) && decide (1 ≤ updIters e)
          && decide (updIters e ≤ 32) && updEvery e != 0 && 32 * n % updDim e == 0
      else updDim e == 0 && updP e == 0 && updIters e == 0 && updEvery e == 0)

def AdEnv.updateCheck (v : AdEnv) : Option Rej :=
  let fmts := v.p.scaleFmts
  firstOf [
    each (v.im.list 14) fun b e => need (updFields e) ⟨Code.range, 0, 14, b, 0, 0⟩,
    each [4, 5] fun _ die => each (v.p.slots.getD die []) fun k e =>
      need (e.action != 10 || updFmt (v.p.block (e.operand % 2 ^ 16)) != 1 ||
        fmts.all fun x => x.1 != bits e.operand 26 16 || x.2 == 1) ⟨Code.range, die, die, k, 0, 0⟩]

/-- Readings: log entry 14, DEDUCED. -/
def AdEnv.step4 (v : AdEnv) : Option Rej :=
  firstOf [v.counts, v.sharedStreams, each (List.range 6) fun d _ => v.tableCheck d, v.arraysCheck, v.oneBobbin,
    v.streamsCheck, v.vxopsCheck, v.passesCheck, v.xpbCheck, v.depsCheck, v.reduceCheck, v.updateCheck]

end Sys2Proof.Machine
end

