-- ==== Sys2Proof/Machine/AdmitTiming.lean ====
section
/-! DEFINITION. Admission, steps 5 and 6 of R98: the MEMORY partitions and mappings, the charges, paths and windows, and
the demand test at one pace class (R84, R85, R88 to R90, R96, R98 to R103, R128, R129, R133, R166, R183, R185, R188,
R208, R210, R211, R213, R215, R217, R226, R245, R246, R256, R257, R282, R289, R293, R299 to R301, R311, R336). -/

namespace Sys2Proof.Machine

/-! ### Regions of a slot, in device physical addresses (R188, R210, R245, R282, R299, R300) -/

/-- Bytes that a slot reads or writes; `held` regions stay in use until the slot's last consumer is due (R210, R300). -/
structure Region where
  lo : Nat
  hi : Nat
  write : Bool
  held : Bool := false
deriving DecidableEq, Repr

def Region.meets (a b : Region) : Bool := decide (a.lo < b.hi) && decide (b.lo < a.hi)

/-- Mapped parts of a DVA range (a range checked before is mapped whole). -/
def vaRuns (ps : List Page) (va n : Nat) : List (Nat × Nat) := (walkRange ps false va n).getD []

def vaRegion (ps : List Page) (va n : Nat) (write held : Bool) : List Region :=
  (vaRuns ps va n).map fun r => ⟨r.1, r.1 + r.2, write, held⟩

def sramRegion (die off n : Nat) (write held : Bool) : List Region :=
  if n = 0 then [] else [⟨dieSram die + off, dieSram die + off + n, write, held⟩]

def rowsRegion (ps : List Page) (va n rb stride : Nat) (write : Bool) : List Region :=
  (rowRanges va n rb stride).flatMap fun r => vaRegion ps r.1 r.2 write false

def localsOf (d l : List Byte) : List Nat :=
  if descKind d = 5 then ((List.range (descRcv d + 1)).map fun j => (rcvWord l j).1).filter fun t => decide (t < 6) else []

/-- A multicast's destination as a local receiver has it (R217, log entry 21, DEDUCED). -/
def atDie (die : Nat) (r : Region) : Region :=
  match memOf r.lo with
  | some (.sram k) => { r with lo := dieSram die + (r.lo - dieSram k), hi := dieSram die + (r.hi - dieSram k) }
  | _ => r

def streamRegions (ps : List Page) (die : Nat) (d l : List Byte) : List Region :=
  let k := descKind d
  let n := descRows d
  let rb := descRowBytes d
  if n = 0 then []
  else
    let src := if k = 4 || descPattern d = 2 then [] else rowsRegion ps (descSrc d) n rb (descSrcStep d) false
    let dst := rowsRegion ps (descDst d) n rb (descDstStep d) true
    let dst := if k = 0 || k = 4 then dst else (localsOf d l).flatMap fun t => dst.map (atDie t)
    let buf := if k = 0 || k = 2 then [] else sramRegion die (descBuf d) ((descLook d + 1) * descSlotBytes d) true true
    src ++ dst ++ buf

/-- Block i of a bucket's work region (R282). -/
def blockRegion (ps : List Page) (e : List Byte) (i : Nat) (write : Bool) : List Region :=
  let q := blockQ (bucketElems e)
  vaRegion ps (bucketSrc e + i * q) q write false

def reduceRegions (p : Pricking) (ps : List Page) (stage : Nat) (e : List Byte) : List Region :=
  let node := nodeOf (p.rankM1 + 1) p.rank
  let blk := blockRegion ps e
  match stage with
  | 1 => blk 0 true
  | 2 => (match node with
    | some (1, _) => blk 0 false ++ blk 1 false
    | _ => blk 1 false ++ blk 2 false) ++ blk 3 true
  | _ => if p.rankM1 = 0 then blk 0 false ++ blk 3 true else blk 3 false

def AdEnv.regions (v : AdEnv) (die k : Nat) (e : SlotEntry) : List Region :=
  let p := v.p
  let ps := v.s.pages
  match e.action with
  | 1 =>
    let d := p.pass e.operand
    ((passReadRegions d).flatMap fun r => sramRegion die r.1 r.2 false false)
      ++ (passWriteRegions d).flatMap fun r => sramRegion die r.1 r.2 true false
  | 2 | 3 =>
    let d := p.vxop e.operand
    ((vxReads d).flatMap fun r => sramRegion die r.1 r.2 false false)
      ++ (vxWrites (e.action == 3 && p.storeW16 die k) d).flatMap fun r => sramRegion die r.1 r.2 true false
  | 4 => streamRegions ps die (p.stream e.operand) (p.stream (e.operand + 1))
  | 7 => reduceRegions p ps (p.stage die k e) (p.bucket e.operand)
  | 9 => sramRegion die 0x3000000 0x1000000 true true
  | 10 =>
    let b := p.block (e.operand % 2 ^ 16)
    sramRegion die 0x3000000 0x1000000 false false ++ vaRegion ps (updPushVa b) (updPushBytes b) true false
  | _ => []

/-- The index list that a GATHER reads: no region of R210, but bytes that its slot touches (R301). -/
def AdEnv.indexRegion (v : AdEnv) (die : Nat) (e : SlotEntry) : List Region :=
  let d := v.p.stream e.operand
  if e.action = 4 && descPattern d = 2 then sramRegion die (descIndex d) (4 * descRows d) false false else []

/-! ### Step 5 (R96, R246, R282, R289, R293, R301, R336) -/

/-- Frames of the digest rings that are kept (R293). -/
def State.ringFrames (s : State) : List (Nat × Nat) :=
  (List.range 2).filterMap fun k =>
    if s.gb (.red k) F.RED_RING_CTRL_EN then some (s.g2 (.red k) F.RED_RING_BASE_LO_BASE_LO F.RED_RING_BASE_HI_BASE_HI, 2 ^ 25)
    else none

/-- Pages that admission pins: those of the image and of every listed range (R97, R246). -/
def pagesToPin (ps : List Page) (im : Image) (va : Nat) : List Page :=
  let rs := (va, im.length) :: (im.list 15).map memRange
  ps.filter fun p => rs.any fun r => rangesMeet r (p.va, p.size)

def isHbm : Mem → Bool
  | .hbm _ => true
  | _ => false

/-- Cut every interval of a list out of one interval: what is left uncovered. -/
def uncovered (have_ : List (Nat × Nat)) (a : Nat × Nat) : List (Nat × Nat) := have_.foldl (fun l h => cutRange h l) [a]

def AdEnv.memoryCheck (v : AdEnv) : Option Rej :=
  let im := v.im
  let ps := v.s.pages
  let map (k : Nat) : Rej := ⟨Code.mapping, 0, 15, k, 0, 0⟩
  firstOf [
    each (List.range 4) fun h _ =>
      need (decide (im.act h + im.buf h + im.save h ≤ 256) && im.save h != 0) ⟨Code.sram, h, 15, noIdx, 0, 0⟩,
    each (im.list 15) fun k b => firstOf [
      need (walkRange ps false (memRange b).1 (memRange b).2).isSome (map k),
      need (!((vaRuns ps (memRange b).1 (memRange b).2).any fun r => v.s.ringFrames.any (rangesMeet r))) (map k)],
    need (decide ((pagesToPin ps im v.p.va).length ≤ 4096)) (map noIdx)]

/-- Writes of a descriptor land in writable pages (R246). -/
def AdEnv.streamWrites (v : AdEnv) : Option Rej :=
  each (v.im.list 6) fun i d =>
    let n := descRows d
    need (descKind d == 6 || n == 0 || !descHasDst d (v.p.stream (i + 1)) ||
      (rowRanges (descDst d) n (descRowBytes d) (descDstStep d)).all fun r =>
        (walkRange v.s.pages true r.1 r.2).isSome) ⟨Code.mapping, 0, 6, i, 0, 0⟩

def AdEnv.reducePlaces (v : AdEnv) : Option Rej :=
  let ps := v.s.pages
  each (v.im.list 13) fun b e =>
    let k := leAt e 4 1
    let q := 4 * blockQ (bucketElems e)
    let n := 4 * bucketElems e
    let free := (vaRuns ps (bucketSrc e) q).all fun r => !rangesMeet r (dieSram (4 + k), precBytes v.p ps k)
    firstOf [
      need (v.im.listed (bucketSrc e) q && (n == 0 || v.im.listed (bucketDst e) n)) ⟨Code.mapping, 0, 13, b, 0, 0⟩,
      need (inMem ps (bucketSrc e) q false (· == .sram (4 + k)) && free && inMem ps (bucketDst e) n false (· == .slow k))
        ⟨Code.range, 0, 13, b, 0, 0⟩,
      need (walkRange ps true (bucketSrc e) q).isSome ⟨Code.mapping, 0, 13, b, 0, 0⟩]

/-- Areas of a block (R299), as DVA ranges. -/
def updAreas (e : List Byte) : List (Nat × Nat) :=
  [(updVa e, 136 * updRecords e), (updGrad e, 128 * updRecords e), (updPushVa e, updPushBytes e)]

/-- COPY streams declared producers of a slot cover a block's gradient area (R301). -/
def AdEnv.gradCovered (v : AdEnv) (die k : Nat) (e : List Byte) : Bool :=
  let ps := v.s.pages
  let dsts := (v.p.producers die k).flatMap fun x =>
    match v.p.slot x.1 x.2 with
    | some q =>
      let d := v.p.stream q.operand
      if q.action = 4 && descKind d = 0 then
        (rowRanges (descDst d) (descRows d) (descRowBytes d) (descDstStep d)).flatMap fun r => vaRuns ps r.1 r.2
      else []
    | none => []
  (vaRuns ps (updGrad e) (128 * updRecords e)).all fun r => (uncovered dsts r).isEmpty

def AdEnv.updatePlaces (v : AdEnv) : Option Rej :=
  let p := v.p
  let ps := v.s.pages
  let blocks := v.im.list 14
  let runs (e : List Byte) : List (Nat × Nat) := (updAreas e).flatMap fun a => vaRuns ps a.1 a.2
  firstOf [
    each blocks fun b e =>
      let home := (shuttleOf ps e).getD 2
      let die := 4 + home
      let at_ (act : Nat) : List (Nat × Nat × SlotEntry) := p.users [act] b
      let one (act : Nat) : Bool := (at_ act).length == 1 && (at_ act).all fun u => u.1 == die
      let engine := (p.slots.getD die []).filter fun e => e.unit == 0x41 && e.action != 0
      let next := match engine.dropWhile fun x => !(x.action == 9 && x.operand == b) with
        | _ :: y :: _ => y.action == 10 && y.operand % 2 ^ 16 == b
        | _ => false
      firstOf [
        need ((updAreas e).all fun a => v.im.listed a.1 a.2) ⟨Code.mapping, 0, 14, b, 0, 0⟩,
        need (decide (home < 2) && inMem ps (updVa e) (136 * updRecords e) true (· == .slow home)
          && inMem ps (updGrad e) (128 * updRecords e) true (· == .slow home)
          && inMem ps (updPushVa e) (updPushBytes e) true isHbm) ⟨Code.mapping, 0, 14, b, 0, 0⟩,
        need ((blocks.take b).all fun q => (runs q).all fun x => (runs e).all fun y => !rangesMeet x y)
          ⟨Code.range, 0, 14, b, 0, 0⟩,
        need (one 9 && one 10) ⟨Code.unit, 0, 14, b, 0, 0⟩,
        need (if updRule e = 3 then one 11 else (at_ 11).isEmpty) ⟨Code.range, 0, 14, b, 0, 0⟩,
        need next ⟨Code.order, die, 14, b, 0, 0⟩,
        each (at_ 9) fun _ u => need (v.gradCovered u.1 u.2.1 e) ⟨Code.dependency, u.1, u.1, u.2.1, 0, 0⟩],
    each [0, 1] fun _ k => need (decide (precUsed p ps k ≤ 48 * 2 ^ 20)) ⟨Code.sram, 4 + k, 14, noIdx, 0, 0⟩,
    each (List.range 6) fun d _ => each (p.slots.getD d []) fun k e =>
      need ((List.range 2).all fun q => e.unit == 0x41 || (v.regions d k e ++ v.indexRegion d e).all fun r =>
          !r.meets ⟨dieSram (4 + q), dieSram (4 + q) + precBytes p ps q, false, false⟩) ⟨Code.dependency, d, d, k, 0, 0⟩]

def AdEnv.step5 (v : AdEnv) : Option Rej :=
  firstOf [v.memoryCheck, v.streamWrites, v.reducePlaces, v.updatePlaces]

/-! ### Resources and paths (R99, R100, R207, R217, R226) -/

inductive Res where
  | hbm (stack : Nat)
  | sramR (hoop : Nat)
  | sramW (hoop : Nat)
  | bridge (a b : Nat)
  | ssram (shuttle : Nat)
  | slow (shuttle : Nat)
  | port (p : Nat) (send : Bool)
deriving DecidableEq, Repr

def Res.latency : Res → Nat
  | .hbm _ => 320
  | .sramR _ => 23
  | .sramW _ => 23
  | .bridge a b => if a < 4 && b < 4 then 12 else 14
  | .ssram _ => 20
  | .slow _ => 480
  | .port _ _ => 166

/-- A path: its latency, and the time B / R of the transfer on each resource that it crosses, side by side, in ns. -/
structure Path where
  lat : Nat := 0
  terms : List (Res × Rat) := []

/-- Resources that a transfer crosses side by side: their latencies, the stacks' once (log entry 26, DEDUCED). -/
def legLat (ts : List (Res × Rat)) : Nat :=
  ((ts.map fun t => match t.1 with | .hbm _ => Res.hbm 0 | r => r).eraseDups).foldl (fun m r => m + r.latency) 0

def addTerm (r : Res) (x : Rat) : List (Res × Rat) → List (Res × Rat)
  | [] => [(r, x)]
  | (q, y) :: l => if q = r then (q, y + x) :: l else (q, y) :: addTerm r x l

/-- A leg of a path: the bytes that cross one resource of it add up. -/
def Path.leg (ts : List (Res × Rat)) : Path :=
  let l := ts.foldl (fun l t => addTerm t.1 t.2 l) []
  ⟨legLat l, l⟩

/-- One leg after another: each side of a resource is charged on its own (R207). -/
def Path.join (a b : Path) : Path := ⟨a.lat + b.lat, a.terms ++ b.terms⟩

/-- B / R_path: the largest B_i / R_i over the resources and sides (R99, R207). -/
def Path.term (p : Path) : Rat := p.terms.foldl (fun m t => max m t.2) 0

/-- HBM3 rate of a pattern in bytes per ns (R100). -/
def hbmRate (pattern : Nat) : Rat := if pattern = 0 then 7537 / 10 else if pattern = 1 then 6144 / 10 else 2731 / 10

def sramTerm (die n : Nat) (write : Bool) : Res × Rat :=
  if die < 4 then (if write then .sramW die else .sramR die, (n : Rat) / 14700) else (.ssram (die - 4), (n : Rat) / 6550)

def sramPath (die n : Nat) (write : Bool) : Path := .leg [sramTerm die n write]

/-- Sector pairs of stack i (0 to 5 of its Hoop) that a run touches (R226). -/
def pairsOn (run : Nat × Nat) (i : Nat) : Nat :=
  let w := run.1 % hoopHbm
  let g := w / 64
  let n := if run.2 = 0 then 0 else (w + run.2 - 1) / 64 + 1 - g
  (n + 5 - (i + 6 - g % 6) % 6) / 6

/-- Bytes charged on each stack by a list of runs (R207, R226). -/
def stackShares (runs : List (Nat × Nat)) : List (Nat × Nat) :=
  (List.range 24).filterMap fun m =>
    let mine := runs.filter fun r => memOf r.1 == some (.hbm (m / 6))
    let b := (mine.map fun r => 64 * pairsOn r (m % 6)).foldl (· + ·) 0
    if b = 0 then none else some (m, b)

/-- One end of a transfer in memory: the bytes at each die whose memory holds some of it, and its leg (R19, R207). A GATHER
source lies where its SRC does. -/
def memSide (ps : List Page) (va n rb stride pattern : Nat) (write gather : Bool) : List (Nat × Nat) × Path :=
  let total := n * rb
  let runs := if gather then (vaRuns ps va 1).map fun r => (r.1, total)
    else (rowRanges va n rb stride).flatMap fun x => vaRuns ps x.1 x.2
  let at_ (m : Mem → Bool) : Nat :=
    ((runs.filter fun r => match memOf r.1 with | some x => m x | none => false).map (·.2)).foldl (· + ·) 0
  let part (m : Mem) (t : Nat → List (Res × Rat)) : List (Res × Rat) := let b := at_ (· == m); if b = 0 then [] else t b
  let hbms := if gather then (List.range 4).flatMap fun h => part (.hbm h) fun b =>
      (List.range 6).map fun i => (.hbm (6 * h + i), (b : Rat) / hbmRate 2)
    else (stackShares runs).map fun x => (.hbm x.1, (x.2 : Rat) / hbmRate pattern)
  let srams := (List.range 6).flatMap fun d => part (.sram d) fun b => [sramTerm d b write]
  let slows := (List.range 2).flatMap fun k => part (.slow k) fun b => [(.slow k, (b : Rat) / (4641 / 10))]
  ((List.range 6).filterMap fun d => let b := at_ fun m => m.die == d; if b = 0 then none else some (d, b),
    .leg (hbms ++ srams ++ slows))

/-- Bridges between two Hoops: the horizontal neighbour first (log entry 26, DEDUCED). -/
def routeHoops (a b : Nat) : List (Nat × Nat) :=
  let m := a / 2 * 2 + b % 2
  (if m = a then [] else [(a, m)]) ++ (if b = m then [] else [(m, b)])

/-- Bridges from die to die (R21). Between the Shuttles, which the spec leaves open, by the row of H0 and H1 (log entry 26,
DESIGN CHOICE). -/
def route (a b : Nat) : List (Nat × Nat) :=
  if a = b then []
  else if a < 4 then
    if b < 4 then routeHoops a b
    else let h := a / 2 * 2 + (b - 4); routeHoops a h ++ [(h, b)]
  else if b < 4 then let h := b / 2 * 2 + (a - 4); (a, h) :: routeHoops h b
  else (a, a - 4) :: routeHoops (a - 4) (b - 4) ++ [(b - 4, b)]

def bridgeTerms (n a b : Nat) : List (Res × Rat) :=
  (route a b).map fun x => (.bridge x.1 x.2, (n : Rat) / (if x.1 < 4 && x.2 < 4 then 6000 else 2000))

/-- The bridges from every die that holds bytes to one die, and from one die to all of them. -/
def routesTo (xs : List (Nat × Nat)) (die : Nat) : Path := .leg (xs.flatMap fun x => bridgeTerms x.2 x.1 die)
def routesFrom (die : Nat) (xs : List (Nat × Nat)) : Path := .leg (xs.flatMap fun x => bridgeTerms x.2 die x.1)

/-- Path of a stream on a die (R99, R207, R216, R217). -/
def streamPath (ps : List Page) (die : Nat) (d l : List Byte) : Path :=
  let k := descKind d
  let n := descRows d
  let rb := descRowBytes d
  let total := n * rb
  let step := descDstStep d
  let src := if k = 4 then ([(die, total)], sramPath die total false)
    else memSide ps (descSrc d) n rb (descSrcStep d) (descPattern d) false (descPattern d == 2)
  let into := src.2.join (routesTo src.1 die)
  let dst := memSide ps (descDst d) n rb step (if step = rb then 0 else 1) true false
  if k = 2 then into
  else if k = 0 || k = 4 then (into.join (routesFrom die dst.1)).join dst.2
  else
    let into := into.join (sramPath die total true)
    let ts := localsOf d l
    if ts.isEmpty then into
    else match memOf ((vaRuns ps (descDst d) 1).headD (0, 0)).1 with
      | some (.sram _) =>
        (into.join (routesFrom die (ts.map fun t => (t, total)))).join (.leg (ts.map fun t => sramTerm t total true))
      | _ => (into.join (routesFrom die (ts.flatMap fun _ => dst.1))).join (.leg (ts.flatMap fun _ => dst.2.terms))

/-- Path of a PUSH (R311). -/
def pushPath (ps : List Page) (die : Nat) (e : List Byte) : Path :=
  let n := updPushBytes e
  let o := memSide ps (updPushVa e) 1 n n 0 true false
  ((sramPath die n false).join (routesFrom die o.1)).join o.2

/-! ### Charges (R99) -/

def ceilNs (x : Rat) : Nat := x.ceil.toNat

def dispatchNs : Nat := 36

/-- c(n) = n · 16 / (d · f), ns of n array cycles with picots; and the array cycle time T. -/
def PaceClass.cycles (pc : PaceClass) (n : Nat) : Rat := (160 * n : Nat) / (pc.duty * pc.f10 : Nat)
def PaceClass.cycle (pc : PaceClass) : Rat := 10 / (pc.f10 : Rat)

/-- c_op of a vector entry (R99, R161, R191). -/
def cOp (op : Nat) : Nat :=
  if op = 0x11 || op = 0x12 || op = 0x33 || op = 0x40 then 2
  else if op = 0x20 || op = 0x38 || op = 0x39 then 4
  else if 0x28 ≤ op && op ≤ 0x2A then 8 else 1

/-- Feed cycles of a pass (R122). -/
def AdEnv.feed (v : AdEnv) (d : List Byte) : Nat := passV d * if v.s.t2 then 8 else 1

/-- Does the next pass on the array carry CHAIN? -/
def Pricking.nextChain (p : Pricking) (die unit k : Nat) : Bool :=
  match ((p.passesOf die unit).dropWhile fun x => decide (x.1 ≤ k)) with
  | x :: _ => x.2.chain
  | [] => false

def portOf (die unit : Nat) : Nat := if die < 4 then 4 * die + (unit - 0x30) else 12 + die

def streamBytes (d : List Byte) : Nat := descRows d * descRowBytes d

def AdEnv.charge (v : AdEnv) (pc : PaceClass) (die k : Nat) (e : SlotEntry) : Nat :=
  let p := v.p
  let ps := v.s.pages
  dispatchNs + match e.action with
  | 1 =>
    let n := v.feed (p.pass e.operand) + (if e.chain then 0 else 240) + if p.nextChain die e.unit k then 0 else 32
    ceilNs (pc.cycles n)
  | 2 =>
    let d := p.vxop e.operand
    ceilNs ((24 + ceilDiv (vxRows d * vxLen d) 1024 * cOp (vxOp d) : Nat) / (9 / 5 : Rat))
  | 3 => ceilNs ((64 + 1024 : Nat) / (9 / 5 : Rat))
  | 4 =>
    let d := p.stream e.operand
    if descRows d = 0 then 0
    else let q := streamPath ps die d (p.stream (e.operand + 1)); ceilNs ((q.lat : Rat) + q.term)
  | 5 | 6 => 64 * ceilDiv (streamBytes (p.stream e.operand)) 12800 + v.delays.getD (portOf die e.unit) 0 + 166
  | 7 => ceilNs ((40 + ceilDiv (bucketElems (p.bucket e.operand)) 256 : Nat) / (8 / 5 : Rat))
  | 8 => 1000
  | 9 =>
    let b := p.block e.operand
    let n := updRecords b
    ceilNs (max ((64 + n * (if updRule b = 3 then 4 else 1) : Nat) / (8 / 5 : Rat)) (480 + (400 * n : Nat) / (4641 / 10 : Rat)))
  | 10 => let q := pushPath ps die (p.block (e.operand % 2 ^ 16)); ceilNs ((q.lat : Rat) + q.term)
  | 11 =>
    let b := p.block e.operand
    ceilNs ((64 + ((updIters b * 2 * updDim b ^ 3 : Nat) : Rat) / 1024) / (8 / 5 : Rat))
  | _ => 0

/-! ### Slots at a class (R88, R211, R213, R215) -/

/-- A slot at a class: start and deadline in ns from the step's first knot, its charge, and the wait of a re-arm in it. -/
structure Placed where
  die : Nat
  k : Nat
  e : SlotEntry
  s : Nat
  t : Nat
  d : Nat
  wait : Nat := 0

def Placed.stop (x : Placed) : Nat := x.s + x.d

structure ClassEnv where
  v : AdEnv
  c : Nat
  pc : PaceClass
  slots : List (List Placed)

def absPos (ki : Nat) (x : Nat × Nat) : Nat := x.1 * ki + x.2

def AdEnv.placed (v : AdEnv) (pc : PaceClass) (die : Nat) : List Placed :=
  let tab := v.p.slots.getD die []
  let ki := v.im.knotInt
  ((List.range tab.length).zip tab).map fun x =>
    { die := die, k := x.1, e := x.2, s := absPos ki (slotStart pc v.im x.2), t := absPos ki (slotDeadline pc v.im x.2)
      d := v.charge pc die x.1 x.2 }

def ClassEnv.get (c : ClassEnv) (die k : Nat) : Option Placed := (c.slots.getD die [])[k]?

/-- Arms of a descriptor in order. -/
def ClassEnv.arms (c : ClassEnv) (die i : Nat) : List Placed :=
  (c.slots.getD die []).filter fun x => x.e.action == 4 && x.e.operand == i

/-- The arm that a consumer of stream i takes: the latest to start before it (R211). -/
def ClassEnv.armFor (c : ClassEnv) (x : Placed) (i : Nat) : Option Placed :=
  ((c.arms x.die i).filter fun a => decide (a.s < x.s)).getLast?

/-- Streams that a slot consumes, with the rows it takes of each (R208, R211). -/
def ClassEnv.consumes (c : ClassEnv) (x : Placed) : List (Nat × Nat) :=
  match x.e.action with
  | 1 =>
    let d := c.v.p.pass x.e.operand
    (if passSrc d = 0 && passStream d ≠ noIdx && passK d ≠ 0 && passV d ≠ 0 then [(passStream d, passV d)] else [])
      ++ (if passStat d = noIdx then [] else [(passStat d, 0)])
  | 5 | 6 => [(x.e.operand, descRows (c.v.p.stream x.e.operand))]
  | _ => []

/-- Consumers of an arm, with the rows each takes, in table order. -/
def ClassEnv.consumers (c : ClassEnv) (a : Placed) : List (Placed × Nat) :=
  (c.slots.getD a.die []).filterMap fun x =>
    match (c.consumes x).find? fun u => u.1 == a.e.operand with
    | some u => match c.armFor x a.e.operand with
      | some b => if b.k = a.k then some (x, u.2) else none
      | none => none
    | none => none

/-- Earliest entry of vector 0 of each pass of an array (R129). -/
def ClassEnv.entries (c : ClassEnv) (die unit : Nat) : List (Nat × Rat) :=
  let xs := (c.slots.getD die []).filter fun x => x.e.action == 1 && x.e.unit == unit
  (xs.foldl (fun (a : (Rat × Nat) × List (Nat × Rat)) x =>
    let head := if x.e.chain then a.1 else (((x.s + 16 : Nat) : Rat) + 32 * c.pc.cycle, 0)
    ((head.1, head.2 + c.v.feed (c.v.p.pass x.e.operand)), a.2 ++ [(x.k, head.1 + c.pc.cycle * head.2)])) ((0, 0), [])).2

def ClassEnv.entry (c : ClassEnv) (x : Placed) : Rat :=
  (((c.entries x.die x.e.unit).find? fun y => y.1 == x.k).map (·.2)).getD 0

/-- Consumer's row time τ (R215). -/
def ClassEnv.rowTime (c : ClassEnv) (d : List Byte) : Rat :=
  if descKind d = 1 then c.pc.cycles (if c.v.s.t2 then 8 else 1) else (descRowBytes d : Rat) / 200

def isBuffered (d : List Byte) : Bool := descKind d == 1 || descKind d == 3 || descKind d == 4 || descKind d == 5

/-- Path latency, and the time of one tile and of one row at the path's rate (R215). -/
structure TileTime where
  lat : Nat
  tile : Rat
  row : Rat

def ClassEnv.tileTime (c : ClassEnv) (die i : Nat) : TileTime :=
  let d := c.v.p.stream i
  let q := streamPath c.v.s.pages die d (c.v.p.stream (i + 1))
  let row := q.term / descRows d
  ⟨q.lat, row * descTileRows d, row⟩

/-- E_last of R215: the deadline of the consumer that takes the last row of tile n - 1 - k, the last one of a LINK_IN, the
latest of a multicast. -/
def ClassEnv.eLast (c : ClassEnv) (a : Placed) (d : List Byte) : Option Nat :=
  let cs := c.consumers a
  if descKind d = 1 then
    let last := (descTiles d - (descLook d + 1)) * descTileRows d - 1
    (cs.foldl (fun (q : Nat × Option Nat) x =>
      if q.2.isSome then q else if last < q.1 + x.2 then (q.1 + x.2, some x.1.t) else (q.1 + x.2, none)) (0, none)).2
  else cs.foldl (fun m x => some (max (m.getD 0) x.1.t)) none

/-- The charges of one descriptor's arms with the wait of a re-arm and the duration of R215 (R213). -/
def ClassEnv.armCharges (c : ClassEnv) (i : Nat) : Option Placed → List Placed → List Placed
  | _, [] => []
  | prev, a :: r =>
    let d := c.v.p.stream i
    let wait := match prev with | some q => if a.s ≤ q.stop then q.stop - a.s else 0 | none => 0
    let base := a.d + wait
    let dur := if isBuffered d && decide (descTiles d > descLook d + 1) then
        match c.eLast a d with
        | some el => let q := c.tileTime a.die i; ceilNs (((el : Rat) - a.s) + q.lat + q.tile)
        | none => 0
      else 0
    let a := { a with d := max base dur, wait := wait }
    a :: c.armCharges i (some a) r

/-- The slots of a class with every STREAM slot's charge settled. -/
def AdEnv.atClass (v : AdEnv) (n : Nat) : ClassEnv :=
  let pc := paceClass n
  let c : ClassEnv := ⟨v, n, pc, (List.range 6).map (v.placed pc)⟩
  let settle (x : Placed) : Placed :=
    if x.e.action = 4 then
      ((c.armCharges x.e.operand none (c.arms x.die x.e.operand)).find? fun a => a.k == x.k).getD x
    else x
  { c with slots := c.slots.map fun l => l.map settle }

/-! ### The checks of one slot -/

def ClassEnv.rej (c : ClassEnv) (x : Placed) (code : Nat) (excess : Nat := 0) : Rej := ⟨code, x.die, x.die, x.k, excess, c.c⟩

/-- Units that run one slot after another, and bobbins: a NOP on one is a slot of it (R82, R102). -/
def serialUnit (die unit : Nat) : Bool := if die < 4 then decide (unit ≤ 4) else unit == 0x40 || unit == 0x41
def bobbinUnit (die unit : Nat) : Bool := decide (0x10 ≤ unit) && decide (unit ≤ if die < 4 then 0x2F else 0x17)
def isSerial (x : Placed) : Bool := serialUnit x.die x.e.unit

def overlaps (a b : Placed) : Bool := decide (a.s < b.stop) && decide (b.s < a.stop)

/-- R101 and R102. -/
def ClassEnv.basic (c : ClassEnv) (x : Placed) : Option Rej :=
  let tab := c.slots.getD x.die []
  let prev := ((tab.take x.k).filter fun y => isSerial y && y.e.unit == x.e.unit).getLast?
  let live := (tab.filter fun y => y.e.unit == x.e.unit && decide (x.s ≤ y.stop)
    && (decide (y.s < x.s) || (y.s == x.s && decide (y.k ≤ x.k)))).length
  let bound := x.stop + c.v.guard
  firstOf [
    need (decide (bound ≤ x.t)) (c.rej x Code.deadline (bound - x.t)),
    need (!isSerial x || (match prev with | some y => decide (y.stop ≤ x.s) | none => true)) (c.rej x Code.unit),
    need (!bobbinUnit x.die x.e.unit || decide (live ≤ 6)) (c.rej x Code.unit)]

/-- The doorbell window of S0 bobbin B07 (R84). -/
def ClassEnv.doorbell (c : ClassEnv) (x : Placed) : Option Rej :=
  let ki := c.v.im.knotInt
  let s := x.s + x.wait
  need (!(x.die == 4 && x.e.action == 4 && x.e.unit == 0x17 && (decide (s % ki < 1000) || decide ((s / ki + 1) * ki < x.stop))))
    (c.rej x Code.unit)

/-- First scheduled slot and count of a LINK transfer (R257). -/
def ClassEnv.linkSlots (c : ClassEnv) (x : Placed) : Nat × Nat × Nat :=
  let ki := c.v.im.knotInt
  (x.s / ki, x.s % ki / 64, ceilDiv (streamBytes (c.v.p.stream x.e.operand)) 12800)

def ClassEnv.linkCheck (c : ClassEnv) (x : Placed) : Option Rej :=
  if x.e.action ≠ 5 && x.e.action ≠ 6 then none
  else
    let (kn, j, m) := c.linkSlots x
    let port := portOf x.die x.e.unit
    let clash := ((c.slots.getD x.die []).take x.k).any fun y =>
      y.e.action == x.e.action && y.e.unit == x.e.unit &&
        (let (kn', j', m') := c.linkSlots y; kn == kn' && m' != 0 && decide (j < j' + m') && decide (j' < j + m))
    need ((m == 0 || (!clash && decide (j + m ≤ c.v.im.knotInt / 64))) && c.v.s.portUp2 port
        && !c.v.s.gb (.nir port) F.NIR_STATUS_FOREIGN)
      (c.rej x Code.unit)

/-- Slots that read or collect a tensor scale entry keep clear of the verdict's 1,000 ns (R165, R166). -/
def ClassEnv.usesScale (c : ClassEnv) (x : Placed) : Bool :=
  match x.e.action with
  | 1 => passScale (c.v.p.pass x.e.operand) % 4 != 0
  | 2 =>
    let d := c.v.p.vxop x.e.operand
    isCvt d && (vxOp d == 0x10 || bit (leAt d 1 1) 5 || bit (leAt d 1 1) 7)
  | 10 => updFmt (c.v.p.block (x.e.operand % 2 ^ 16)) == 1
  | _ => false

def ClassEnv.scaleCheck (c : ClassEnv) (x : Placed) : Option Rej :=
  let segs := c.v.im.segments
  let vk := if hasPhase5 segs then verdictOfs c.pc segs * c.v.im.knotInt else 0
  need (!(c.usesScale x && decide (x.s < vk + 1000) && decide (vk < x.stop))) (c.rej x Code.unit)

/-- Declared producers are due by the slot's start (R85); a consumer has an arm (R211). -/
def ClassEnv.depCheck (c : ClassEnv) (x : Placed) : Option Rej :=
  let prods := (c.v.p.producers x.die x.k).filterMap fun y => c.get y.1 y.2
  need (prods.all (fun y => decide (y.t ≤ x.s)) && (c.consumes x).all fun u => (c.armFor x u.1).isSome)
    (c.rej x Code.dependency)

/-- Window of a stationary load (R129): the pass it serves, and the SWAP pass before it. -/
def ClassEnv.statCheck (c : ClassEnv) (a : Placed) : Option Rej :=
  if a.e.action ≠ 4 || descKind (c.v.p.stream a.e.operand) ≠ 2 then none
  else firstOf ((c.consumers a).map fun x =>
    let p := x.1
    let swaps := ((c.slots.getD p.die []).take p.k).filter fun y =>
      y.e.action == 1 && y.e.unit == p.e.unit && passSwap (c.v.p.pass y.e.operand)
    let free : Rat := match swaps.getLast? with
      | none => 0
      | some q => ((q.s + 36 : Nat) : Rat) + if q.e.chain then 0 else c.pc.cycles 240
    firstOf [
      need (decide (free ≤ (a.s : Rat))) (c.rej a Code.unit),
      need (decide ((a.t : Rat) ≤ c.entry p) && decide (a.t ≤ p.s)) (c.rej a Code.dependency)])

/-- Rows that the consumers of one arm take, and how many link slots serve it (R208, R209). -/
def ClassEnv.armCount (c : ClassEnv) (a : Placed) : Option Rej :=
  if a.e.action ≠ 4 then none
  else
    let d := c.v.p.stream a.e.operand
    let cs := c.consumers a
    let ok := match descKind d with
      | 1 => (cs.map (·.2)).foldl (· + ·) 0 == descRows d
      | 3 | 4 => cs.length == 1
      | 5 =>
        let l := c.v.p.stream (a.e.operand + 1)
        let ports := (((List.range (descRcv d + 1)).map fun j => (rcvWord l j).1).filter (decide <| 16 ≤ ·)).eraseDups
        ports.length == cs.length && ports.all fun t => cs.any fun x => portOf a.die x.1.e.unit == t - 16
      | _ => true
    need ok (c.rej a Code.range)

/-- At most one arm waits on a bobbin (R213). -/
def ClassEnv.waitCheck (c : ClassEnv) (a : Placed) : Option Rej :=
  need (a.e.action != 4 || a.wait == 0 || ((c.slots.getD a.die []).take a.k).all fun y =>
    !(y.e.action == 4 && y.e.unit == a.e.unit && y.wait != 0) || decide (y.s + y.wait ≤ a.s)) (c.rej a Code.unit)

/-- Prefill, rate and cover of a buffered arm (R215). -/
def ClassEnv.bufferCheck (c : ClassEnv) (a : Placed) : Option Rej :=
  let i := a.e.operand
  let d := c.v.p.stream i
  if a.e.action ≠ 4 || !isBuffered d || descRows d = 0 then none
  else
    let q := c.tileTime a.die i
    let tau := c.rowTime d
    let cover := ((descLook d * descTileRows d : Nat) : Rat) * tau
    let first := (c.consumers a).head?
    let pre : Bool := match first with
      | none => true
      | some x =>
        if descKind d = 4 then decide (a.s + dispatchNs ≤ x.1.s)
        else
          let e0 : Rat := if x.1.e.action = 1 then c.entry x.1 else (x.1.s : Rat)
          decide (((a.s + dispatchNs + q.lat : Nat) : Rat) + q.tile ≤ e0)
    firstOf [
      need pre (c.rej a Code.dependency),
      need (decide (q.row ≤ tau)) (c.rej a Code.bandwidth (ceilNs (q.row - tau))),
      need (decide (descTiles d ≤ descLook d + 1) || decide ((q.lat : Rat) + q.tile ≤ cover))
        (c.rej a Code.bandwidth (ceilNs ((q.lat : Rat) + q.tile - cover)))]

/-- Two passes that run at once do not name one transposing buffer (R133). -/
def ClassEnv.xpbShare (c : ClassEnv) (x : Placed) : Option Rej :=
  let src (y : Placed) : Nat := passSrc (c.v.p.pass y.e.operand)
  need (x.e.action != 1 || src x == 0 || ((c.slots.getD x.die []).take x.k).all fun y =>
    !(y.e.action == 1 && y.e.unit != x.e.unit && src y == src x && overlaps x y)) (c.rej x Code.unit)

/-- Windows of an XPB_LOAD (R183, R185). -/
def ClassEnv.xpbWindow (c : ClassEnv) (x : Placed) : Option Rej :=
  if x.e.action ≠ 3 then none
  else match c.v.p.xpbTiles x.die (x.e.unit - 3) with
    | .error _ => none
    | .ok ts => match ts.findIdx? fun t => t.load == x.k with
      | none => none
      | some i =>
        let early : Bool :=
          if i < 2 then true
          else match ((ts.getD (i - 2) ⟨0, [], []⟩).readers.getLast?).bind (c.get x.die) with
            | none => true
            | some q => decide ((q.stop : Rat) - c.pc.cycles 208 ≤ (x.s : Rat))
        let late : Bool := match ((ts.getD i ⟨0, [], []⟩).readers.head?).bind (c.get x.die) with
          | none => true
          | some p =>
            if p.e.action = 1 then
              let prev := ((c.slots.getD p.die []).take p.k).filter fun y => y.e.action == 1 && y.e.unit == p.e.unit
              let e := c.entry p
              let bound : Rat := match p.e.chain, prev.getLast? with
                | true, some y => max e ((y.s : Rat) + (c.pc.cycles (c.v.feed (c.v.p.pass y.e.operand)) - c.pc.cycles 208))
                | _, _ => e
              decide ((x.t : Rat) ≤ bound) && decide (x.t ≤ p.s)
            else decide (x.t ≤ p.s)
        firstOf [need early (c.rej x Code.unit), need late (c.rej x Code.dependency)]

/-! ### Overlapping regions (R188, R210, R289, R301) -/

/-- Time until which a slot's held regions are in use (R210, R300). -/
def ClassEnv.holdTo (c : ClassEnv) (x : Placed) : Nat :=
  if x.e.action = 4 then (c.consumers x).foldl (fun m y => max m y.1.t) x.stop
  else if x.e.action = 9 then
    (((c.slots.getD x.die []).find? fun y => y.e.action == 10 && y.e.operand % 2 ^ 16 == x.e.operand).map (·.t)).getD x.stop
  else x.stop

/-- Slots that never clash: two arms of one descriptor, two slots of a unit that runs one after another. -/
def exempt (x y : Placed) : Bool :=
  (x.e.action == 4 && y.e.action == 4 && x.e.operand == y.e.operand)
    || (isSerial x && isSerial y && x.die == y.die && x.e.unit == y.e.unit)

def ClassEnv.clash (c : ClassEnv) (x y : Placed) : Bool :=
  !exempt x y && (c.v.regions x.die x.k x.e).any fun a => (c.v.regions y.die y.k y.e).any fun b =>
    (a.write || b.write) && a.meets b
      && (if b.held then decide (x.s < c.holdTo y) else decide (x.s ≤ y.stop))
      && (if a.held then decide (y.s < c.holdTo x) else decide (y.s ≤ x.stop))

def ClassEnv.clashCheck (c : ClassEnv) (x : Placed) : Option Rej :=
  need (c.slots.all fun l => l.all fun y => (y.die == x.die && y.k == x.k) || !c.clash x y) (c.rej x Code.dependency)

/-- No slot but the update engine's reads an index list from a push stage in use (R300, R301); its other bytes are regions
of `clash`. -/
def ClassEnv.stageCheck (c : ClassEnv) (x : Placed) : Option Rej :=
  let idx := c.v.indexRegion x.die x.e
  need ([4, 5].all fun die => (c.slots.getD die []).all fun y => y.e.action != 9 || (c.v.regions die y.k y.e).all fun r =>
    !(idx.any r.meets) || !(decide (x.s < c.holdTo y) && decide (y.s ≤ x.stop))) (c.rej x Code.dependency)

/-- REDUCE slot of a bucket that performs a stage. -/
def ClassEnv.stageSlot (c : ClassEnv) (b stage : Nat) : Option Placed :=
  (c.slots.flatMap id).find? fun y => y.e.action == 7 && y.e.operand == b && c.v.p.stage y.die y.k y.e == stage

/-- No slot writes G after the start of SEAL, or S between the start of SUM and the end of the sends of the node's value
(R289). The sends of the value are the declared consumers of SUM that read S (R85), and every other stream that reads S
whose arm starts after SUM and before any other slot writes S (log entry 14, DEDUCED). -/
def ClassEnv.blockCheck (c : ClassEnv) (x : Placed) : Option Rej :=
  let ps := c.v.s.pages
  let all := c.slots.flatMap id
  let regs := c.v.regions x.die x.k x.e
  let touches (y : Placed) (write : Bool) (rs : List Region) : Bool :=
    (c.v.regions y.die y.k y.e).any fun a => (a.write == write) && rs.any a.meets
  let bad (b : Nat) (e : List Byte) : Bool :=
    let g := blockRegion ps e 0 false
    let sb := blockRegion ps e 3 false
    let own := x.e.action == 7 && x.e.operand == b
    let writes (rs : List Region) : Bool := regs.any fun a => a.write && rs.any a.meets
    !own && ((match c.stageSlot b 1 with
      | some q => writes g && decide (q.s < x.stop)
      | none => false) || (match c.stageSlot b 2 with
      | none => false
      | some q => writes sb && decide (q.s < x.stop) &&
        (let others := all.filter fun y => touches y true sb && !(y.e.action == 7 && y.e.operand == b) && decide (q.s ≤ y.s)
         let sends := all.filter fun y => y.e.action == 4 && decide (q.s ≤ y.s) && touches y false sb
           && ((c.v.p.producers y.die y.k).contains (q.die, q.k) || others.all fun w => decide (y.s ≤ w.s))
         let until_ := sends.foldl (fun m y => max m (max y.stop (c.holdTo y))) q.stop
         decide (x.s < until_))))
  need (!(((List.range (c.v.im.count 13)).zip (c.v.im.list 13)).any fun y => bad y.1 y.2)) (c.rej x Code.dependency)

/-! ### The demand test (R103) -/

/-- Transfers with their resources: streams, pushes, link transfers on their port, and the slow-tier traffic that R99 charges
an UPDATE (that this last is a transfer of R103 is log entry 12, DEDUCED). -/
def ClassEnv.transfers (c : ClassEnv) : List (Placed × List (Res × Rat)) :=
  let ps := c.v.s.pages
  let p := c.v.p
  (c.slots.flatMap id).filterMap fun x =>
    let on (l : List (Res × Rat)) : Option (Placed × List (Res × Rat)) := if l.isEmpty then none else some (x, l)
    match x.e.action with
    | 4 =>
      let d := p.stream x.e.operand
      if descRows d = 0 then none else on (streamPath ps x.die d (p.stream (x.e.operand + 1))).terms
    | 5 | 6 =>
      let m := ceilDiv (streamBytes (p.stream x.e.operand)) 12800
      if m = 0 then none else on [(.port (portOf x.die x.e.unit) (x.e.action == 5), ((64 * m : Nat) : Rat))]
    | 9 => on [(.slow (x.die - 4), ((400 * updRecords (p.block x.e.operand) : Nat) : Rat) / (4641 / 10))]
    | 10 => on (pushPath ps x.die (p.block (x.e.operand % 2 ^ 16))).terms
    | _ => none

def allRes : List Res :=
  (List.range 24).map .hbm ++ (List.range 4).map .sramR ++ (List.range 4).map .sramW
    ++ (List.range 6).flatMap (fun a => (List.range 6).map fun b => Res.bridge a b)
    ++ [.ssram 0, .ssram 1, .slow 0, .slow 1] ++ (List.range 18).flatMap fun p => [.port p true, .port p false]

/-- L_r (R100): a port's is its measured delay and 166 ns. -/
def ClassEnv.latency (c : ClassEnv) : Res → Nat
  | .port p _ => c.v.delays.getD p 0 + 166
  | r => r.latency

/-- The first pair (t1, t2) at which a resource's demand exceeds what it moves in time: every start t1 before every deadline
t2, also where no transfer lies between them (R103). -/
def ClassEnv.demandOn (c : ClassEnv) (xs : List (Placed × List (Res × Rat))) (r : Res) : Option Rej :=
  let on := xs.flatMap fun x => (x.2.filter fun t => t.1 == r).map fun t => (x.1, t.2)
  let starts := ((on.map (·.1.s)).eraseDups).mergeSort (· ≤ ·)
  let ends := ((on.map (·.1.t)).eraseDups).mergeSort (· ≤ ·)
  each starts fun _ t1 => each (ends.filter fun t2 => decide (t1 < t2)) fun _ t2 =>
    let inside := on.filter fun x => decide (t1 ≤ x.1.s) && decide (x.1.t ≤ t2)
    let sum := inside.foldl (fun (m : Rat) x => m + x.2) 0
    let room : Rat := (t2 : Rat) - t1 - c.latency r
    match on.find? fun x => x.1.t == t2 with
    | none => none
    | some x => need (decide (sum ≤ room)) (c.rej x.1 Code.bandwidth (ceilNs (sum - room)))

def ClassEnv.demand (c : ClassEnv) : Option Rej :=
  let xs := c.transfers
  each allRes fun _ r => c.demandOn xs r

/-! ### Step 6 (R89, R90, R98) -/

def ClassEnv.slotChecks (c : ClassEnv) (x : Placed) : Option Rej :=
  firstOf [c.basic x, c.doorbell x, c.linkCheck x, c.scaleCheck x, c.depCheck x, c.statCheck x, c.armCount x, c.waitCheck x,
    c.bufferCheck x, c.xpbShare x, c.xpbWindow x, c.clashCheck x, c.stageCheck x, c.blockCheck x]

/-- The timing checks of one class: slot by slot, then the demand test. -/
def AdEnv.timing (v : AdEnv) (n : Nat) : Option Rej :=
  let c := v.atClass n
  firstOf [each c.slots fun _ l => each l fun _ x => c.slotChecks x, c.demand]

/-- Rated pace that PRK_PACE reports for a class: 0 when it fails (R89). -/
def AdEnv.paceAt (v : AdEnv) (n : Nat) : Nat :=
  let k := ratedPace (paceClass n) v.im.segments
  if k > 65535 || (v.timing n).isSome then 0 else k

def AdEnv.step6 (v : AdEnv) (eff : Nat) : Option Rej :=
  let n := v.p.pace
  firstOf [
    need (decide (eff ≤ n)) ⟨Code.pace, 0, 0, noIdx, 0, n⟩,
    need (decide (ratedPace (paceClass n) v.im.segments ≤ 65535)) ⟨Code.range, 0, 0, noIdx, 0, n⟩,
    v.timing n]

end Sys2Proof.Machine
end

