-- ==== Sys2Proof/Machine/Admission.lean ====
section
/-! DEFINITION. ADMIT and ADMISSION_COMPLETE: the start of an admission, its six steps, its refusal and its success (R89,
R97, R98, R104, R111, R131, R163, R167, R296, R316, R326, R328, R352, R357, R370). -/

namespace Sys2Proof.Machine

/-! ### The start (R97, R326, R328) -/

/-- A PREEMPT or RESUME is in progress. -/
def State.saveBusy (s : State) : Bool := s.save.isSome || (s.cmdOf 0x33).isSome || (s.cmdOf 0x34).isSome

def State.admitStart (s : State) (c : Cmd) (e : Sqe) : State :=
  let va := e.field 8 8
  if va % 64 ≠ 0 then s.prkRefuse c { code := Code.range }
  else if s.run.isSome || !s.queue.isEmpty || s.admitting.isSome || s.saveBusy then s.prkRefuse c { code := Code.busy }
  else if s.lockState ≠ 2 then s.prkRefuse c { code := Code.grid }
  else
    let pol (h : Nat) : Word := s.rd ((Blk.vec h).base + F.VEC_TS_POLICY_HIST_DEPTH.off)
    let a : Admitting :=
      { va := va, size := e.field 16 4, pace := e.field 20 1
        guard := s.g (.prk 4) F.PRK_ADMIT_CFG_GUARD
        policyOk := (List.range 4).all fun h => pol h == pol 0
        delays := (List.range 18).map fun p => ceilDiv (s.g (.nir p) F.NIR_DELAY_DELAY) 256 }
    { s.p (.prk 4) F.PRK_STATUS_ADMITTING 1 with admitting := some a }

def execAdmitPricking (ring : RingId) (e : Sqe) (s : State) : Host.Outcome State Fault Refusal :=
  .next (s.withCmd ring 0x30 e (e.plain 21 && decide (e.field 20 1 ≤ 4)) fun c s => s.admitStart c e)

/-! ### The checks (R98) -/

/-- The pricking that an image spells at a pace class. -/
def prickingOf (im : Image) (va pace : Nat) : Pricking :=
  let pc := paceClass pace
  let tabs := (List.range 6).map im.slotTable
  { image := im, va := va, pace := pace, slots := tabs
    starts := tabs.map fun t => t.map (slotStart pc im)
    deads := tabs.map fun t => t.map (slotDeadline pc im)
    stepKnots := ratedPace pc im.segments, verdictOfs := verdictOfs pc im.segments, interval := im.knotInt
    jobId := im.jobId, digest := im.digest, rank := im.rank, rankM1 := im.rankM1 }

/-- Steps 1 to 5, after the image has been read. -/
def AdEnv.steps (v : AdEnv) : Option Rej :=
  match v.step1 with
  | some r => some r
  | none => match v.step2 with
    | some r => some r
    | none => match v.step3 with
      | some r => some r
      | none => match v.step4 with
        | some r => some r
        | none => v.step5

/-- The rated paces of all four classes (R89, R111). -/
def State.putPaces (s : State) (v : AdEnv) : State :=
  let s := (s.p (.prk 4) F.PRK_PACE_0_IMM (v.paceAt 0)).p (.prk 4) F.PRK_PACE_0_COLD (v.paceAt 1)
  (s.p (.prk 4) F.PRK_PACE_1_AIR (v.paceAt 2)).p (.prk 4) F.PRK_PACE_1_UNKN (v.paceAt 3)

/-! ### Success -/

/-- Counters and error registers that describe one job start again (R134, R178, R186, R201, R222, R249, R276, R295, R318,
R370, R447). -/
def State.clearJob (s : State) : State :=
  let s := s.forN 8 fun a s => (s.clearRange (.arr a) 0x0C 0x20).clearRange (.arr a) 0x24 0x30
  let s := s.forN 4 fun h s =>
    (((s.clearRange (.vec h) 0x10 0x18).clearRange (.vec h) 0x108 0x110).clearRange (.vec h) 0x11C 0x120).forN 2 fun b s =>
      s.clearRange (.xpb h) (0x40 * b) (0x40 * b + 0x18)
  let s := s.forN 6 fun d s =>
    (s.clearRange (.bob d) 0x804 0x81C).forN (bobbins d) fun n s => s.clearRange (.bob d) (0x40 * n + 0x08) (0x40 * n + 0x1C)
  let s := s.forN 18 fun p s => s.clearRange (.nir p) 0x34 0x48
  let s := s.forN 2 fun k s =>
    let s := (s.clearRange (.red k) 0x28 0x34).p (.red k) F.RED_VERDICT_VALID 0
    (s.clearRange (.upd k) 0x08 0x1C).clearRange (.upd k) 0x30 0x3C
  let s := s.clearRange .pwr 0x100 0x170
  s.forN 4 fun h s =>
    let b := Blk.pmu h
    let s := (s.p b F.PMU_SMP_TAIL_TAIL (s.g b F.PMU_SMP_HEAD_HEAD)).p b F.PMU_SMP_STATUS_FULL 0
    { s.p b F.PMU_SMP_STATUS_LOST 0 with samplers := tput {} s.samplers h {} }

/-- Scratch memory is zeroed: the Hoops' SRAM, and the Shuttles' above the preconditioner region (R316). -/
def State.zeroScratch (s : State) (p : Pricking) : State :=
  let s := s.forN 4 fun h s => s.zeroRange (dieSram h) (dieSramSize h)
  s.forN 2 fun k s =>
    let n := precBytes p s.pages k
    s.zeroRange (dieSram (4 + k) + n) (dieSramSize (4 + k) - n)

/-- Registers of S0 and of every die that show the admitted pricking (R111). -/
def State.putAdmitted (s : State) (p : Pricking) : State :=
  let s := (s.clearRange (.prk 4) 0x104 0x110).forN 8 fun i s =>
    s.p (.prk 4) (F.PRK_DIGEST_DIGEST i) (leAt p.digest (4 * i) 4)
  s.forN 6 fun d s =>
    let b := Blk.prk d
    let s := (s.p b F.PRK_STATUS_ADMITTED 1).p b F.PRK_STATUS_PACE_CLASS p.pace
    let s := (s.p b F.PRK_SLOT_COUNT_COUNT (p.slots.getD d []).length).p b F.PRK_SLOT_NEXT_NEXT 0
    let s := (s.p b F.PRK_MISS_MISSES 0).p2 b F.PRK_STEP_LO_COUNT_LO F.PRK_STEP_HI_COUNT_HI 0
    s.p b F.PRK_STEP_KNOTS_KNOTS p.stepKnots

/-- The scale table and the preconditioners are cleared for another image or job (R167, R316). -/
def State.ownTables (s : State) (p : Pricking) : State :=
  let s := if s.tableOwner = some (p.jobId, p.digest) then s else (s.scaleClear p.scaleFmts).precClear p
  { s with tableOwner := some (p.jobId, p.digest) }

/-- The new pricking replaces the old one at once (R97). -/
def State.install (s : State) (p : Pricking) : State :=
  let p := { p with prec := (List.range 2).map (precPlaces p s.pages) }
  let s := { s with img := some p, tlb := pagesToPin s.pages p.image p.va, tlbBad := [], removals := [], removed := [], restores := []
                    nextStep := 0, xpbs := [], arms := s.arms.filter fun a => a.stream == noIdx }
  let s := (s.putAdmitted p).treeRegs (p.rankM1 + 1) p.rank
  let s := s.forN 8 fun k s => ((s.p (.xpb (k / 2)) ⟨0x40 * (k % 2), 0, 32⟩ 0))
  let s := (s.zeroScratch p).ownTables p
  let s := s.forN 2 fun k s => s.p (.upd k) F.UPD_PREC_BYTES_BYTES (precBytes p s.pages k)
  (s.clearJob.gateArrays.bobSyncAll).refreshPower

/-! ### The end (R97, R98) -/

/-- What reading the image met before step 1: its refusal code, and the bad unit to report. -/
def State.imageFault (s : State) (a : Admitting) (media : Option Nat) : Option (Nat × Option Nat) :=
  match walkRange s.pages false a.va a.size with
  | none => some (Code.mapping, none)
  | some rs => (s.copyBad rs media).map fun b => (Code.digest, some b.1)

/-- A refusal changes nothing but the refusal registers. -/
def State.endAdmit (s : State) (r : Rej) : State :=
  (s.putReject r).completeOp 0x30 r.code 0

def State.admission (s : State) (a : Admitting) (media : Option Nat) : State :=
  match s.imageFault a media with
  | some (code, bad) =>
    let s := match bad with
      | some b => s.copyUe b
      | none => s
    s.endAdmit { code := code }
  | none =>
    let im := s.readRuns ((walkRange s.pages false a.va a.size).getD [])
    let eff := s.g .pwr F.PWR_STATUS_EFF_CLASS
    let pace := if a.pace = 4 then eff else a.pace
    let p := prickingOf im a.va pace
    let v : AdEnv := { s := s, size := a.size, guard := a.guard, policyOk := a.policyOk, delays := a.delays, p := p }
    match v.steps with
    | some r => s.endAdmit r
    | none =>
      let s := s.putPaces v
      match v.step6 eff with
      | some r => s.endAdmit r
      | none => (s.install p).completeOp 0x30 Code.success (p.stepKnots + pace * 2 ^ 16)

/-- ADMISSION_COMPLETE: the admission in progress ends after `timeUs`; `media` is the offset in the image of a read
that came back uncorrectable (R238). -/
def execAdmissionComplete (timeUs : BitVec 17) (media : Option (BitVec 40)) (s : State) : Host.Outcome State Fault Refusal :=
  match s.admitting with
  | none => .next s
  | some a =>
    let s := { s.p (.prk 4) F.PRK_STATUS_ADMITTING 0 with admitting := none }
    .next ((s.p (.prk 4) F.PRK_ADMIT_TIME_TIME_US timeUs.toNat).admission a (media.map (·.toNat)))

end Sys2Proof.Machine
end

