-- ==== Sys2Proof/Machine/HostRings.lean ====
section
/-! DEFINITION. The host port's rings: link changes, kicks, sweeps, completions, and the commands that set rings up, map
memory and copy it (R320 to R330, R333, R334, R399). -/

namespace Sys2Proof.Machine

/-! ### Link (R320, R376, R421) -/

/-- The host port has stopped for good in this fail-safe state (R421). -/
def State.hostStopped (s : State) : Bool :=
  s.fatalSet && stopsHost (s.g (.irq 4) F.IRQ_FATAL_CODE) (s.g (.irq 4) F.IRQ_FATAL_DETAIL_DETAIL)

/-- The generations and widths that the port supports; anything else leaves it without a link. -/
def linkOk (gen width : Nat) : Bool := decide (4 ≤ gen) && decide (gen ≤ 6) && (width == 4 || width == 8 || width == 16)

def execPcieLinkChange (gen : BitVec 3) (width : BitVec 5) (s : State) : Host.Outcome State Fault Refusal :=
  if !s.supplied || s.perst || s.hostStopped then .next s
  else
    let ok := linkOk gen.toNat width.toNat
    let s := (s.p .hst F.HST_STATUS_GEN (if ok then gen.toNat else 0)).p .hst F.HST_STATUS_WIDTH (if ok then width.toNat else 0)
    .next ((s.pb .hst F.HST_STATUS_FLIT (ok && gen == 6)).line 4 160)

/-! ### Sweeps (R321, R322) -/

/-- A sweep starts. -/
def State.sweepStart (s : State) : State := s.inc .hst F.HST_SWEEPS_COUNT 1

/-- KICK: a 32-bit write to BAR2 offset 0 starts a kick sweep unless one runs. -/
def execKick (offset : BitVec 12) (value : Word) (s : State) : Host.Outcome State Fault Refusal :=
  let _ := value
  if offset ≠ 0 || !(s.ready || s.fatalSet) || !s.hostUp || !s.gb .hst F.HST_CTRL_KICK_EN then .next s
  else
    let s := (s.line 4 163).count 4 5 7 1
    .next (if s.kickRun then s else { s.sweepStart.inc .hst F.HST_KICKS_COUNT 1 with kickRun := true })

/-- A ring whose doorbell holds an index out of range, or whose completion write failed, stops (R321, R323). -/
def State.stopRing (s : State) (i : Nat) (r : Ring) (code : Nat) : State :=
  (s.setRing i (some { r with stopped := true, deferred := [] })).hostErr code i

/-- One ring's share of a sweep: its CQ head, and up to 64 new entries while its CQ has a free place. A doorbell word with an
index beyond the ring, or with bits [31:16] set, stops it. -/
def State.sweepRing (s : State) (page : List Byte) (i : Nat) : State :=
  match s.ring i with
  | none => s
  | some r =>
    let tail := leAt page (8 * i) 4
    let head := leAt page (8 * i + 4) 4
    if r.stopped then s
    else if tail ≥ r.sqN || head ≥ r.cqN then s.stopRing i r 5
    else
      let r := { r with cqHead := head }
      let n := if r.full then 0 else min 64 ((tail + r.sqN - r.sqHead) % r.sqN)
      let idle := r.fetched.isEmpty && !s.cmds.any fun (c : Cmd) => c.ring == i && !c.silent
      (s.count 4 5 6 (64 * n)).setRing i (some { r with
        sqHead := (r.sqHead + n) % r.sqN, fetched := r.fetched ++ List.replicate n s.grid.time
        doneAt := if idle then none else r.doneAt })

/-- SWEEP_FETCH: the doorbell page has arrived; the fetched entries' commands start in their own right (R322, R325). -/
def execSweepFetch (kickSweep : Bool) (page : HostRead) (s : State) : Host.Outcome State Fault Refusal :=
  if !(s.ready || s.fatalSet) || !s.hostUp || (kickSweep && !s.kickRun) then .next s
  else
    let s := if kickSweep then { s with kickRun := false } else s
    match page with
    | .fail e => .next (s.hostErr (hostErrCode e) 0)
    | .ok bs => .next (((s.count 4 5 6 512).forN 64 fun i s => s.sweepRing bs i).line 4 6)

/-! ### Completions (R323) -/

/-- COMPLETION_DEFERRED_POST: the oldest completion that waits is written once a place is free. -/
def execCompletionDeferredPost (ring : RingId) (s : State) : Host.Outcome State Fault Refusal :=
  match s.ring ring.val with
  | none => .next s
  | some r => match r.deferred with
    | [] => .next s
    | c :: l => .next (if r.stopped || r.full then s else s.cqWrite ring.val { r with deferred := l } c)

/-- COMPLETION_WRITE_FAIL: the tail does not advance and the ring stops. -/
def execCompletionWriteFail (ring : RingId) (err : HostErr) (s : State) : Host.Outcome State Fault Refusal :=
  match s.ring ring.val with
  | none => .next s
  | some r =>
    if r.stopped then .next s
    else
      let t := (r.cqTail + r.cqN - 1) % r.cqN
      let r := { r with cqTail := t, phase := if r.cqTail = 0 then !r.phase else r.phase }
      .next ((s.silence ring.val).stopRing ring.val r (hostErrCode err))

/-! ### Reserved and added opcodes (R324, R399) -/

/-- The opcodes that the running extension adds. -/
def State.extHas (s : State) (op : Nat) : Bool :=
  let a := s.g .sec F.SEC_EXT_OPS_OP_FIRST
  s.g .sec F.SEC_BOOT_STATUS_EXT_STATE == 1 && a != 0 && decide (a ≤ op) && decide (op ≤ s.g .sec F.SEC_EXT_OPS_OP_LAST)

def execReservedOpcode (ring : RingId) (opcode : BitVec 8) (e : Sqe) (s : State) : Host.Outcome State Fault Refusal :=
  let op := opcode.toNat
  if definedOpcodes.contains op || s.extHas op then .next s
  else match s.beginCmd ring.val op e with
    | none => .next s
    | some (s, c) => .next (s.refuse c (if s.fatalSet then Code.fatal else Code.invalidOpcode))

/-- The codes that a command of an extension may complete with: those of R327, and 0x80 to 0xFF (R399). -/
def extCodes : List Nat := List.range 0x13 ++ (List.range 13).map (0x20 + ·) ++ (List.range 128).map (0x80 + ·)

/-- EXTENSION_COMMAND: what an added command does, and the code and result it completes with, are the extension's own; the
code and the result are free values (R399; log entries 1, DESIGN CHOICE, and 28, DESIGN CHOICE). -/
def execExtensionCommand (ring : RingId) (opcode : BitVec 8) (e : Sqe) (s : State) : Host.Outcome State Fault Refusal :=
  let op := opcode.toNat
  if definedOpcodes.contains op then .next s
  else match s.beginCmd ring.val op e with
    | none => .next s
    | some (s, c) =>
      if s.fatalSet then .next (s.refuse c Code.fatal)
      else if !s.extHas op then .next (s.refuse c Code.invalidOpcode)
      else if e.rsv ≠ 0 then .next (s.refuse c Code.reserved)
      else
        let status := extCodes.getD (Config.free s.fresh % extCodes.length) 0
        let result := Config.free (s.fresh + 1) % 2 ^ 64
        .next (s.draw.draw.complete c status result)

/-! ### IDENTIFY (R330) -/

/-- The identify page. -/
def State.identifyPage (s : State) : List Byte :=
  let up := (List.range 18).foldl (fun a p =>
    a + if s.portUp p && s.g (.nir p) F.NIR_STATUS_VER == 2 then 2 ^ p else 0) 0
  let digest := match s.img with | some p => p.digest | none => List.replicate 32 0
  leBytes 2 0x4824 ++ leBytes 1 0x41 ++ leBytes 1 0x01 ++ leBytes 1 0x03 ++ leBytes 1 0x00 ++ leBytes 1 0x02 ++ leBytes 1 0x20
    ++ leBytes 7 (s.g2 .dev F.DEV_SERIAL_LO_SERIAL_LO F.DEV_SERIAL_HI_SERIAL_HI) ++ leBytes 1 0
    ++ leBytes 1 (s.g .pwr F.PWR_STATUS_CLASS) ++ leBytes 1 (s.g .pwr F.PWR_STATUS_EFF_CLASS)
    ++ leBytes 2 (s.g .pwr F.PWR_CAP_IN_FORCE) ++ leBytes 1 64 ++ leBytes 1 64 ++ leBytes 1 4
    ++ leBytes 1 (if s.expert then 1 else 0) ++ leBytes 1 (s.g .hst F.HST_STATUS_GEN) ++ leBytes 1 (s.g .hst F.HST_STATUS_WIDTH)
    ++ leBytes 1 s.lockState ++ leBytes 1 0 ++ leBytes 4 up ++ digest ++ List.replicate (4096 - 64) 0

/-- A command whose access to host memory failed (R327, R346). -/
def State.addressFail (s : State) (c : Cmd) (e : HostErr) : State := (s.hostErr (hostErrCode e) c.ring).refuse c Code.address

def execIdentify (ring : RingId) (e : Sqe) (write : Option HostErr) (s : State) : Host.Outcome State Fault Refusal :=
  .next (s.withCmd ring 0x01 e (e.plain 16) fun (c : Cmd) (s : State) =>
    let addr := e.field 8 8
    if addr % 4096 ≠ 0 then s.refuse c Code.range
    else match write with
      | some err => s.addressFail c err
      | none => (s.emit (.hostWrite addr s.identifyPage)).complete c Code.success 0)

/-! ### Rings (R326, R328) -/

def ringSizeOk (n : Nat) : Bool := powerOf2In n 16 4096

def execRingCreate (ring : RingId) (e : Sqe) (s : State) : Host.Outcome State Fault Refusal :=
  .next (s.withCmd ring 0x02 e (e.plain 32 && e.zero 14 16) fun (c : Cmd) (s : State) =>
    let i := e.field 8 1
    let r : Ring := { vector := e.field 9 1, sqN := e.field 10 2, cqN := e.field 12 2, sqBase := e.field 16 8
                      cqBase := e.field 24 8 }
    if i = 0 || i > 63 || r.vector > 63 || !ringSizeOk r.sqN || !ringSizeOk r.cqN
      || r.sqBase % 4096 ≠ 0 || r.cqBase % 4096 ≠ 0 then s.refuse c Code.range
    else if (s.ring i).isSome then s.refuse c Code.state
    else (s.setRing i (some r)).complete c Code.success 0)

/-- A START_STEP, ADMIT or PREEMPT of a ring has not completed (R328). -/
def State.ringHolds (s : State) (i : Nat) : Bool :=
  s.cmds.any (fun c => c.ring == i && !c.silent && (c.opcode == 0x30 || c.opcode == 0x33))
    || s.queue.any (fun q => q.ring == i && !q.silent)
    || (match s.run with | some r => r.q.ring == i && !r.q.silent | none => false)

/-- RING_DELETE: unfetched entries are discarded; a command of the ring still at work, this one among them when the ring
deletes itself, ends without a completion. -/
def execRingDelete (ring : RingId) (e : Sqe) (s : State) : Host.Outcome State Fault Refusal :=
  .next (s.withCmd ring 0x03 e (e.plain 9) fun (c : Cmd) (s : State) =>
    let i := e.field 8 1
    if i = 0 || i > 63 then s.refuse c Code.range
    else if (s.ring i).isNone then s.refuse c Code.state
    else if s.ringHolds i then s.refuse c Code.busy
    else
      let s := (s.silence i).setRing i none
      s.complete (if c.ring = i then { c with silent := true } else c) Code.success 0)

/-! ### The page map (R244 to R248, R334) -/

/-- A page that the admitted pricking pins. -/
def State.pinsPage (s : State) (q : Page) : Bool :=
  match s.img with
  | some p => !(pagesToPin [q] p.image p.va).isEmpty
  | none => false

/-- The new pages agree with one another and with the map. -/
def pagesFit : List Page → List Page → Bool
  | _, [] => true
  | old, q :: r => q.ok && old.all (fun p => !p.overlaps q) && pagesFit (q :: old) r

/-- A page of this DVA and size was pinned and has been removed by force: mapping it again restores the pinned entry at the
next eligible knot (R248). -/
def State.restoresPin (s : State) (q : Page) : Bool :=
  s.pinsPage q && !(s.tlb.any fun (t : Page) => t.va == q.va) && s.removed.any fun (t : Page) => t.va == q.va && t.size == q.size && t.readOnly == q.readOnly

def State.mapPages (s : State) (c : Cmd) (bs : List Byte) (n : Nat) : State :=
  let es := entries 16 (bs.take (16 * n))
  let ps := es.map decPage
  if es.length < n || es.any pageReserved then s.refuse c Code.reserved
  else if !pagesFit s.pages ps then s.refuse c Code.mapConflict
  else
    let back := (ps.filter s.restoresPin).map fun q => (q, s.grid.time)
    { s with pages := s.pages ++ ps, restores := s.restores ++ back }.complete c Code.success 0

def execMap (ring : RingId) (e : Sqe) (data : HostRead) (s : State) : Host.Outcome State Fault Refusal :=
  .next (s.withCmd ring 0x10 e (e.plain 20) fun (c : Cmd) (s : State) =>
    let n := e.field 16 4
    if n = 0 || n > 4096 then s.refuse c Code.range
    else match data with
      | .fail err => s.addressFail c err
      | .ok bs => s.mapPages c bs n)

/-- UNMAP of a checked range: pages that nothing pins go at once, on all dies together; with FORCE a pinned page waits for
its knot. -/
def State.unmapRange (s : State) (c : Cmd) (va len : Nat) (force : Bool) : State :=
  let hit (p : Page) : Bool := rangesMeet (p.va, p.size) (va, len)
  let ps := s.pages.filter hit
  let whole (p : Page) : Bool := decide (va ≤ p.va) && decide (p.va + p.size ≤ va + len)
  let pinned := ps.filter fun (p : Page) => s.tlb.contains p
  if !(ps.all whole) then s.refuse c Code.range
  else if !pinned.isEmpty && !force then s.refuse c Code.mapConflict
  else
    let s := { s with pages := s.pages.filter fun (p : Page) => !hit p || pinned.contains p
                      restores := s.restores.filter fun x => !hit x.1 }
    if pinned.isEmpty then s.complete c Code.success 0
    else { s with removals := s.removals ++ pinned.map fun (p : Page) => (p.va, s.grid.time) }.setCmd c { c with arg := s.grid.time }

def execUnmap (ring : RingId) (e : Sqe) (s : State) : Host.Outcome State Fault Refusal :=
  let force := bit e.flags.toNat 0
  .next (s.withCmd ring 0x11 e (decide (e.flags.toNat < 2) && e.zero 24 64) fun (c : Cmd) (s : State) =>
    let va := e.field 8 8
    let len := e.field 16 8
    if force && !s.expert then s.refuse c Code.level
    else if va % 2 ^ 21 ≠ 0 || len % 2 ^ 21 ≠ 0 || len = 0 || va + len > 2 ^ 48 then s.refuse c Code.range
    else s.unmapRange c va len force)

/-- Beats that live transfers have translated complete before pages go (R248): of the beats that have their buffer slots, as
many as a free value says have been translated.
Readings: log entry 50, DEDUCED. -/
def State.landTranslated (s : State) : State :=
  (s.arms.filter fun (a : Arm) => a.phase == ArmPhase.live && a.kind != 4).foldl (fun (s : State) (a : Arm) =>
    let (t, a', f) := s.landTo a (a.beats + Config.free s.fresh % (s.armLimit a - a.beats + 1))
    (match f with
      | some f => t.faultStop a' f
      | none => t).settleUe .unit |>.draw) s

/-- PAGE_REMOVE, PAGE_RESTORE and TLB_RELOAD at a knot: forced changes accepted at least 1 µs ago take effect outside every
PHASE 5 segment, and entries that failed parity are read again from the page map (R247, R248). -/
def State.pageKnot (s : State) : State :=
  let s := { s with tlbBad := [] }
  if s.phaseNow = 5 then s
  else
    let due (t : Nat) : Bool := decide (nsT 1000 ≤ (s.grid.time + 2 ^ 64 - t % 2 ^ 64) % 2 ^ 64)
    let out := (s.removals.filter fun x => due x.2).map (·.1)
    let back := (s.restores.filter fun x => due x.2).map (·.1)
    let gone := s.tlb.filter fun (p : Page) => out.contains p.va
    let s := if gone = [] then s else s.landTranslated
    let s := { s with
      pages := s.pages.filter fun (p : Page) => !out.contains p.va
      tlb := s.tlb.filter (fun (p : Page) => !out.contains p.va) ++ back
      removed := (s.removed ++ gone).filter fun (p : Page) => !back.any fun (q : Page) => q.va == p.va
      removals := s.removals.filter fun x => !due x.2
      restores := s.restores.filter fun x => !due x.2 }
    let done := s.cmds.filter fun (c : Cmd) => c.opcode == 0x11 && due c.arg
    done.foldl (fun (s : State) (c : Cmd) => s.complete c Code.success 0) s

/-! ### Host copies (R231, R238, R333) -/

/-- The checks that MEM_READ and MEM_WRITE share; none where the command may run. -/
def copyRefused (e : Sqe) : Option Nat :=
  let va := e.field 8 8
  let len := e.field 24 4
  if va % 64 ≠ 0 || e.field 16 8 % 64 ≠ 0 || len % 64 ≠ 0 || len > 2 ^ 26 || va + len > 2 ^ 48 then some Code.range else none

def execMemRead (ring : RingId) (e : Sqe) (s : State) : Host.Outcome State Fault Refusal :=
  .next (s.withCmd ring 0x12 e (e.plain 28) fun (c : Cmd) (s : State) =>
    let va := e.field 8 8
    let len := e.field 24 4
    match copyRefused e with
    | some code => s.refuse c code
    | none =>
      if len = 0 then s.complete c Code.success 0
      else match walkRange s.pages false va len with
        | none => s.refuse c Code.mapping
        | some rs => s.setCmd c { c with dva := va, haddr := e.field 16 8, len := len, runs := rs })

/-- MEM_WRITE is protected: the image region always, listed ranges while a step runs or is queued, the frames of a digest
ring that is kept (R97, R317, R333). -/
def State.writeProtected (s : State) (va len : Nat) (runs : List (Nat × Nat)) : Bool :=
  (match s.img with
    | none => false
    | some p => rangesMeet (va, len) (p.va, p.image.length)
        || ((s.run.isSome || !s.queue.isEmpty) && (p.im.list 15).any fun b => rangesMeet (va, len) (memRange b)))
    || s.ringFrames.any fun f => runs.any fun r => rangesMeet r f

/-- Bytes of a host read, cut or filled to the length asked for. -/
def fitBytes (bs : List Byte) (n : Nat) : List Byte := (bs ++ List.replicate (n - bs.length) 0).take n

def execMemWrite (ring : RingId) (e : Sqe) (data : HostRead) (s : State) : Host.Outcome State Fault Refusal :=
  .next (s.withCmd ring 0x13 e (e.plain 28) fun (c : Cmd) (s : State) =>
    let va := e.field 8 8
    let len := e.field 24 4
    match copyRefused e with
    | some code => s.refuse c code
    | none =>
      if len = 0 then s.complete c Code.success 0
      else match walkRange s.pages true va len with
        | none => s.refuse c Code.mapping
        | some rs =>
          if s.writeProtected va len rs then s.refuse c Code.prot
          else match data with
            | .fail err => s.addressFail c err
            | .ok bs => s.setCmd c { c with
                dva := va, haddr := e.field 16 8, len := len, data := fitBytes bs len, runs := rs })

/-- HOST_COPY_DONE: the copy has moved every byte, or stopped at a bad pair with MEDIA (R238, R327, R333). A MEM_WRITE, 64-byte
aligned throughout, writes whole pairs and reads none (R231).
Readings: log entry 47, DESIGN CHOICE. -/
def State.copyDone (s : State) (c : Cmd) (fin : CopyEnd) : State :=
  let rs := c.runs
  if c.opcode = 0x13 then (s.writeRuns rs c.data).settleUe .host |>.complete c Code.success 0
  else match fin with
    | .hostErr err => s.addressFail c err
    | _ => match s.copyBad rs (match fin with | .media off => some off.toNat | _ => none) with
      | none => (s.emit (.hostWrite c.haddr (s.readRuns rs))).complete c Code.success 0
      | some (bad, off) =>
        let n := off / 64 * 64
        let s := if n = 0 then s else s.emit (.hostWrite c.haddr ((s.readRuns rs).take n))
        (s.copyUe bad).complete c Code.media n

def execHostCopyDone (ring : RingId) (fin : CopyEnd) (s : State) : Host.Outcome State Fault Refusal :=
  match s.cmds.find? fun c => c.ring == ring.val && (c.opcode == 0x12 || c.opcode == 0x13) with
  | none => .next s
  | some c => .next (s.copyDone c fin)

/-! ### Ports (R272, R326) -/

/-- TRAIN_PORTS: every named port that is DOWN starts training; the others count at once. -/
def execTrainPorts (ring : RingId) (e : Sqe) (s : State) : Host.Outcome State Fault Refusal :=
  .next (s.withCmd ring 0x20 e (e.plain 12 && decide (e.field 8 4 < 2 ^ 18)) fun (c : Cmd) (s : State) =>
    let mask := e.field 8 4
    let go := (List.range 18).filter fun p => bit mask p && s.portState p == 1
    let s := s.setCmd c { c with arg := go.foldl (fun a p => a + 2 ^ p) 0 }
    (go.foldl (fun s p => s.trainGo p) s).settleTrain)

end Sys2Proof.Machine
end

