-- ==== Sys2Proof/Machine/HostSteps.lean ====
section
/-! DEFINITION. The commands that run, stop, save and restore a job: START_STEP, ABORT_STEP, PREEMPT, RESUME and the ends of
their copies (R92, R105, R302, R328, R331, R332, R335 to R343). -/

namespace Sys2Proof.Machine

/-! ### When queued steps would run (R71, R105) -/

/-- The first knot that falls at time t or later. -/
def State.knotFrom (s : State) (t : Nat) : Nat :=
  let n := s.grid.nextKnot
  if !timeBefore s.grid.next0 t then n
  else if !timeBefore s.grid.next1 t then (n + 1) % 2 ^ 48
  else (n + 1 + ceilDiv ((t + 2 ^ 64 - s.grid.next1) % 2 ^ 64) (nsT (max 1 s.effInt))) % 2 ^ 48

/-- The later of two knots. -/
def laterKnot (a b : Nat) : Nat := if knotBefore a b then b else a

/-- The first knot of a step whose START_STEP started at t, behind a step that ends at `free` (R105). -/
def State.firstKnot (s : State) (free : Option Nat) (t : Nat) : Nat :=
  let n := s.knotFrom ((t + nsT 10000) % 2 ^ 64)
  match free with
  | some e => laterKnot n e
  | none => n

/-- First and end knots of the queued steps, taken back to back at the rated pace in force. -/
def State.spans (s : State) (pace : Nat) : Option Nat → List Nat → List (Nat × Nat)
  | _, [] => []
  | free, t :: r =>
    let a := s.firstKnot free t
    let e := (a + pace) % 2 ^ 48
    (a, e) :: s.spans pace (some e) r

/-- Spans of the running step, the queued steps and any further starts. -/
def State.allSpans (s : State) (more : List Nat) : List (Nat × Nat) :=
  let pace := match s.img with | some p => p.stepKnots | none => 0
  let free := s.run.map (·.endKnot)
  (match s.run with | some r => [(r.first, r.endKnot)] | none => []) ++ s.spans pace free (s.queue.map (·.startAt) ++ more)

/-- A span runs through a knot: it begins before it and ends after it. -/
def runsThrough (k : Nat) (x : Nat × Nat) : Bool := knotBefore x.1 k && knotBefore k x.2

/-- Target knot of a mode change (R71). -/
def State.modeTarget (s : State) : Nat := match s.modeReq with | some r => r.2.2 | none => 0

/-! ### START_STEP (R331) -/

def fAbove (x : Nat) : Bool := x != 0 && decide (x < 0x7F800000)
def fZeroUp (x : Nat) : Bool := decide (x < 0x7F800000) || x == 0x80000000

/-- The codes under which the state of the device refuses a START_STEP (R328, R343).
Readings: log entry 15, DEDUCED. -/
def State.startRefused (s : State) (c : Cmd) : Option Nat :=
  match s.img with
  | none => some Code.state
  | some _ =>
    if s.gb .hst F.HST_STATUS_SUSPENDED then some Code.suspended
    else if s.lockState ≠ 2 then some Code.grid
    else if s.queue.length ≥ 4 || s.admitting.isSome || s.saveBusy then some Code.busy
    else if s.gb .dev F.DEV_MODE_STATE_PEND && ((s.allSpans [c.startAt]).getLast?.elim false (runsThrough s.modeTarget)) then
      some Code.busy
    else none

/-- The codes under which its own fields refuse it, and its lengths (R92, R302, R331). -/
def startFields (p : Pricking) (e : Sqe) : Option Nat :=
  let n := p.im.mbCount
  let addr := e.field 40 8
  if e.field 36 2 ≠ n || decide (n = 0) ≠ decide (addr = 0) || addr % 4 ≠ 0 then some Code.range
  else if !fAbove (e.field 20 4) || !fZeroUp (e.field 24 4) || !fAbove (e.field 28 4) || !fAbove (e.field 32 4) then
    some Code.range
  else none

def lenWords (n : Nat) (bs : List Byte) : List Nat := (entries 4 (fitBytes bs (4 * n))).map fun w => leAt w 0 4

/-- Queue a checked step (R331). It leaves its ring free for the next entry (R325); steps may begin again (R56). -/
def State.enqueue (s : State) (c : Cmd) (e : Sqe) (lens : List Nat) : State :=
  let q : QStep := { ring := c.ring, cid := c.cid, sqHead := c.sqHead, seed := e.field 8 8, step := e.field 16 4
                     gradMult := e.field 20 4, lrMult := e.field 24 4, bc1 := e.field 28 4, bc2 := e.field 32 4
                     lens := lens, startAt := c.startAt }
  let s := s.ringFree c.ring
  { s with cmds := s.cmds.filter (· != c), queue := s.queue ++ [q], grid := { s.grid with stepHold := false } }.p .hst
    F.HST_STATUS_QUEUED (s.queue.length + 1)

/-- A refusal with a code of R104 is shown in the refusal registers; LENGTH_CLASS names section 12 and the micro-batch (R111;
log entry 14, DESIGN CHOICE). -/
def State.startStep (s : State) (c : Cmd) (e : Sqe) (lens : HostRead) : State :=
  match s.startRefused c, s.img with
  | some code, _ => s.prkRefuse c { code := code }
  | none, none => s.refuse c Code.state
  | none, some p => match startFields p e with
    | some code => s.prkRefuse c { code := code }
    | none =>
      let n := p.im.mbCount
      match n, lens with
      | 0, _ => s.enqueue c e []
      | _, .fail err => s.addressFail c err
      | _, .ok bs =>
        let ws := lenWords n bs
        if ws.any fun w => decide (w ≥ 2 ^ 21) then s.prkRefuse c { code := Code.reserved }
        else match (List.range n).zip ws |>.find? fun x => decide (x.2 > p.im.maxLen x.1) with
          | some x => s.prkRefuse c { code := Code.lengthClass, sec := 12, slot := x.1 }
          | none => s.enqueue c e ws

def execStartStep (ring : RingId) (e : Sqe) (lens : HostRead) (s : State) : Host.Outcome State Fault Refusal :=
  .next (s.withCmd ring 0x31 e (e.flags == 0 && e.zero 38 40 && e.zero 48 64) fun c s => s.startStep c e lens)

/-! ### Effective knots (R335, R337) -/

/-- K′ of R337: a knot in the window from the verdict knot less 1 to the step's end becomes the end knot. -/
def State.effectiveKnot (s : State) (k : Nat) : Nat :=
  match s.run with
  | none => k
  | some r =>
    let at_ : Int := knotDiff r.first k
    let v : Int := knotDiff r.first r.verdictKnot
    if v - 2 < at_ && at_ < knotDiff r.first r.endKnot then r.endKnot else k

/-- The step that holds knot k, if one runs. -/
def State.stepHolds (s : State) (k : Nat) : Bool :=
  match s.run with
  | some r => decide (knotDiff r.first k < knotDiff r.first r.endKnot)
  | none => false

/-- ABORT_STEP: every queued step is cancelled; with VOID_RUNNING the running step is voided at K′ (R335). -/
def execAbortStep (ring : RingId) (e : Sqe) (s : State) : Host.Outcome State Fault Refusal :=
  let void := bit e.flags.toNat 0
  .next (s.withCmd ring 0x32 e (decide (e.flags.toNat < 2) && e.zero 8 64) fun (c : Cmd) (s : State) =>
    if !s.admitted then s.refuse c Code.state
    else if (s.cmdOf 0x33).isSome then s.refuse c Code.busy
    else
      let n := s.queue.length
      let s := s.cancelQueue
      if void && s.run.isSome then s.setCmd c { c with arg := s.effectiveKnot s.grid.nextKnot, len := n }
      else s.complete c Code.success n)

/-- The device stops its step at K′ of a PREEMPT or ABORT_STEP, and the root voids it on every rank (R335, R340). -/
def State.stopAt (s : State) (k : Nat) : State :=
  if s.stepHolds k && s.liveRun.isSome then (s.voidRun 3 true).raiseLate 4 3 k 0xFFFF else s

/-- ABORT_VOID at a knot (R335). -/
def State.abortKnot (s : State) : State :=
  let k := s.grid.knot
  let cs := s.cmds.filter fun c => c.opcode == 0x32 && !knotBefore k c.arg
  if cs.isEmpty then s
  else cs.foldl (fun (s : State) (c : Cmd) => s.complete c Code.success c.len) (s.stopAt k)

/-! ### Save areas (R336, R338, R341) -/

/-- Parts of a Hoop's SRAM: work area and save area (R187). -/
def workAt (im : Image) (h : Nat) : Nat := dieSram h + (im.act h + im.buf h) * 2 ^ 20
def workBytes (im : Image) (h : Nat) : Nat := (256 - im.act h - im.buf h - im.save h) * 2 ^ 20
def saveAt (im : Image) (h : Nat) : Nat := dieSram h + (256 - im.save h) * 2 ^ 20

def tableBytes (h : Nat) : Nat := if h = 0 then 262144 else 0

/-- PREC_BYTES that section h carries: of S0 in section 0, of S1 in section 1. -/
def State.sectionPrec (s : State) (h : Nat) : Nat := if h < 2 then s.g (.upd h) F.UPD_PREC_BYTES_BYTES else 0

def State.sectionSize (s : State) (p : Pricking) (h : Nat) : Nat := 4096 + tableBytes h + workBytes p.im h + s.sectionPrec h

/-- Ranges that a descriptor or plan of the pricking names outside SRAM, and the image region, as DPA runs. -/
def State.namedRuns (s : State) (p : Pricking) : List (Nat × Nat) :=
  let ps := s.pages
  let streams := (List.range (p.im.count 6)).flatMap fun i =>
    let d := p.stream i
    if descKind d = 6 then [] else (streamRegions ps 0 d (p.stream (i + 1))).map fun r => (r.lo, r.hi - r.lo)
  let buckets := (p.im.list 13).flatMap fun e => (List.range 4).flatMap fun i =>
    (blockRegion ps e i true).map fun r => (r.lo, r.hi - r.lo)
  let blocks := (p.im.list 14).flatMap fun e => (updAreas e).flatMap fun a => vaRuns ps a.1 a.2
  streams ++ buckets ++ blocks ++ vaRuns ps p.va p.image.length

/-- The DPA runs of section h, when it is 4 KiB aligned, pinned as writable and wholly in Hoop h's HBM3 (R338). -/
def State.sectionRuns (s : State) (p : Pricking) (h va : Nat) : Option (List (Nat × Nat)) :=
  if va % 4096 ≠ 0 || va ≥ 2 ^ 48 then none
  else match walkRange s.tlb true va (s.sectionSize p h) with
    | none => none
    | some rs => if rs.all fun r => memOf r.1 == some (.hbm h) && memOf (r.1 + r.2 - 1) == some (.hbm h) then some rs else none

/-- The checks of R338 on all four sections. -/
def State.savesOk (s : State) (p : Pricking) (vas : List Nat) : Bool :=
  let secs := (List.range 4).map fun h => s.sectionRuns p h (vas.getD h 0)
  secs.all (·.isSome) &&
    let runs := secs.map (·.getD [])
    let named := s.namedRuns p
    runs.all (fun rs => rs.all fun r => named.all fun n => !rangesMeet r n) &&
    (List.range 4).all fun i => (List.range i).all fun j =>
      (runs.getD i []).all fun a => (runs.getD j []).all fun b => !rangesMeet a b

/-- The tensor scale table as a save area holds it: 2,048 entries of 128 bytes (R338). -/
def entryBytes (x : ScaleEntry) : List Byte :=
  (List.range 16).flatMap (fun i => leBytes 4 (x.hist.getD i 0)) ++ statBytes x.last ++ leBytes 1 x.d ++ leBytes 1 x.fmt
    ++ leBytes 1 x.hist.length ++ List.replicate 45 0

def State.scaleBytes (s : State) : List Byte := (List.range 2048).flatMap fun i => entryBytes (tget {} s.scale i)

def entryOf (b : List Byte) : ScaleEntry :=
  { hist := (List.range (min 16 (leAt b 82 1))).map fun i => leAt b (4 * i) 4
    last := { sse := leAt b 64 4, count := leAt b 68 4, maxErr := leAt b 72 4, nonfin := leAt b 76 4 }
    d := leAt b 80 1, fmt := leAt b 81 1 }

def scaleOf (bs : List Byte) : Table ScaleEntry :=
  ((List.range 2048).zip (entries 128 bs)).filterMap fun x =>
    let e := entryOf x.2
    if e = {} then none else some (x.1, e)

/-- Bytes 0 to 127 of a section header (R341). -/
def State.headBytes (s : State) (p : Pricking) (h next kPrime : Nat) : List Byte :=
  leBytes 4 0x56535456 ++ leBytes 2 1 ++ leBytes 1 h ++ leBytes 1 0 ++ leBytes 8 p.jobId ++ p.digest ++ leBytes 4 next
    ++ leBytes 4 0 ++ leBytes 6 kPrime ++ leBytes 2 0 ++ leBytes 8 (workBytes p.im h) ++ leBytes 8 (tableBytes h)
    ++ leBytes 8 (s.sectionPrec h) ++ List.replicate 40 0

def State.headerBytes (s : State) (p : Pricking) (h next kPrime : Nat) : List Byte :=
  let b := s.headBytes p h next kPrime
  b ++ shake256 b ++ List.replicate (4096 - 160) 0

/-- A section header that matches the admitted pricking and the partitions in force (R342); NEXT_STEP and SAVE_KNOT are the
saved ones. -/
def State.headerOk (s : State) (p : Pricking) (h : Nat) (b : List Byte) : Bool :=
  let zero (lo hi : Nat) : Bool := ((b.drop lo).take (hi - lo)).all (· == 0)
  leAt b 0 4 == 0x56535456 && leAt b 4 2 == 1 && leAt b 6 1 == h && zero 7 8 && zero 52 56 && zero 62 64 && zero 88 128
    && zero 160 4096 && leAt b 72 8 == tableBytes h && (b.drop 128).take 32 == shake256 (b.take 128)
    && leAt b 8 8 == p.jobId && (b.drop 16).take 32 == p.digest && leAt b 64 8 == workBytes p.im h
    && leAt b 80 8 == s.sectionPrec h

/-! ### PREEMPT (R337, R339, R340) -/

def sqeSaves (e : Sqe) : List Nat := (List.range 4).map fun h => e.field (16 + 8 * h) 8

def State.preempt (s : State) (c : Cmd) (e : Sqe) : State :=
  match s.img with
  | none => s.refuse c Code.state
  | some p =>
    let next := s.grid.nextKnot
    let t := e.field 8 6
    let k := if t = 0 then next else t
    if s.save.isSome || (s.cmds.any fun x => x != c && (x.opcode == 0x33 || x.opcode == 0x34)) then s.refuse c Code.busy
    else if knotBefore k next then s.refuse c Code.range
    else if !s.savesOk p (sqeSaves e) then s.refuse c Code.saveArea
    else
      let k' := s.effectiveKnot k
      let s := s.cancelQueue.p2 .hst F.HST_PREEMPT_KNOT_LO_KNOT_LO F.HST_PREEMPT_KNOT_HI_KNOT_HI k'
      { s.p .hst F.HST_STATUS_PREEMPT 1 with save := some { resume := false, kPrime := k', saves := sqeSaves e } }

def execPreempt (ring : RingId) (e : Sqe) (s : State) : Host.Outcome State Fault Refusal :=
  .next (s.withCmd ring 0x33 e (e.flags == 0 && e.zero 14 16 && e.zero 48 64) fun c s => s.preempt c e)

/-- The save or restore ends and its command completes. -/
def State.endSave (s : State) (op code result : Nat) : State :=
  { s.p .hst F.HST_STATUS_PREEMPT 0 with save := none }.completeOp op code result

/-- The next-step value a pre-emption saves (R341). -/
def State.nextNow (s : State) : Nat := match s.run with | some r => r.q.step | none => s.nextStep

/-- Headers and table go into the Hoops' save areas (R336, R339). -/
def State.stage (s : State) (p : Pricking) (kPrime : Nat) : State := s.forN 4 fun h s =>
  s.writeMem (saveAt p.im h) (s.headerBytes p h s.nextNow kPrime ++ if h = 0 then s.scaleBytes else [])

/-- PREEMPT_STOP at K′, PREEMPT_SAVE at the knot after it, RESUME_RESTORE at the first knot (R339, R340, R342). A PREEMPT
whose pricking has lost admission meanwhile ends with STATE (log entry 29, DEDUCED). -/
def State.saveKnot (s : State) : State :=
  match s.save with
  | none => s
  | some v =>
    if v.beganAt.isSome then s
    else if v.resume then
      { s.p .hst F.HST_STATUS_PREEMPT 3 with save := some { v with beganAt := some s.grid.time } }
    else match s.img with
      | none => s.endSave 0x33 Code.state 0
      | some p =>
        let k := s.grid.knot
        if k = v.kPrime then (s.stopAt k).p .hst F.HST_STATUS_PREEMPT 2
        else if knotBefore v.kPrime k then
          { (s.stage p v.kPrime).p .hst F.HST_STATUS_PREEMPT 3 with save := some { v with beganAt := some s.grid.time } }
        else s

/-- The parts of section h in device memory, in their order: staged header and table, work area, preconditioner region. -/
def State.sectionParts (s : State) (p : Pricking) (h : Nat) : List (Nat × Nat) :=
  [(saveAt p.im h, 4096 + tableBytes h), (workAt p.im h, workBytes p.im h)]
    ++ if h < 2 then [(dieSram (4 + h), s.sectionPrec h)] else []

/-- Nanoseconds since a local time. -/
def State.nsSince (s : State) (t : Nat) : Nat := min ((s.grid.time + 2 ^ 64 - t) % 2 ^ 64 / 2 ^ 16) (2 ^ 32 - 1)

def State.saveDone (s : State) (p : Pricking) (v : Save) (t : Nat) : State :=
  let next := s.nextNow
  let s := s.forN 4 fun h s =>
    s.writeRuns ((s.sectionRuns p h (v.saves.getD h 0)).getD []) (s.readRuns (s.sectionParts p h))
  let ns := s.nsSince t
  let s := (s.p .hst F.HST_SAVE_NS_NS ns).endSave 0x33 Code.success (next + ns * 2 ^ 32)
  s.suspend 2

/-- PREEMPT_SAVE_DONE (R339, R343). -/
def execPreemptSaveDone (s : State) : Host.Outcome State Fault Refusal :=
  match s.save with
  | some v => match v.resume, v.beganAt, s.img with
    | false, some t, some p => .next (s.saveDone p v t)
    | false, some _, none => .next (s.endSave 0x33 Code.state 0)
    | _, _, _ => .next s
  | none => .next s

/-! ### RESUME (R342) -/

/-- Leave the suspended state. -/
def State.leaveSuspend (s : State) : State :=
  { (s.p .hst F.HST_STATUS_SUSPENDED 0).p .hst F.HST_STATUS_SUSP_CAUSE 0 with suspOwner := none }

/-- The headers of the four sections, each readable one held against the admitted pricking. -/
def State.headersOk (s : State) (p : Pricking) (vas : List Nat) : Bool :=
  (List.range 4).all fun h => match s.sectionRuns p h (vas.getD h 0) with
    | none => false
    | some rs => (s.badRuns rs 0).isSome || s.headerOk p h ((s.readRuns rs).take 4096)

def State.resumeCmd (s : State) (c : Cmd) (e : Sqe) : State :=
  let inPlace := bit e.flags.toNat 0
  let suspended := s.gb .hst F.HST_STATUS_SUSPENDED
  match s.img with
  | none => s.refuse c Code.state
  | some p =>
    if inPlace && !suspended then s.refuse c Code.state
    else if s.run.isSome || !s.queue.isEmpty || s.save.isSome || s.admitting.isSome
      || (s.cmds.any fun x => x != c && (x.opcode == 0x33 || x.opcode == 0x34)) then s.refuse c Code.busy
    else if inPlace then
      if s.suspOwner = some (p.jobId, p.digest) then s.leaveSuspend.complete c Code.success 0
      else s.refuse c Code.resumeMismatch
    else
      let vas := sqeSaves e
      if !s.savesOk p vas then s.refuse c Code.saveArea
      else if !s.headersOk p vas then s.refuse c Code.resumeMismatch
      else { s with save := some { resume := true, kPrime := 0, saves := vas } }

def execResume (ring : RingId) (e : Sqe) (s : State) : Host.Outcome State Fault Refusal :=
  let sound := decide (e.flags.toNat < 2) && e.zero 8 16 && e.zero 48 64 && (!bit e.flags.toNat 0 || e.zero 16 48)
  .next (s.withCmd ring 0x34 e sound fun c s => s.resumeCmd c e)

/-- A restore that met a fault, and the offset of the failing pair over the four sections in their order (R327; log entry 29,
DEDUCED), leaves the table, the work areas and the preconditioners as an admission of another image
does (R342). -/
def State.restoreFail (s : State) (p : Pricking) (code result : Nat) : State :=
  let s := (s.scaleClear p.scaleFmts).precClear p
  let s := s.forN 4 fun h s => s.zeroRange (workAt p.im h) (workBytes p.im h)
  s.endSave 0x34 code result

/-- Copy section h back: table, work area and preconditioner region (R342). -/
def State.restoreSection (s : State) (p : Pricking) (h : Nat) (bs : List Byte) : State :=
  let s := if h = 0 then { s with scale := scaleOf ((bs.drop 4096).take 262144) } else s
  let o := 4096 + tableBytes h
  let s := s.writeMem (workAt p.im h) ((bs.drop o).take (workBytes p.im h))
  if h < 2 then s.writeMem (dieSram (4 + h)) (bs.drop (o + workBytes p.im h)) else s

def State.restoreDone (s : State) (p : Pricking) (v : Save) (t : Nat) : State :=
  let secs := (List.range 4).map fun h => s.sectionRuns p h (v.saves.getD h 0)
  if !secs.all (·.isSome) then s.restoreFail p Code.mapping 0
  else
    let runs := secs.map (·.getD [])
    match s.badRuns (runs.flatMap id) 0 with
    | some b => (s.copyUe b.1).restoreFail p Code.media (b.2 / 64 * 64)
    | none =>
      let bs := runs.map s.readRuns
      if !((List.range 4).all fun h => s.headerOk p h ((bs.getD h []).take 4096)) then s.endSave 0x34 Code.resumeMismatch 0
      else
        let next := leAt (bs.getD 0 []) 48 4
        let s := s.forN 4 fun h s => s.restoreSection p h (bs.getD h [])
        let s := { s.p .hst F.HST_SAVE_NS_NS (s.nsSince t) with nextStep := next, stepStat := [] }
        s.leaveSuspend.endSave 0x34 Code.success next

/-- RESUME_RESTORE_DONE (R342, R343). The sections lie in HBM3 (R338), so a read of theirs that came back uncorrectable has
left its pair bad (R238). -/
def execResumeRestoreDone (s : State) : Host.Outcome State Fault Refusal :=
  match s.save with
  | some v => match v.resume, v.beganAt, s.img with
    | true, some t, some p => .next (s.restoreDone p v t)
    | true, some _, none => .next (s.endSave 0x34 Code.state 0)
    | _, _, _ => .next s
  | none => .next s

end Sys2Proof.Machine
end

