-- ==== Sys2Proof/Machine/Irq.lean ====
section
/-! DEFINITION. The interrupt controllers: filtered lines, the states of a source, and what a pending source does to the cores
and to the host (R427 to R431, R433). -/

namespace Sys2Proof.Machine

/-- One bit of a register word. -/
def State.irqBit (s : State) (d : Nat) (f : Nat → Fld) (n : Nat) : Bool := bit (s.g (.irq d) (f (n / 32))) (n % 32)

def State.setIrqBit (s : State) (d : Nat) (f : Nat → Fld) (n : Nat) (v : Bool) : State :=
  let w := s.g (.irq d) (f (n / 32))
  let m := 2 ^ (n % 32)
  s.p (.irq d) (f (n / 32)) (if v then (if bit w (n % 32) then w else w + m) else (if bit w (n % 32) then w - m else w))

def State.irqPending (s : State) (d n : Nat) : Bool := s.irqBit d F.IRQ_PEND_PEND n
def State.irqActive (s : State) (d n : Nat) : Bool := s.irqBit d F.IRQ_ACTIVE_ACTIVE n
def State.irqLine (s : State) (d n : Nat) : Bool := s.irqBit d F.IRQ_LINE_LINE n
def State.irqEdge (s : State) (d n : Nat) : Bool := s.gb (.irq d) (F.IRQ_SRC_CFG_MODE n)

/-- Source 2 targets every core; its ENABLE and TARGET are ignored (R427). -/
def State.irqTargets (s : State) (d n c : Nat) : Bool := n == 2 || bit (s.g (.irq d) (F.IRQ_SRC_CFG_TARGET n)) c
def State.irqEnabled (s : State) (d n : Nat) : Bool := n == 2 || s.gb (.irq d) (F.IRQ_SRC_CFG_ENABLE n)

/-- What a pending source does to core c: it wakes it if it sleeps, and interrupts it unless masked (R430). -/
def State.irqCore (s : State) (d n c : Nat) : State :=
  if !(s.irqEnabled d n && s.irqTargets d n c) then s
  else
    let asleep := s.g (.irq d) F.IRQ_STATUS_ASLEEP
    let s := if bit asleep c then (s.p (.irq d) F.IRQ_STATUS_ASLEEP (asleep - 2 ^ c)).emit (.coreWake d c n) else s
    if n == 2 || !s.irqBit d (F.IRQ_MASK_MASK c) n then s.emit (.coreInterrupt d c n) else s

/-- A source becomes pending (R429, R430). -/
def State.irqPend (s : State) (d n : Nat) : State :=
  (s.setIrqBit d F.IRQ_PEND_PEND n true).forN 4 fun c s => s.irqCore d n c

/-- The MSI-X message of a rising edge, at the expert level (R431). -/
def State.irqHost (s : State) (d n : Nat) : State :=
  if s.expert && s.gb (.irq d) (F.IRQ_SRC_CFG_HOST n) then
    let v := s.g (.irq d) (F.IRQ_SRC_CFG_VECTOR n)
    let s := if s.msixMasked v then s else s.inc (.irq d) F.IRQ_MSIX_SENT_COUNT 1
    s.sendMsix v
  else s

/-- Does a unit drive the line, or does it come from outside the model: an AER error of the PCIe port (R427)?
Readings: log entry 40, DEDUCED. -/
def State.irqDriven (s : State) (d n : Nat) : Bool :=
  (d * 256 + n) ∈ s.lines || (d == 4 && n == 161)

/-- IRQ_LINE_FILTERED: the filter has seen the new level for FILTER cycles; a low level is the end of the condition (R428,
R429). -/
def execIrqLineFiltered (die : Die) (source : BitVec 8) (level : Bool) (s : State) : Host.Outcome State Fault Refusal :=
  let d := die.val
  let n := source.toNat
  .next (
    if !s.pwrRuns || s.irqLine d n == level then s
    else if level then
      if !s.irqDriven d n then s
      else
        let s := (s.setIrqBit d F.IRQ_LINE_LINE n true).irqHost d n
        if s.irqEdge d n || !s.irqActive d n then s.irqPend d n else s
    else
      let s := { s with lines := s.lines.filter (· != d * 256 + n) }.setIrqBit d F.IRQ_LINE_LINE n false
      if s.irqEdge d n then s else s.setIrqBit d F.IRQ_PEND_PEND n false)

/-- What an accepted IRQ_ apply changes of a source whose configuration it changed: a LEVEL source is pending while its line is
high and no core serves it, and a pending source reaches the cores it newly targets (R429, R430).
Readings: log entry 40, DEDUCED. -/
def State.irqEffect (old s : State) (d : Nat) : State :=
  s.forN 256 fun n s =>
    let a := (Blk.irq d).base + 0x400 + 4 * n
    if old.rd a == s.rd a then s
    else
      let level := !s.irqEdge d n && !s.irqActive d n
      let s := if level then s.setIrqBit d F.IRQ_PEND_PEND n (s.irqLine d n) else s
      if !s.irqPending d n then s
      else s.forN 4 fun c s =>
        if old.irqPending d n && old.irqEnabled d n && old.irqTargets d n c then s else s.irqCore d n c

/-- IRQ_ACK: the source becomes active and stops being pending. An ACK of a source that is not pending, that another core
holds, or that does not target the core is ignored (R429). -/
def execIrqAck (die : Die) (core : Fin 4) (source : BitVec 8) (s : State) : Host.Outcome State Fault Refusal :=
  let d := die.val
  let n := source.toNat
  let c := core.val
  let k := d * 256 + n
  .next (
    if !s.pwrRuns || !s.irqPending d n || !s.irqTargets d n c || (s.irqActive d n && tget 0 s.irqHeld k != c + 1) then s
    else
      let s := (s.setIrqBit d F.IRQ_PEND_PEND n false).setIrqBit d F.IRQ_ACTIVE_ACTIVE n true
      let s := (s.p (.irq d) (F.IRQ_ACK_SOURCE c) n).p (.irq d) (F.IRQ_ACK_HELD c) 1
      { s with irqHeld := tput 0 s.irqHeld k (c + 1) })

/-- IRQ_DONE: the service ends; a source that fired again, or whose LEVEL line is still high, is pending again (R429). -/
def execIrqDone (die : Die) (core : Fin 4) (source : BitVec 8) (s : State) : Host.Outcome State Fault Refusal :=
  let d := die.val
  let n := source.toNat
  let c := core.val
  let k := d * 256 + n
  .next (
    if !s.pwrRuns || !s.irqActive d n || tget 0 s.irqHeld k != c + 1 then s
    else
      let s := s.setIrqBit d F.IRQ_ACTIVE_ACTIVE n false
      let s := if s.g (.irq d) (F.IRQ_ACK_SOURCE c) == n then s.p (.irq d) (F.IRQ_ACK_HELD c) 0 else s
      let s := { s with irqHeld := tput 0 s.irqHeld k 0 }
      if s.irqPending d n || (!s.irqEdge d n && s.irqLine d n) then s.irqPend d n else s)

end Sys2Proof.Machine
end

