-- ==== Sys2Proof/Machine/Knot.lean ====
section
/-! DEFINITION. Knot events and local ticks, and everything that happens at one: applies, mode changes, the begin and end of
steps, verdicts, sweeps (R42, R45 to R56, R60, R65 to R77, R105 to R108, R165, R202, R219, R247, R248, R265, R290 to R292,
R302, R322, R331, R332, R335, R340 to R343, R355). -/

namespace Sys2Proof.Machine

/-! ### Applies (R67, R68) -/

/-- What an accepted apply changes beside the registers. -/
def State.cfgEffect (old s : State) : Blk → State
  | .grid => State.gridEffect old s
  | .dev => State.devEffect old s
  | .hst => State.hstEffect old s
  | .pmu d => State.pmuEffect old s d
  | .pwr => s.gateArrays.refreshPower
  | .nir p => s.nirEffect p
  | .irq d => State.irqEffect old s d
  | _ => s

/-- Check one block's snapshot and apply it whole or refuse it whole; the outcome goes to the event ring, after a ring that
the apply itself moved (R68, R74). -/
def State.applyBlock (s : State) (b : Blk) (snap : Table Word) : State :=
  match lowestFail (cfgFails s b (cfgKeys s b snap) fun o => cfgWord s snap (b.base + o)) with
  | some (off, rule) => (s.cfgRefuse b rule off).cfgEvent b rule off true
  | none => (State.cfgEffect s (s.cfgTake b snap) b).cfgEvent b 0 0 false

/-- Every snapshot taken at least 1 µs ago applies, in the order of the block windows. -/
def State.cfgApplyDue (s : State) : State :=
  let due (x : Nat × Nat × Table Word) : Bool := decide ((s.grid.time + 2 ^ 64 - x.2.1) % 2 ^ 64 ≥ nsT 1000)
  let now := (s.snaps.filter due).mergeSort fun x y => decide (x.1 ≤ y.1)
  let s := { s with snaps := s.snaps.filter fun x => !due x }
  now.foldl (fun s x => match blkAt x.1 with
    | some b => s.applyBlock b x.2.2
    | none => s) s

/-- CFG_APPLY.GO of a block (R66, R67, R69). -/
def State.writeGo (s : State) (b : Blk) (v : Word) : State := if v.toNat % 2 = 1 then s.cfgGo b else s

/-- CFG_APPLY_GO of the block window with this number in BAR0, written 1. -/
def execCfgApplyGo (block : BitVec 10) (s : State) : Host.Outcome State Fault Refusal :=
  match blkAt (block.toNat * 0x10000) with
  | some b => .next (s.hostWrite (b.base + F.CFG_APPLY_GO.off) (·.writeGo b 1))
  | none => .next s

/-- Does the byte at this offset carry parity: is one of its bits an RW or RWK bit (R75)? -/
def parityByte (a : Nat) : Bool := leAt (leBytes 4 (rwMask (a - a % 4) ||| rwkMask (a - a % 4))) (a % 4) 1 != 0

/-- CONFIG_SCRUB: `bad` is the address of a configuration byte whose parity does not match, in the value in force, the
shadow or a snapshot, whether the scrubber finds it or a read of its register (R75). -/
def execConfigScrub (bad : Option (BitVec 26)) (s : State) : Host.Outcome State Fault Refusal :=
  match bad with
  | none => .next s
  | some a =>
    match blkAt a.toNat with
    | some b =>
      if !s.pwrRuns || !parityByte a.toNat then .next s
      else .next (s.fatal b.irqDie 1 (b.die + b.index * 256))
    | none => .next s

/-! ### The device-wide mode change (R71, R72) -/

/-- The four cases in which a request is refused (R71). -/
def State.modeRefused (s : State) (mode target : Nat) : Bool :=
  !knotBefore ((s.grid.knot + 1) % 2 ^ 48) target || (s.allSpans []).any (runsThrough target)
    || s.gb .dev F.DEV_MODE_STATE_PEND || decide (mode > 1)

/-- A write of DEV_MODE_REQ (R14, R65, R71, R77): a refused request changes nothing but REFUSED, and a write with a reserved
mode changes nothing; the requested mode and target of a pending request stand from here, whatever is written later. -/
def State.writeModeReq (s : State) (v : Word) : State :=
  let mode := fldGet F.DEV_MODE_REQ_MODE v
  let expert := fldGet F.DEV_MODE_REQ_EXPERT v
  let target := s.g2 .dev F.DEV_MODE_TGT_LO_KNOT_LO F.DEV_MODE_TGT_HI_KNOT_HI
  let go := fldGet F.DEV_MODE_REQ_GO v == 1
  if go && s.modeRefused mode target then s.p .dev F.DEV_MODE_STATE_REFUSED 1
  else if mode > 1 then s
  else
    let s := (s.p .dev F.DEV_MODE_REQ_MODE mode).p .dev F.DEV_MODE_REQ_EXPERT expert
    if go then
      { (s.p .dev F.DEV_MODE_STATE_REFUSED 0).p .dev F.DEV_MODE_STATE_PEND 1 with
        modeReq := some (mode, expert == 1, target) }
    else s

def execModeRequest (value : Word) (s : State) : Host.Outcome State Fault Refusal :=
  .next (s.hostWrite (Blk.dev.base + F.DEV_MODE_REQ_MODE.off) (·.writeModeReq value))

/-- The MODE event (R426). -/
def State.modeEvent (s : State) (code mode : Nat) (expert : Bool) (die block : Nat) : State :=
  s.event { type := 4, cls := 0, die := 7, block := 0, code := code
            data := mode + (if expert then 16 else 0) + die * 2 ^ 8 + block * 2 ^ 16 }

/-- MODE_COMMIT: every unit has committed (R72, R108).
Readings: log entry 43, DEDUCED. -/
def State.modeCommit (s : State) (mode : Nat) (expert : Bool) : State :=
  let change := s.g .dev F.DEV_MODE_STATE_CUR_MODE != mode
  let s := ((s.p .dev F.DEV_MODE_STATE_CUR_MODE mode).pb .dev F.DEV_MODE_STATE_CUR_EXPERT expert).p .dev
    F.DEV_MODE_STATE_PEND 0
  let s := { s.p .dev F.DEV_MODE_SPLIT_SPLIT 0 with modeReq := none }.modeEvent 0 mode expert 0 0
  if change then s.withdrawAtKnot else s

/-- MODE_REVERT at the knot after the target (R72). -/
def State.modeUndo (s : State) (mode : Nat) (expert : Bool) (die block : Nat) : State :=
  let s := ((s.p .dev F.DEV_MODE_SPLIT_SPLIT 1).p .dev F.DEV_MODE_SPLIT_DIE die).p .dev F.DEV_MODE_SPLIT_BLOCK block
  { s.p .dev F.DEV_MODE_STATE_PEND 0 with modeReq := none, modeRevert := none }.modeEvent 1 mode expert die block

/-- A pending mode change at a knot; `fail` is the unit that was not ready, or failed to commit, at the target. -/
def State.modeKnot (s : State) (fail : Option (Die × BitVec 8)) : State :=
  match s.modeReq, s.modeRevert with
  | none, _ => s
  | some (m, x, _), some (d, b) => s.modeUndo m x d b
  | some (m, x, t), none =>
    if knotBefore s.grid.knot t then s
    else match fail with
      | some (d, b) => { s with modeRevert := some (d.val, b.toNat) }
      | none => s.modeCommit m x

/-! ### The begin of a step (R105, R302, R331) -/

/-- Registers that show the running step. -/
def State.stepRegs (s : State) (q : QStep) : State :=
  let k := s.grid.knot
  let s := s.forN 6 fun d s =>
    let b := Blk.prk d
    let n := s.g2 b F.PRK_STEP_LO_COUNT_LO F.PRK_STEP_HI_COUNT_HI
    let s := (s.p b F.PRK_STATUS_RUNNING 1).p2 b F.PRK_STEP_LO_COUNT_LO F.PRK_STEP_HI_COUNT_HI ((n + 1) % 2 ^ 48)
    (s.p2 b F.PRK_STEP_KNOT_LO_KNOT_LO F.PRK_STEP_KNOT_HI_KNOT_HI k).slotNextReg d
  let s := s.forN 4 fun h s =>
    (s.p2 (.vec h) F.VEC_SEED_LO_SEED_LO F.VEC_SEED_HI_SEED_HI q.seed).p (.vec h) F.VEC_STEP_NUM_STEP q.step
  let s := s.forN 2 fun k s =>
    ((((s.p (.upd k) F.UPD_GRAD_MULT_VALUE q.gradMult).p (.upd k) F.UPD_LR_MULT_VALUE q.lrMult).p (.upd k) F.UPD_BC1_VALUE
      q.bc1).p (.upd k) F.UPD_BC2_VALUE q.bc2)
  s.p .hst F.HST_STATUS_RUNNING 1

/-- STEP_BEGIN: the step at the head of the queue begins at this knot (R105); host-armed copies still live are stopped, and
every buffer starts empty. -/
def State.stepBegin (s : State) (p : Pricking) (q : QStep) (rest : List QStep) : State :=
  let k := s.grid.knot
  let s := { s.bobbinsFirstKnot.arraysFirstKnot with
    queue := rest, units := []
    run := some { q := q, first := k, endKnot := (k + p.stepKnots) % 2 ^ 48, verdictKnot := (k + p.verdictOfs) % 2 ^ 48
                  times := [s.grid.knotAt] } }
  let s := (s.p .hst F.HST_STATUS_QUEUED rest.length).stepRegs q
  if s.isRoot && s.sentVoid then s.seeVoid k else s

/-- May the step at the head of the queue begin at this knot (R42, R56, R72, R105)? -/
def State.mayBegin (s : State) (q : QStep) : Bool :=
  s.run.isNone && s.lockState == 2 && !s.grid.stepHold && s.modeRevert.isNone && !s.saveBusy && !s.fatalSet
    && !s.gb .hst F.HST_STATUS_SUSPENDED && !timeBefore s.grid.knotAt ((q.startAt + nsT 10000) % 2 ^ 64)

def State.beginKnot (s : State) : State :=
  match s.queue, s.img with
  | q :: rest, some p => if s.mayBegin q then s.stepBegin p q rest else s
  | _, _ => s

/-! ### The running step at a knot (R107, R165, R290, R312, R332) -/

/-- VERDICT_TAKEN at the verdict knot, the merge of the scale statistics, and the update withheld by an unclean verdict. -/
def State.verdictKnot (s : State) : State :=
  match s.run with
  | none => s
  | some r =>
    if r.verdict.isSome || knotBefore s.grid.knot r.verdictKnot then s
    else
      let s := s.takeVerdict r.verdictKnot
      let clean := match s.run with | some r => r.verdict == some 0 | none => false
      let s := s.scaleMerge clean
      if clean then s else s.forN 2 fun k s => s.p (.upd k) F.UPD_STATUS_EMPTY 1

/-- The running step's verdict, the deadlines that fall on this knot, and its end knot. -/
def State.runKnot (s : State) : State :=
  match s.run with
  | none => s
  | some r =>
    let s := { s with run := some { r with times := r.times ++ [s.grid.knotAt] } }.verdictKnot
    let s := s.knotDeadlines (knotDiff r.first s.grid.knot)
    if knotBefore s.grid.knot r.endKnot then s else s.endRun

/-- An attachment change to a slower class withdraws admission at the end knot (R108). -/
def State.withdrawDue (s : State) : State :=
  if s.pwr.withdrawAtEnd && s.run.isNone then { s with pwr := { s.pwr with withdrawAtEnd := false } }.withdraw true else s

/-- SUSPEND_ON_FAULT (R343). -/
def State.suspendKnot (s : State) : State := if s.suspendNext then s.suspend 1 else s

/-! ### What repeats at every knot -/

/-- VOID_SNAG_REPEAT (R265): every cause the device has raised for its step, until VOID_STEP shows. -/
def State.repeatVoids (s : State) : State :=
  match s.run with
  | none => s
  | some r =>
    let cs := s.grid.voidCauses
    cs.foldl (fun s c => s.raiseSnag 4 ⟨c, s.grid.knot % 2 ^ 16, 0, s.stretch % 2 ^ 24, s.rank, r.endKnot⟩ true) s

/-- RELEASE_NOTICE_PERIODIC (R219): every live LINK_IN transfer. -/
def State.releaseKnot (s : State) : State :=
  let l := s.arms.filter fun a => a.kind == 4 && a.phase == .live
  l.foldl (fun s a => s.releaseNotice a) s

/-- DOORBELL_SWEEP (R322): the sweep that every knot or tick starts while a ring exists; its page arrives with
SWEEP_FETCH. -/
def State.scheduledSweep (s : State) : State :=
  if (s.ready || s.fatalSet) && s.hostUp && (List.range 64).any (fun i => (s.ring i).isSome) then s.sweepStart else s

/-- At a tick, a RESTORE begins; a PREEMPT ends with STATE, as its pricking has lost admission (R342, log entry 29, DEDUCED). -/
def State.saveTick (s : State) : State :=
  match s.save with
  | none => s
  | some v => if v.beganAt.isNone && !v.resume then s.endSave 0x33 Code.state 0 else s.saveKnot

/-! ### KNOT_EVENT (R47) and LOCAL_TICK (R67) -/

/-- The knot event on every die (R427). -/
def State.knotLines (s : State) : State := { s.forN 6 fun d s => s.line d 0 with ceSeen := [] }

/-- What a knot does to configuration, mode and grid, before the step.
Readings: log entry 8, DEDUCED. -/
def State.knotConfig (s : State) (fail : Option (Die × BitVec 8)) : State :=
  let s := s.knotAdvance.knotLines
  ((s.leaveEffect s.grid.knot).intervalCheck.modeKnot fail).cfgApplyDue

/-- What a knot does to the step and the commands that wait for it. -/
def State.knotStep (s : State) : State :=
  s.runKnot.withdrawDue.abortKnot.saveKnot.suspendKnot.beginKnot

/-- What a knot does last. -/
def State.knotRest (s : State) (late : List Projection) : State :=
  let s := ((s.repeatVoids.silenceKnot.releaseKnot).project late).pageKnot.capApply
  (s.knotWindows s.grid.knot).scheduledSweep

/-- KNOT_EVENT: the next knot's announced time has come. A device that is FREE or ACQUIRING has no knot events; its local
ticks take their place (R67). -/
def execKnotEvent (late : List Projection) (fail : Option (Die × BitVec 8)) (s : State) :
    Host.Outcome State Fault Refusal :=
  if s.lockState < 2 then .next s else .next ((s.knotConfig fail).knotStep.knotRest late).evtSettle

/-- READY, owed since a function-level reset, is set again at the first local tick, well within its 10 ms (R345, log entry
32, DESIGN CHOICE); the VDM binding is then in service again (R408). -/
def State.readyTick (s : State) : State :=
  if s.readyDue then ({ s with readyDue := false }.p .dev F.DEV_STATUS_READY 1).p .mgt F.MGT_STATUS_VDM_UP 1 else s

/-- LOCAL_TICK: every 50,000 ns of local time while FREE or ACQUIRING, whatever GRID_KNOT_INT holds; that the ticks fall at
the multiples of 50,000 ns of local time is log entry 49, DESIGN CHOICE. -/
def execLocalTick (s : State) : Host.Outcome State Fault Refusal :=
  if s.lockState ≥ 2 || !s.pwrRuns then .next s
  else
    let t := (s.grid.time / nsT 50000 + 1) * nsT 50000
    let s := (s.advanceTo (t % 2 ^ 64)).readyTick
    let s := { s with grid := { s.grid with ticks := s.grid.ticks + 1 }, ceSeen := [] }
    let n := s.grid.ticks % 2 ^ 48
    let s := (s.leaveEffect n).cfgApplyDue.saveTick.suspendKnot
    .next ((s.pageKnot.capApply.knotWindows n).scheduledSweep).evtSettle

/-! ### The event ring's tail, and a failed entry (R74, R77) -/

/-- DEV_EVT_TAIL: an index at or beyond ENTRIES is ignored; space lets the dropped count go out (R74, R77). -/
def State.writeTail (s : State) (v : Word) : State :=
  let i := v.toNat % 2 ^ 16
  if i ≥ s.evtEntries then s else (s.p .dev F.DEV_EVT_TAIL_TAIL i).evtSettle

def execEvtTailWrite (value : Word) (s : State) : Host.Outcome State Fault Refusal :=
  .next (s.hostWrite (Blk.dev.base + F.DEV_EVT_TAIL_TAIL.off) (·.writeTail value))

/-- EVENT_WRITE_FAIL: the last entry written is lost; HEAD returns to it, it counts as dropped, and HST_HOST_ERR reports
code 6 (R74). -/
def execEventWriteFail (s : State) : Host.Outcome State Fault Refusal :=
  let n := s.evtEntries
  if n = 0 || s.g .dev F.DEV_EVT_HEAD_HEAD = s.g .dev F.DEV_EVT_TAIL_TAIL then .next s
  else
    let h := s.g .dev F.DEV_EVT_HEAD_HEAD
    let s := (s.p .dev F.DEV_EVT_HEAD_HEAD ((h + n - 1) % n)).inc .dev F.DEV_EVT_STATUS_DROPPED 1
    let s := { s with evtOwed := true, evtPhase := if h = 0 then !s.evtPhase else s.evtPhase }
    let s := ((s.p .hst F.HST_HOST_ERR_CODE 6).p .hst F.HST_HOST_ERR_RING 0).p .hst F.HST_HOST_ERR_VALID 1
    .next (s.line 4 162)

end Sys2Proof.Machine
end

