-- ==== Sys2Proof/Machine/Mgt.lean ====
section
/-! DEFINITION. The management endpoint: sensor readings, the I3C target, MCTP control and PLDM (R407 to R411). Codes and
layouts of messages that the spec leaves to MIPI and the DMTF are those bodies' (log entry 33, PRESUMED). -/

namespace Sys2Proof.Machine

/-! ### Sensor readings (R410) -/

/-- The sources of the readings at this instant, by sensor; 64 + n for the n-th sensor of composite 19. -/
def State.sensorNow (s : State) : Table Nat :=
  let hottest (h : Nat) : Nat := (List.range 6).foldl (fun x i => max x (s.g (.hbm (6 * h + i)) F.HBM_STATUS_TEMP)) 0
  let ce := (List.range 24).foldl (fun x m => x + s.g (.hbm m) F.HBM_CE_RS_COUNT) 0
  let ue := (List.range 24).foldl (fun x m => x + s.g (.hbm m) F.HBM_UE_COUNT_COUNT) 0
  let ue := (List.range 2).foldl (fun x u => x + s.g (.str u) F.STR_UE_COUNT_COUNT) ue
  let reasons := s.g .pwr F.PWR_THR_ACTIVE_REASONS
  [(1, s.g .pwr F.PWR_INPUT_VIN_MV), (2, s.g .pwr F.PWR_INPUT_IIN), (3, s.g .pwr F.PWR_MODULE_W_AVG_W),
   (4, s.g .pwr F.PWR_MODULE_W_PEAK_W), (5, s.g .pwr F.PWR_CAP_IN_FORCE),
   (6, s.g .pwr F.PWR_HOOP_TEMP_H0), (7, s.g .pwr F.PWR_HOOP_TEMP_H1), (8, s.g .pwr F.PWR_HOOP_TEMP_H2),
   (9, s.g .pwr F.PWR_HOOP_TEMP_H3), (10, s.g .pwr F.PWR_SHUTTLE_TEMP_S0), (11, s.g .pwr F.PWR_SHUTTLE_TEMP_S1),
   (12, hottest 0), (13, hottest 1), (14, hottest 2), (15, hottest 3),
   (16, coolingState (s.g .pwr F.PWR_STATUS_CLASS)), (17, if s.fatalSet then 3 else if s.ready then 2 else 1),
   (18, s.lockState + 1), (20, ce), (21, ue)]
  ++ (List.range 7).map fun n => (64 + n, if bit reasons n then 2 else 1)

def State.refreshSensors (s : State) : State :=
  { s with mgt := { s.mgt with readings := s.sensorNow.filter fun p => p.2 != 0 } }

/-- SENSOR_REFRESH (R410). -/
def execSensorRefresh (s : State) : Host.Outcome State Fault Refusal :=
  .next (if s.mgt.live then s.refreshSensors else s)

def State.reading (s : State) (k : Nat) : Nat := tget 0 s.mgt.readings k

/-! ### The I3C target (R407) -/

/-- Most significant byte first, as I3C and the MCTP control commands send numbers. -/
def beBytes (n x : Nat) : List Byte := (leBytes n x).reverse

/-- A target event command: bit 0 enables or disables in-band interrupts. A direct one needs an address to be sent to. -/
def State.ccc (s : State) (direct : Bool) (f : State → State) : State :=
  if s.mgt.live && (!direct || s.gb .mgt F.MGT_STATUS_DA_VALID) then f s else s

def execEnec (direct : Bool) (events : BitVec 8) (s : State) : Host.Outcome State Fault Refusal :=
  .next (s.ccc direct fun s => if bit events.toNat 0 then s.p .mgt F.MGT_STATUS_IBI_EN 1 else s)

def execDisec (direct : Bool) (events : BitVec 8) (s : State) : Host.Outcome State Fault Refusal :=
  .next (s.ccc direct fun s => if bit events.toNat 0 then s.p .mgt F.MGT_STATUS_IBI_EN 0 else s)

def State.setDa (s : State) (valid : Bool) (a : Nat) : State :=
  (s.p .mgt F.MGT_STATUS_DA a).pb .mgt F.MGT_STATUS_DA_VALID valid

def execRstdaa (s : State) : Host.Outcome State Fault Refusal :=
  .next (s.ccc false fun s => s.setDa false 0)

/-- The 48-bit provisional ID. -/
def State.pid (s : State) : Nat := Config.mipiId % 2 ^ 15 * 2 ^ 33 + 2 ^ 32 + s.part.serial % 2 ^ 32

/-- ENTDAA: a target without an address sends its identity and takes the address it is given. -/
def execEntdaa (address : BitVec 7) (s : State) : Host.Outcome State Fault Refusal :=
  .next (s.ccc false fun s =>
    if s.gb .mgt F.MGT_STATUS_DA_VALID then s
    else (s.emit (.i3c (beBytes 6 s.pid ++ [0x06, Config.mctpDcr]))).setDa true address.toNat)

def execSetdasa (address : BitVec 7) (s : State) : Host.Outcome State Fault Refusal :=
  .next (s.ccc false fun s => if s.gb .mgt F.MGT_STATUS_DA_VALID then s else s.setDa true address.toNat)

def execSetnewda (address : BitVec 7) (s : State) : Host.Outcome State Fault Refusal :=
  .next (s.ccc true fun s => s.setDa true address.toNat)

/-- A length that SETMWL or SETMRL may set: up to 261 bytes, and not zero, for which R407 states no effect (R15, R407). -/
def lengthOk (len : BitVec 16) : Bool := decide (0 < len.toNat) && decide (len.toNat ≤ 261)

/-- SETMWL and SETMRL: another length is not taken (R407, log entry 33, PRESUMED). -/
def execSetmwl (len : BitVec 16) (s : State) : Host.Outcome State Fault Refusal :=
  .next (s.ccc false fun s => if lengthOk len then { s with mgt := { s.mgt with mwl := len.toNat } } else s)

def execSetmrl (len : BitVec 16) (ibiLen : BitVec 8) (s : State) : Host.Outcome State Fault Refusal :=
  .next (s.ccc false fun s =>
    if lengthOk len then { s with mgt := { s.mgt with mrl := len.toNat, ibiLen := ibiLen.toNat } } else s)

/-- A direct read: the bytes the target returns. -/
def State.i3cRead (s : State) (bytes : List Byte) : State := s.ccc true fun s => s.emit (.i3c bytes)

def execGetmwl (s : State) : Host.Outcome State Fault Refusal := .next (s.i3cRead (beBytes 2 s.mgt.mwl))
def execGetmrl (s : State) : Host.Outcome State Fault Refusal :=
  .next (s.i3cRead (beBytes 2 s.mgt.mrl ++ leBytes 1 s.mgt.ibiLen))
def execGetpid (s : State) : Host.Outcome State Fault Refusal := .next (s.i3cRead (beBytes 6 s.pid))
def execGetbcr (s : State) : Host.Outcome State Fault Refusal := .next (s.i3cRead [0x06])
def execGetdcr (s : State) : Host.Outcome State Fault Refusal := .next (s.i3cRead [Config.mctpDcr])

/-- n bytes that the spec leaves open (log entry 1, DESIGN CHOICE). -/
def State.freeBytes (s : State) (n : Nat) : List Byte := leBytes n (Config.free s.fresh % 2 ^ (8 * n))

/-- GETSTATUS: the status word is a free value; the spec gives its content nowhere. -/
def execGetstatus (s : State) : Host.Outcome State Fault Refusal :=
  .next (s.ccc true fun s => (s.emit (.i3c (s.freeBytes 2))).draw)

def execRstact (action : BitVec 8) (s : State) : Host.Outcome State Fault Refusal :=
  .next (s.ccc false fun s => { s with mgt := { s.mgt with rstact := action.toNat } })

/-! ### MCTP (R408) -/

/-- A message reaches the endpoint: over I3C under its dynamic address, over PCIe from READY while the host port has a link.
It counts in MGT_RX_MSGS. -/
def State.mctpIn (s : State) (pcie : Bool) : Bool :=
  if pcie then s.gb .mgt F.MGT_STATUS_VDM_UP && s.hostUp else s.mgt.live && s.gb .mgt F.MGT_STATUS_DA_VALID

def State.mctp (s : State) (pcie : Bool) (f : State → State) : State :=
  if s.mctpIn pcie then f (s.inc .mgt F.MGT_RX_MSGS_COUNT 1) else s

/-- A response: message type, command, then completion code and data. Instance numbers and tags echo the request and are left
out. -/
def State.control (s : State) (pcie : Bool) (cmd : Byte) (bytes : List Byte) : State := s.emit (.mctp pcie (0x00 :: cmd :: bytes))

def eidFld (pcie : Bool) : Fld := if pcie then F.MGT_EID_EID_PCIE else F.MGT_EID_EID_I3C

/-- SET_ENDPOINT_ID: operations 0 (set) and 1 (force) take an EID; the others have no use on an endpoint of this kind. -/
def execSetEndpointId (pcie : Bool) (op : BitVec 2) (eid : BitVec 8) (s : State) : Host.Outcome State Fault Refusal :=
  .next (s.mctp pcie fun s =>
    if op.toNat < 2 && eid ≠ 0x00 && eid ≠ 0xFF then
      (s.p .mgt (eidFld pcie) eid.toNat).control pcie 0x01 [0x00, 0x00, eid, 0x00]
    else s.control pcie 0x01 [0x02])

def execGetEndpointId (pcie : Bool) (s : State) : Host.Outcome State Fault Refusal :=
  .next (s.mctp pcie fun s => s.control pcie 0x02 ([0x00] ++ leBytes 1 (s.g .mgt (eidFld pcie)) ++ [0x00, 0x00]))

/-- GET_MCTP_VERSION_SUPPORT: one version entry, whose number the spec does not give. -/
def execGetMctpVersionSupport (pcie : Bool) (msgType : BitVec 8) (s : State) : Host.Outcome State Fault Refusal :=
  .next (s.mctp pcie fun s =>
    if [0xFF, 0x00, 0x01, 0x05, 0x7E].contains msgType.toNat then
      (s.control pcie 0x04 ([0x00, 0x01] ++ s.freeBytes 4)).draw
    else s.control pcie 0x04 [0x80])

def execGetMessageTypeSupport (pcie : Bool) (s : State) : Host.Outcome State Fault Refusal :=
  .next (s.mctp pcie fun s => s.control pcie 0x05 [0x00, 0x03, 0x01, 0x05, 0x7E])

def execGetVendorDefinedMessageSupport (pcie : Bool) (selector : BitVec 8) (s : State) : Host.Outcome State Fault Refusal :=
  .next (s.mctp pcie fun s =>
    if selector = 0 then
      (s.control pcie 0x06 ([0x00, 0xFF, 0x00] ++ beBytes 2 Config.vendorId ++ s.freeBytes 2)).draw
    else s.control pcie 0x06 [0x02])

/-! ### PLDM base (R409) -/

def State.pldm (s : State) (pcie : Bool) (type cmd : Byte) (bytes : List Byte) : State :=
  s.emit (.mctp pcie (0x01 :: type :: cmd :: bytes))

def execGetTid (pcie : Bool) (s : State) : Host.Outcome State Fault Refusal :=
  .next (s.mctp pcie fun s => s.pldm pcie 0 0x02 ([0x00] ++ leBytes 1 s.mgt.tid))

def execSetTid (pcie : Bool) (tid : BitVec 8) (s : State) : Host.Outcome State Fault Refusal :=
  .next (s.mctp pcie fun s =>
    if tid = 0x00 || tid = 0xFF then s.pldm pcie 0 0x01 [0x02]
    else { s with mgt := { s.mgt with tid := tid.toNat } }.pldm pcie 0 0x01 [0x00])

/-- GET_PLDM_VERSION: one part that holds the version and its checksum, which the spec does not give. -/
def execGetPldmVersion (pcie : Bool) (type : BitVec 8) (s : State) : Host.Outcome State Fault Refusal :=
  .next (s.mctp pcie fun s =>
    if type = 0 || type = 2 then (s.pldm pcie 0 0x03 ([0x00] ++ leBytes 4 0 ++ [0x05] ++ s.freeBytes 8)).draw
    else s.pldm pcie 0 0x03 [0x83])

def execGetPldmTypes (pcie : Bool) (s : State) : Host.Outcome State Fault Refusal :=
  .next (s.mctp pcie fun s => s.pldm pcie 0 0x04 ([0x00] ++ leBytes 8 0x05))

/-- Bit n for each supported command n of a type. -/
def pldmCommands (type : Nat) : List Nat :=
  if type = 0 then [0x01, 0x02, 0x03, 0x04, 0x05]
  else [0x04, 0x0B, 0x0C, 0x0D, 0x11, 0x21, 0x31, 0x32, 0x50, 0x51]

def execGetPldmCommands (pcie : Bool) (type : BitVec 8) (s : State) : Host.Outcome State Fault Refusal :=
  .next (s.mctp pcie fun s =>
    if type = 0 || type = 2 then
      s.pldm pcie 0 0x05 ([0x00] ++ leBytes 32 ((pldmCommands type.toNat).foldl (fun x n => x + 2 ^ n) 0))
    else s.pldm pcie 0 0x05 [0x83])

/-! ### PLDM for monitoring and control (R409 to R411) -/

/-- One terminus locator, 21 sensors, one effecter. -/
def pdrCount : Nat := 23

def execGetPdrRepositoryInfo (pcie : Bool) (s : State) : Host.Outcome State Fault Refusal :=
  .next (s.mctp pcie fun s =>
    let sizes := (List.range pdrCount).map fun i => (Config.pdr (i + 1)).length
    let total := sizes.foldl (· + ·) 0
    let most := sizes.foldl max 0
    (s.pldm pcie 2 0x50 ([0x00, 0x00] ++ s.freeBytes 26 ++ leBytes 4 pdrCount ++ leBytes 4 total ++ leBytes 4 most
      ++ [0x00])).draw)

/-- GET_PDR: handle 0 names the first record; `offset` goes on within a record. -/
def execGetPdr (pcie : Bool) (handle offset : BitVec 32) (count : BitVec 16) (s : State) :
    Host.Outcome State Fault Refusal :=
  .next (s.mctp pcie fun s =>
    let h := if handle = 0 then 1 else handle.toNat
    let rec_ := Config.pdr h
    let o := offset.toNat
    if h > pdrCount then s.pldm pcie 2 0x51 [0x82]
    else if o > rec_.length then s.pldm pcie 2 0x51 [0x80]
    else
      let part := (rec_.drop o).take count.toNat
      let last := o + part.length == rec_.length
      let flag := if last then (if o = 0 then 0x05 else 0x04) else (if o = 0 then 0x00 else 0x01)
      s.pldm pcie 2 0x51 ([0x00] ++ leBytes 4 (if h = pdrCount then 0 else h + 1)
        ++ leBytes 4 (if last then 0 else o + part.length) ++ leBytes 1 flag ++ leBytes 2 part.length ++ part))

/-- Does a sensor read as unavailable until READY? -/
def lateSensor (n : Nat) : Bool := (decide (3 ≤ n) && decide (n ≤ 15)) || (decide (19 ≤ n) && decide (n ≤ 21))

/-- GET_SENSOR_READING. Readings 1 to 15 take two bytes, 20 and 21 four; the threshold states are free values. -/
def execGetSensorReading (pcie : Bool) (sensor : BitVec 16) (_rearm : Bool) (s : State) :
    Host.Outcome State Fault Refusal :=
  .next (s.mctp pcie fun s =>
    let n := sensor.toNat
    let size := if n ≥ 20 then 4 else 2
    if n = 0 || n > 21 || (decide (16 ≤ n) && decide (n ≤ 19)) then s.pldm pcie 2 0x11 [0x80]
    else
      let code : Byte := if size = 4 then 0x04 else 0x02
      if lateSensor n && !s.ready then (s.pldm pcie 2 0x11 ([0x00, code, 0x02] ++ s.freeBytes (4 + size))).draw
      else (s.pldm pcie 2 0x11 ([0x00, code, 0x00] ++ s.freeBytes 4 ++ leBytes size (s.reading n))).draw)

/-- GET_STATE_SENSOR_READINGS: one group of four bytes for each sensor of a composite. The event state is free. -/
def execGetStateSensorReadings (pcie : Bool) (sensor : BitVec 16) (s : State) : Host.Outcome State Fault Refusal :=
  .next (s.mctp pcie fun s =>
    let n := sensor.toNat
    if n < 16 || n > 19 then s.pldm pcie 2 0x21 [0x80]
    else
      let keys := if n = 19 then (List.range 7).map (64 + ·) else [n]
      let one (i : Nat) : List Byte :=
        if lateSensor n && !s.ready then [0x02] ++ leBytes 3 (Config.free (s.fresh + i) % 2 ^ 24)
        else [0x00] ++ leBytes 1 (s.reading (keys.getD i 0)) ++ leBytes 2 (Config.free (s.fresh + i) % 2 ^ 16)
      let groups := (List.range keys.length).flatMap one
      { s.pldm pcie 2 0x21 ([0x00] ++ leBytes 1 keys.length ++ groups) with fresh := s.fresh + keys.length })

/-- GET_NUMERIC_EFFECTER_VALUE: the management cap in force and the one still to take effect (R355). -/
def execGetNumericEffecterValue (pcie : Bool) (effecter : BitVec 16) (s : State) : Host.Outcome State Fault Refusal :=
  .next (s.mctp pcie fun s =>
    if effecter ≠ 1 then s.pldm pcie 2 0x32 [0x80]
    else
      let now := s.g .pwr F.PWR_CAP_MGT_CAP
      s.pldm pcie 2 0x32 ([0x00, 0x02, if s.pwr.capMgt.isSome then 0x00 else 0x01]
        ++ leBytes 2 (s.pwr.capMgt.getD now) ++ leBytes 2 now))

/-- SET_NUMERIC_EFFECTER_VALUE (R355, R410). -/
def execSetNumericEffecterValue (pcie : Bool) (effecter : BitVec 16) (value : BitVec 16) (s : State) :
    Host.Outcome State Fault Refusal :=
  .next (s.mctp pcie fun s =>
    if effecter ≠ 1 then s.pldm pcie 2 0x31 [0x80]
    else if value.toNat < 600 || value.toNat > 3400 then s.pldm pcie 2 0x31 [0x02]
    else
      let s := { s with pwr := { s.pwr with capMgt := some value.toNat } }
      (s.inc .mgt F.MGT_CAP_SETS_COUNT 1).pldm pcie 2 0x31 [0x00])

/-- SET_EVENT_RECEIVER: events are delivered only by polling, so only polling and none can be chosen (R409). -/
def execSetEventReceiver (pcie : Bool) (enable : BitVec 8) (eid : BitVec 8) (s : State) :
    Host.Outcome State Fault Refusal :=
  .next (s.mctp pcie fun s =>
    if enable = 0 || enable = 2 then
      { s with mgt := { s.mgt with evtEnable := enable.toNat, evtEid := eid.toNat } }.pldm pcie 2 0x04 [0x00]
    else s.pldm pcie 2 0x04 [0x81])

def execEventMessageSupported (pcie : Bool) (s : State) : Host.Outcome State Fault Refusal :=
  .next (s.mctp pcie fun s => s.pldm pcie 2 0x0C ([0x00] ++ leBytes 1 s.mgt.evtEnable ++ [0x05, 0x01, 0x00]))

/-- EVENT_MESSAGE_BUFFER_SIZE: the device's own size is a free value. -/
def execEventMessageBufferSize (pcie : Bool) (size : BitVec 16) (s : State) : Host.Outcome State Fault Refusal :=
  .next (s.mctp pcie fun s =>
    ({ s with mgt := { s.mgt with evtBuffer := size.toNat } }.pldm pcie 2 0x0D ([0x00] ++ s.freeBytes 2)).draw)

/-- The data of a sensor event: a state with the one before it, or a numeric reading. -/
def SensorEvent.bytes (e : SensorEvent) : List Byte :=
  if e.isState then leBytes 2 e.sensor ++ [0x01] ++ leBytes 1 e.offset ++ leBytes 1 e.value ++ leBytes 1 e.previous
  else leBytes 2 e.sensor ++ [0x02, 0x00, 0x00, 0x02] ++ leBytes 2 e.value

/-- Take the oldest event out of the queue; ALERT# is released when it is empty (R411). -/
def State.evtPop (s : State) : State :=
  let q := s.sensorQ.drop 1
  let s := { s with sensorQ := q, mgt := { s.mgt with evtId := s.mgt.evtId % 0xFFFE + 1 } }
  (s.p .mgt F.MGT_STATUS_EVT_QUEUED q.length).pb .mgt F.MGT_STATUS_ALERT (!q.isEmpty)

/-- POLL_FOR_PLATFORM_EVENT_MESSAGE: the identity of the oldest event acknowledges it; the answer holds the event that is then
the oldest (R411). -/
def execPollForPlatformEventMessage (pcie : Bool) (ack : BitVec 16) (s : State) : Host.Outcome State Fault Refusal :=
  .next (s.mctp pcie fun s =>
    let s := if !s.sensorQ.isEmpty && ack.toNat == s.mgt.evtId then s.evtPop else s
    match s.sensorQ with
    | [] => s.pldm pcie 2 0x0B ([0x00] ++ leBytes 1 s.mgt.tid ++ leBytes 2 0)
    | e :: _ => s.pldm pcie 2 0x0B ([0x00] ++ leBytes 1 s.mgt.tid ++ leBytes 2 s.mgt.evtId ++ leBytes 4 0 ++ [0x05, 0x00]
        ++ leBytes 4 e.bytes.length ++ e.bytes))

end Sys2Proof.Machine
end

