-- ==== Sys2Proof/Machine/Boot.lean ====
section
/-! DEFINITION. Supply, PERST#, start-up, the choice of a firmware extension, and the function-level reset (R76, R233, R243,
R345, R349 to R352, R378, R381, R382, R392 to R403, R407, R412 to R414, R421, R423, R433). -/

namespace Sys2Proof.Machine

/-! ### The supply and PERST# (R349, R351, R378, R423) -/

/-- What outlasts the loss of every register and memory: the part itself, the pins the board drives, and what has left the
device. -/
def State.blank (s : State) (supplied : Bool) : State :=
  { part := s.part, brakePin := s.brakePin, fresh := s.fresh, out := s.out, pending := s.pending, supplied := supplied
    perst := true }

/-- Every domain but the arrays' is on (R351, R352). -/
def State.domainsUp (s : State) : State :=
  ((List.range 36).filter fun n => !(decide (n < 28) && decide (n % 7 < 2))).foldl (fun s n => s.domainSet n true) s

/-- INPUT_POWER_UP: the regulators bring the domains up; PERST# is held by the board until its release (R351, R378). -/
def execInputPowerUp (s : State) : Host.Outcome State Fault Refusal :=
  .next (if s.supplied then s else (s.blank true).domainsUp)

/-- INPUT_LOSS: below 34 V module state is lost (R349, R412, R421). -/
def execInputLoss (s : State) : Host.Outcome State Fault Refusal :=
  .next (if s.supplied then s.blank false else s)

/-- PERST_ASSERT: every unit stops, the transmitters fall idle, the host port drops its link, the target loses its dynamic
address, the identity key is erased and the port locks again; registers stay until the release (R76, R378, R402, R407,
R412). No memory is kept. -/
def execPerstAssert (s : State) : Host.Outcome State Fault Refusal :=
  if !s.supplied || s.perst then .next s
  else
    let s := ((s.p .hst F.HST_STATUS_GEN 0).p .hst F.HST_STATUS_WIDTH 0).p .hst F.HST_STATUS_FLIT 0
    let s := s.stopUnits
    let s := { s with
      perst := true, units := [], mem := [], badPairs := [], ueHits := [], arms := [], links := [], ports := [], rings := [], cmds := [], queue := [], run := none
      save := none, admitting := none, snaps := [], hostGo := [], kickRun := false, scaleJob := none
      test := { s.test with
        token := false, nonce := leBytes 32 (Config.free s.fresh % 2 ^ 256)
        driven := s.test.ir == JtagIr.extest || s.test.ir == JtagIr.clamp, floating := s.test.ir == JtagIr.highz } }.draw
    let s := s.dropAdmission.clearEmpty.gridFree
    let s := { s with grid := { s.grid with leaving := false } }
    let s := s.forN 18 fun p s => s.p (.nir p) F.NIR_STATUS_STATE 1
    let s := (s.p .mgt F.MGT_STATUS_DA 0).p .mgt F.MGT_STATUS_DA_VALID 0
    .next { s with mgt := { s.mgt with live := false, spdm := [], ext := none }, idKey := none }

/-! ### The failure of a stage (R394) -/

def State.bootFail (s : State) (err detail : Nat) : State :=
  ((s.p .sec F.SEC_BOOT_STATUS_ERR err).p .sec F.SEC_BOOT_STATUS_ERR_DETAIL detail).fatal 4 2 (err + detail * 256)

def State.stage_ (s : State) : Nat := s.g .sec F.SEC_BOOT_STATUS_STAGE
def State.setStage (s : State) (n : Nat) : State := s.p .sec F.SEC_BOOT_STATUS_STAGE n

/-! ### Extensions (R395 to R398) -/

/-- n bytes of a flash slot from an offset; what is not programmed reads 0xFF (R395). -/
def flashRead (slot : List Byte) (off n : Nat) : List Byte :=
  let l := (slot.drop off).take n
  l ++ List.replicate (n - l.length) 0xFF

def extBodySize (h : List Byte) : Nat := leAt h 8 4
def extSvn (h : List Byte) : Nat := leAt h 0x10 4

/-- Bytes of the header that R396 lists no field for. -/
def extReserved (h : List Byte) : Bool :=
  let zero (a b : Nat) : Bool := ((h.drop a).take (b - a)).all (· == 0)
  zero 0x2B 0x30 && zero 0x34 0x40 && zero 0x60 0x100 && zero 0x158D 0x1590 && zero 0x227D 0x2400
    && leAt h 0x14 4 / 2 == 0 && decide (leAt h 0x2A 1 < 2)

def extOps (h : List Byte) : Bool :=
  let a := leAt h 0x28 1
  let b := leAt h 0x29 1
  (a == 0 && b == 0) || (decide (0x80 ≤ a) && decide (a ≤ b))

/-- Checks 1 to 8 of R397 on a slot: the reject code, 0 when it passes them.
Readings: log entry 13, DEDUCED. -/
def Part.extReject (p : Part) (slot : List Byte) : Nat :=
  let h := flashRead slot 0 9216
  if slot.all (· == 0xFF) then 1
  else if leAt h 0 4 ≠ 0x54584556 || leAt h 4 2 ≠ 1 || leAt h 6 2 ≠ 0x2400 || extBodySize h < 4096 || extBodySize h > 1048576
    || extBodySize h % 4096 ≠ 0 then 2
  else if leAt h 0xC 2 ≠ 0x4824 || leAt h 0xE 1 ≠ 0x41 || leAt h 0xF 1 ≠ 3 then 3
  else if !extReserved h || !extOps h || leAt h 0x30 4 % 16 ≠ 0 || leAt h 0x30 4 ≥ extBodySize h then 4
  else if bit p.rootRevoke (leAt h 0x2A 1) then 5
  else if !Config.mldsaVerify (Config.rootKey (leAt h 0x2A 1)) ((h.drop 0x20).take 16 ++ (h.drop 0x100).take 1952)
    (ascii "VRM-SIGNER") ((h.drop 0x8A0).take 3309) then 6
  else if extSvn h < 1 || extSvn h > 63 || extSvn h < leAt h 0x24 2 || extSvn h > leAt h 0x26 2 || extSvn h < p.minSvn then 7
  else if !Config.mldsaVerify ((h.drop 0x100).take 1952) (h.take 256) (ascii "VRM-EXT") ((h.drop 0x1590).take 3309) then 8
  else 0

/-- Check 9 (R397). -/
def extBodyOk (slot : List Byte) : Bool :=
  let h := flashRead slot 0 9216
  shake256 (flashRead slot 9216 (extBodySize h)) == (h.drop 0x40).take 32

/-- The reject codes of both slots and the slot chosen: the higher SVN first, A at a tie, the other when its body fails
(R397). -/
def Part.extChoose (p : Part) : Nat × Nat × Option Bool :=
  let a := p.extReject p.slotA
  let b := p.extReject p.slotB
  let svn (l : List Byte) : Nat := extSvn (flashRead l 0 9216)
  let bFirst := b == 0 && (a != 0 || decide (svn p.slotA < svn p.slotB))
  if bFirst then
    if extBodyOk p.slotB then (a, b, some true)
    else if a = 0 then (if extBodyOk p.slotA then (a, 9, some false) else (9, 9, none)) else (a, 9, none)
  else if a = 0 then
    if extBodyOk p.slotA then (a, b, some false)
    else if b = 0 then (if extBodyOk p.slotB then (9, b, some true) else (9, 9, none)) else (9, b, none)
  else (a, b, none)

/-- The chosen extension's registers, and MIN_SVN raised where COMMIT_SVN asks for it; the OTP's check digest goes with it
(R398, R401, R413; log entry 30, DESIGN CHOICE). -/
def State.extRun (s : State) (slotB : Bool) : State :=
  let h := flashRead (if slotB then s.part.slotB else s.part.slotA) 0 9216
  let svn := extSvn h
  let s := if bit (leAt h 0x14 4) 0 && svn > s.part.minSvn then
    let p := { s.part with minSvn := svn }
    { s.p .sec F.SEC_EXT_SVN_MIN_SVN svn with part := { p with otpDigest := Config.otpCheck p.otpValues } } else s
  let s := ((s.p .sec F.SEC_BOOT_STATUS_EXT_STATE 1).pb .sec F.SEC_BOOT_STATUS_EXT_SLOT slotB).p .sec F.SEC_EXT_SVN_SVN svn
  let s := (s.p .sec F.SEC_EXT_OPS_OP_FIRST (leAt h 0x28 1)).p .sec F.SEC_EXT_OPS_OP_LAST (leAt h 0x29 1)
  let s := s.p2 .sec F.SEC_EXT_VERSION_LO_VERSION_LO F.SEC_EXT_VERSION_HI_VERSION_HI (leAt h 0x18 8)
  s.forN 8 fun i s => s.p .sec (F.SEC_EXT_DIGEST_DIGEST i) (leAt h (0x40 + 4 * i) 4)

/-! ### Start-up (R392) -/

/-- The ROM firmware sets ENABLE, TARGET and the masks of the interrupt controllers; which, the spec leaves to the ROM, and
the event brings them (R392, R433, log entry 31, DESIGN CHOICE). -/
def State.romIrq (s : State) (rom : List (Die × BitVec 16 × Word)) : State :=
  rom.foldl (fun s x =>
    let o := x.2.1.toNat
    let a := (Blk.irq x.1.val).base + o
    if o % 4 ≠ 0 then s
    else if 0x100 ≤ o && o < 0x180 then s.wr a x.2.2
    else if 0x400 ≤ o && o < 0x800 then
      let w := (s.rd a &&& ~~~(0xF1 : Word)) ||| (x.2.2 &&& 0xF1)
      { s.wr a w with shadows := tput (regReset a) s.shadows a w }
    else s) s

/-- DIES: agents, PLLs, voltages and SRAM; HBM training begins once the stage has ended. -/
def State.bootDies (s : State) (diesReady : Bool) (rom : List (Die × BitVec 16 × Word)) : State :=
  let s := (s.setStage 4).romIrq rom
  if diesReady then s.setStage 5 else s

/-- EXTENSION (R396 to R398). -/
def State.bootExt (s : State) (diesReady : Bool) (rom : List (Die × BitVec 16 × Word)) : State :=
  let (a, b, chosen) := s.part.extChoose
  let s := ((s.setStage 3).p .sec F.SEC_BOOT_STATUS_REJ_A a).p .sec F.SEC_BOOT_STATUS_REJ_B b
  match chosen with
  | some x => (s.extRun x).bootDies diesReady rom
  | none =>
    let s := s.p .sec F.SEC_BOOT_STATUS_EXT_STATE (if a = 1 && b = 1 then 0 else 2)
    if s.part.extRequired then s.bootFail 4 (a + b * 16) else s.bootDies diesReady rom

/-- IDENTITY: OTP, identity key, certificate, test-port unlock; the management endpoint answers from its end (R401 to R403,
R407, R412). -/
def State.bootIdentity (s : State) (token diesReady : Bool) (rom : List (Die × BitVec 16 × Word)) : State :=
  let p := s.part
  let s := s.setStage 2
  if !p.otpGood then s.bootFail 2 0
  else
    let unlock := token && !p.debugDisable
    let s := ((s.pb .sec F.SEC_OTP_POLICY_EXT_REQUIRED p.extRequired).pb .sec F.SEC_OTP_POLICY_DEBUG_DISABLE p.debugDisable).p
      .sec F.SEC_OTP_POLICY_ROOT_REVOKE p.rootRevoke
    let s := (s.p .sec F.SEC_EXT_SVN_MIN_SVN p.minSvn).p .sec F.SEC_DEBUG_STATE
      (if p.debugDisable then 2 else if unlock then 1 else 0)
    if !unlock && !p.keyGood then s.bootFail 3 0
    else
      let s := ((s.pb .sec F.SEC_ID_KEY_OK (!unlock)).pb .sec F.SEC_ID_SIGN_EN (!unlock)).pb .sec F.SEC_ID_CERT_OK
        (!unlock && p.certGood)
      { s with mgt := { s.mgt with live := true }, idKey := if unlock then none else some p.seed }.refreshSensors.bootExt diesReady rom

/-- PERST_RELEASE: registers at their reset values, and the stages up to DIES, which `diesReady` says is done; HBM training
has then begun (R76, R378, R392). -/
def execPerstRelease (diesReady : Bool) (rom : List (Die × BitVec 16 × Word)) (s : State) :
    Host.Outcome State Fault Refusal :=
  if !s.supplied || !s.perst then .next s
  else
    let token := s.test.token
    let port := { s.test with token := false, nonce := [], driven := false, floating := false }
    let s := { s.blank true with perst := false, test := port }.domainsUp
    let s := s.p2 .dev F.DEV_SERIAL_LO_SERIAL_LO F.DEV_SERIAL_HI_SERIAL_HI s.part.serial
    let s := (s.pb .pwr F.PWR_STATUS_BRAKE s.brakePin).gateArrays.refreshPower
    let s := if s.brakePin then (s.p .pwr F.PWR_THR_ACTIVE_POWER_DUTY 1).arrayRates else s
    let s := s.setStage 1
    .next (if s.part.romGood then s.bootIdentity token diesReady rom else s.bootFail 1 0)

/-- A start-up stage is at work. -/
def State.booting (s : State) (stage : Nat) : Bool := s.pwrRuns && !s.fatalSet && s.stage_ == stage

/-- HBM_TRAINING_DONE: all stacks have trained; zeroing and slow-tier training begin (R392). -/
def execHbmTrainingDone (s : State) : Host.Outcome State Fault Refusal :=
  .next (if s.booting 5 then (s.forN 24 fun m s => s.p (.hbm m) F.HBM_STATUS_TRAINED 1).setStage 6 else s)

/-- HBM_ZERO_DONE: every pair of the stack is zero with valid check symbols (R233). -/
def execHbmZeroDone (stack : Stack) (s : State) : Host.Outcome State Fault Refusal :=
  let m := stack.val
  let mine (a : Nat) : Bool := decide (a < 4 * hoopHbm) && hbmStack a == m
  .next (if (s.booting 6 || s.booting 7) && !s.gb (.hbm m) F.HBM_STATUS_INIT_DONE then
    { s with mem := s.mem.filter (fun c => !mine c.1), badPairs := s.badPairs.filter fun a => !mine a }.p (.hbm m)
      F.HBM_STATUS_INIT_DONE 1
    else s)

/-- SLOW_TIER_TRAINED (R392). -/
def execSlowTierTrained (s : State) : Host.Outcome State Fault Refusal :=
  .next (if s.booting 6 then ((s.p (.str 0) F.STR_STATUS_TRAINED 1).p (.str 1) F.STR_STATUS_TRAINED 1).setStage 7 else s)

/-- CALIBRATION_DONE: READY, or ERR 8 (R392, R394, R408, R411). The zeroing of every stack has ended by then. -/
def execCalibrationDone (fixedW : BitVec 12) (s : State) : Host.Outcome State Fault Refusal :=
  let w := fixedW.toNat
  if !s.booting 7 || !(List.range 24).all (fun m => s.gb (.hbm m) F.HBM_STATUS_INIT_DONE) then .next s
  else if w < 250 || w > 700 then .next (s.bootFail 8 0)
  else
    let s := ((s.p .pwr F.PWR_FIXED_W_FIXED w).setStage 8).p .dev F.DEV_STATUS_READY 1
    .next ((s.p .mgt F.MGT_STATUS_VDM_UP 1).sensorState 17 0 1 2)

/-- START_UP_BOUND_EXPIRY: the stage that runs has reached its bound; `detail` names the die, the stack or the channel, and
`hbm` a stack not zeroed while the slow tier trains (R394). -/
def execStartUpBoundExpiry (hbm : Bool) (detail : BitVec 8) (s : State) : Host.Outcome State Fault Refusal :=
  let d := detail.toNat
  let zeroing := hbm && decide (d < 24) && !s.gb (.hbm d) F.HBM_STATUS_INIT_DONE
  .next (
    if s.booting 4 then (if d < 6 then s.bootFail 5 d else s)
    else if s.booting 5 then (if d < 24 then s.bootFail 6 d else s)
    else if (s.booting 6 || s.booting 7) && zeroing then s.bootFail 6 d
    else if s.booting 6 && !hbm && d < 64 then s.bootFail 7 d
    else s)

/-! ### The function-level reset (R345) -/

/-- Bits that a function-level reset keeps: those that R345 lists, which are identity, DEV_STATUS.FATAL, the fatal record,
HBM_UE_, STR_UE_ and PWR_ERR; and the status of what the reset leaves as it is: the trained memories, the regulators' domains
and the calibration, the host link, the fatal line, the security block, and the I3C binding (log entry 32, DEDUCED). -/
def flrMask (a : Nat) : Word :=
  let o := a % 0x10000
  let all (c : Bool) : Word := if c then 0xFFFFFFFF else 0
  match blkAt a with
  | some .dev => if o = F.DEV_STATUS_FATAL.off then 2 else all (decide (o < 0x20))
  | some .hst => if o = F.HST_STATUS_GEN.off then 0x3F7 else 0
  | some .pwr => all ([0x28, 0x2C, 0x30, 0x40].contains o)
  | some .sec => all (decide (o < 0xFF00))
  | some .mgt => if o = F.MGT_STATUS_DA.off then ~~~(0x400 : Word) else if o = F.MGT_EID_EID_I3C.off then 0xFF else all (o == 8)
  | some (.hbm _) => if o = 0 then 3 else all (decide (0x14 ≤ o) && decide (o ≤ 0x28))
  | some (.str _) => if o = 0 then 1 else all (decide (0x08 ≤ o) && decide (o ≤ 0x1C))
  | some (.irq _) => if o = 0 then 0x10 else all (decide (0x04 ≤ o) && decide (o ≤ 0x10))
  | _ => 0

/-- The register file after a function-level reset. -/
def flrRegs (t : Table Word) : Table Word :=
  (t.map fun p => (p.1, (p.2 &&& flrMask p.1) ||| (regReset p.1 &&& ~~~flrMask p.1))).filter fun p => p.2 != regReset p.1

/-- A function-level reset ends every command, step and transfer, and drops every port (R345). -/
def State.flrStop (s : State) : State :=
  let s := { s with cmds := [], queue := [], admitting := none, save := none }
  let s := { s.stopUnits with units := [], run := none, lastRun := none, arms := [], links := [], hostGo := [] }
  (s.dropAdmission.clearEmpty.forN 18 fun p s => s.trainStop p).gridFree

/-- It resets the registers that R345 does not keep, with all that stands behind them. -/
def State.flrClear (s : State) : State :=
  { s with
    regs := flrRegs s.regs, readyDue := s.ready || s.readyDue
    shadows := [], snaps := [], latch := [], msix := [], msixLast := [], msixHeld := [], rings := [], kickRun := false
    grid := { s.grid with leaving := false }
    samplers := [], irqHeld := [], winEnd := [], edges := [], modeReq := none, modeRevert := none, suspOwner := none
    suspendNext := false, evtPhase := true, evtOwed := false
    pwr := {} }

/-- Counter sets count from 0 again, and what follows from the pins and the domains is brought in line. -/
def State.flrSettle (s : State) : State :=
  let sets := (List.range 6).flatMap fun d => (List.range (setsOf d)).map fun k => (d, k)
  let s := ((sets.foldl (fun s x => s.cycSet x.1 x.2 0) s).pb .pwr F.PWR_STATUS_BRAKE s.brakePin).gateArrays.refreshPower
  if s.brakePin then (s.p .pwr F.PWR_THR_ACTIVE_POWER_DUTY 1).arrayRates else s

/-- FUNCTION_LEVEL_RESET. READY clears and is owed: the stacks stay trained. -/
def execFunctionLevelReset (s : State) : Host.Outcome State Fault Refusal :=
  .next (if s.hostUp then s.flrStop.flrClear.flrSettle else s)

end Sys2Proof.Machine
end

