-- ==== Sys2Proof/Machine/Attest.lean ====
section
/-! DEFINITION. Attestation over SPDM, the writing of an extension slot, and the test port (R400, R404 to R406, R412). Codes
and layouts of messages that the spec leaves to the DMTF are its own (log entries 30, DESIGN CHOICE, and 33, PRESUMED). -/

namespace Sys2Proof.Machine

/-! ### SPDM (R404 to R406) -/

/-- The certificate chain of slot 0 as SPDM sends it: length, digest of the root certificate, certificates. -/
def Part.chain (p : Part) : List Byte :=
  let cs := certsOf 3 p.certs
  let body := cs.flatMap fun c => c
  leBytes 2 (52 + body.length) ++ [0x00, 0x00] ++ shake384 (cs.headD []) ++ body

def spdmBusy : Nat := 3
def spdmUnexpected : Nat := 4
def spdmUnspecified : Nat := 5
def spdmInvalid : Nat := 1

/-- An SPDM response leaves behind its message type. -/
def State.spdmSend (s : State) (pcie : Bool) (bytes : List Byte) : State := s.emit (.mctp pcie (0x05 :: bytes))
def State.spdmError (s : State) (pcie : Bool) (code : Nat) : State := s.spdmSend pcie [0x12, 0x7F, BitVec.ofNat 8 code, 0x00]

def State.conn (s : State) (eid : Nat) : Option SpdmConn := s.mgt.spdm.find? fun c => c.eid == eid

/-- Keep a connection's new value; MGT_SPDM counts the connections. -/
def State.setConn (s : State) (c : SpdmConn) : State :=
  let l := if (s.conn c.eid).isSome then s.mgt.spdm.map (fun x => if x.eid == c.eid then c else x) else s.mgt.spdm ++ [c]
  { s with mgt := { s.mgt with spdm := l } }.p .mgt F.MGT_SPDM_CONN l.length

/-- A request of a requester arrives (R405, R408): one longer than 8,192 bytes is dropped, a third requester finds the device
busy, and one whose negotiation has not come to phase `need` is unexpected.
Readings: log entry 16, DEDUCED. -/
def State.spdm (s : State) (pcie : Bool) (eid : BitVec 8) (size need : Nat) (f : SpdmConn → State → State) : State :=
  if !s.mctpIn pcie then s
  else if size > 8192 then s.inc .mgt F.MGT_RX_ERR_COUNT 1
  else
    let s := s.inc .mgt F.MGT_RX_MSGS_COUNT 1
    match s.conn eid.toNat with
    | some c => if c.phase < need then s.spdmError pcie spdmUnexpected else f c s
    | none =>
      if s.mgt.spdm.length ≥ 2 then s.spdmError pcie spdmBusy
      else if need > 0 then s.spdmError pcie spdmUnexpected
      else f { eid := eid.toNat, phase := 0, nego := [] } s

/-- GET_VERSION: SPDM 1.2; the connection's transcript starts again. -/
def execGetVersion (pcie : Bool) (eid : BitVec 8) (s : State) : Host.Outcome State Fault Refusal :=
  .next (s.spdm pcie eid 4 0 fun _ s =>
    let rsp : List Byte := [0x10, 0x04, 0x00, 0x00, 0x00, 0x01, 0x00, 0x12]
    (s.setConn { eid := eid.toNat, phase := 1, nego := [0x10, 0x84, 0x00, 0x00] ++ rsp }).spdmSend pcie rsp)

/-- GET_CAPABILITIES: CERT_CAP, CHAL_CAP, MEAS_CAP = 0b10 and MEAS_FRESH_CAP; CTExponent 13. -/
def execGetCapabilities (pcie : Bool) (eid : BitVec 8) (body : List Byte) (s : State) :
    Host.Outcome State Fault Refusal :=
  .next (s.spdm pcie eid (4 + body.length) 1 fun c s =>
    let rsp := [0x12, 0x61, 0x00, 0x00, 0x00, 0x0D, 0x00, 0x00] ++ leBytes 4 0x36 ++ leBytes 4 8192 ++ leBytes 4 8192
    (s.setConn { c with phase := max c.phase 2, nego := c.nego ++ [0x12, 0xE1, 0x00, 0x00] ++ body ++ rsp }).spdmSend pcie rsp)

/-- An algorithm entry: registry PCI-SIG, Celholt's vendor ID, algorithm 0x0001 (R404). -/
def spdmAlgorithm : List Byte := [0x03, 0x00] ++ leBytes 2 Config.vendorId ++ [0x01, 0x00]

/-- NEGOTIATE_ALGORITHMS: ERROR to a requester that does not offer the algorithms of R404. -/
def execNegotiateAlgorithms (pcie : Bool) (eid : BitVec 8) (offers : Bool) (body : List Byte) (s : State) :
    Host.Outcome State Fault Refusal :=
  .next (s.spdm pcie eid (4 + body.length) 2 fun c s =>
    if !offers then s.spdmError pcie spdmInvalid
    else
      let rsp := [0x12, 0x63, 0x00, 0x00] ++ leBytes 2 48 ++ [0x01, 0x00] ++ leBytes 4 1 ++ leBytes 4 0 ++ leBytes 4 0
        ++ leBytes 12 0 ++ [0x01, 0x01, 0x00, 0x00] ++ spdmAlgorithm ++ spdmAlgorithm
      (s.setConn { c with phase := 3, nego := c.nego ++ [0x12, 0xE3, 0x00, 0x00] ++ body ++ rsp }).spdmSend pcie rsp)

def State.certOk (s : State) : Bool := s.gb .sec F.SEC_ID_CERT_OK
def State.signEn (s : State) : Bool := s.gb .sec F.SEC_ID_SIGN_EN

/-- GET_DIGESTS: without CERT_OK no slot holds a chain (R403). -/
def execGetDigests (pcie : Bool) (eid : BitVec 8) (s : State) : Host.Outcome State Fault Refusal :=
  .next (s.spdm pcie eid 4 3 fun c s =>
    let rsp := if s.certOk then [0x12, 0x01, 0x00, 0x01] ++ shake384 s.part.chain else [0x12, 0x01, 0x00, 0x00]
    (s.setConn { c with certs := c.certs ++ [0x12, 0x81, 0x00, 0x00] ++ rsp }).spdmSend pcie rsp)

/-- GET_CERTIFICATE: at most 4,096 bytes of slot 0 (R404). -/
def execGetCertificate (pcie : Bool) (eid slot : BitVec 8) (offset len : BitVec 16) (s : State) :
    Host.Outcome State Fault Refusal :=
  .next (s.spdm pcie eid 8 3 fun c s =>
    let all := s.part.chain
    if slot ≠ 0 || !s.certOk || offset.toNat ≥ all.length then s.spdmError pcie spdmInvalid
    else
      let part := (all.drop offset.toNat).take (min len.toNat 4096)
      let rsp := [0x12, 0x02, 0x00, 0x00] ++ leBytes 2 part.length ++ leBytes 2 (all.length - offset.toNat - part.length) ++ part
      let req := [0x12, 0x82, slot, 0x00] ++ leBytes 2 offset.toNat ++ leBytes 2 len.toNat
      (s.setConn { c with certs := c.certs ++ req ++ rsp }).spdmSend pcie rsp)

/-- ROM digest as 32 bytes (R413). -/
def romBytes : List Byte := (Config.romDigest ++ List.replicate 32 0).take 32

/-- The values of the six measurement blocks, each with its type, all of one instant (R406). -/
def State.measurements (s : State) : List (Nat × List Byte) :=
  let word (b : Blk) (off : Nat) : List Byte := leBytes 4 (s.rd (b.base + off)).toNat
  let runs := s.g .sec F.SEC_BOOT_STATUS_EXT_STATE == 1
  let digest := (List.range 8).flatMap fun i => leBytes 4 (s.g .sec (F.SEC_EXT_DIGEST_DIGEST i))
  let svn := if runs then s.g .sec F.SEC_EXT_SVN_SVN else 0
  let pricking := match s.img with
    | some p => (p.digest ++ List.replicate 32 0).take 32
    | none => List.replicate 32 0
  [(0x00, romBytes), (0x01, if runs then digest else List.replicate 32 0),
   (0x07, leBytes 4 svn ++ leBytes 4 (s.g .sec F.SEC_EXT_SVN_MIN_SVN)),
   (0x02, word .sec 0x14 ++ word .dev 0x04), (0x05, word .sec 0x18 ++ word .dev 0x3C), (0x03, pricking)]

/-- One measurement block: the DMTF specification, a raw bit stream. -/
def measBlock (i : Nat) (m : Nat × List Byte) : List Byte :=
  leBytes 1 i ++ [0x01] ++ leBytes 2 (3 + m.2.length) ++ leBytes 1 (m.1 + 128) ++ leBytes 2 m.2.length ++ m.2

def State.measBlocks (s : State) (op : Nat) : List (List Byte) :=
  let all := ((List.range 6).zip s.measurements).map fun p => measBlock (p.1 + 1) p.2
  if op = 0 then [] else if op = 0xFF then all else (all.drop (op - 1)).take 1

/-- A signature of the identity key over a transcript, counted in SEC_SIGN_COUNT. -/
def State.sign (s : State) (ctx : String) (transcript : List Byte) : State × List Byte :=
  ((s.inc .sec F.SEC_SIGN_COUNT_COUNT 1).draw, Config.mldsaSign (s.idKey.getD []) s.fresh (shake384 transcript) (ascii ctx))

/-- CHALLENGE: `body` is the summary type and the requester's nonce. The device's nonce is free, and so is the summary of
trusted components, whose extent the spec does not give. -/
def execChallenge (pcie : Bool) (eid slot : BitVec 8) (body : List Byte) (s : State) : Host.Outcome State Fault Refusal :=
  .next (s.spdm pcie eid (3 + body.length) 3 fun c s =>
    if !s.signEn then s.spdmError pcie spdmUnspecified
    else if slot ≠ 0 || !s.certOk then s.spdmError pcie spdmInvalid
    else
      let summary := match leAt body 0 1 with
        | 0 => []
        | 1 => leBytes 48 (Config.free (s.fresh + 1) % 2 ^ 384)
        | _ => shake384 (s.measBlocks 0xFF).flatten
      let rsp := [0x12, 0x03, 0x00, 0x01] ++ shake384 s.part.chain ++ s.freeBytes 32 ++ summary ++ [0x00, 0x00]
      let (s, sig) := s.draw.draw.sign "responder-challenge_auth signing" (c.nego ++ c.certs ++ [0x12, 0x83, slot] ++ body ++ rsp)
      (s.setConn { c with certs := [] }).spdmSend pcie (rsp ++ sig))

/-- GET_MEASUREMENTS: `op` 0 asks for the number of blocks, 0xFF for all, 1 to 6 for one; `body` is the requester's nonce and
slot where a signature is asked for (R405, R406). -/
def execGetMeasurements (pcie : Bool) (eid op : BitVec 8) (sign : Bool) (body : List Byte) (s : State) :
    Host.Outcome State Fault Refusal :=
  .next (s.spdm pcie eid (4 + body.length) 3 fun c s =>
    let n := op.toNat
    if s.stage_ ≤ 3 then s.spdmError pcie spdmBusy
    else if sign && !s.signEn then s.spdmError pcie spdmUnspecified
    else if n > 6 && n ≠ 0xFF then s.spdmError pcie spdmInvalid
    else
      let bs := s.measBlocks n
      let req := [0x12, 0xE0, if sign then 0x01 else 0x00, op] ++ body
      let rsp := [0x12, 0x60, if n = 0 then 0x06 else 0x00, 0x00] ++ leBytes 1 bs.length ++ leBytes 3 bs.flatten.length
        ++ bs.flatten ++ s.freeBytes 32 ++ [0x00, 0x00]
      let meas := c.meas ++ req ++ rsp
      if sign then
        let (s, sig) := s.draw.sign "responder-measurements signing" (c.nego ++ meas)
        (s.setConn { c with meas := [] }).spdmSend pcie (rsp ++ sig)
      else (s.draw.setConn { c with meas := meas }).spdmSend pcie rsp)

/-! ### Writing an extension slot (R400) -/

/-- A vendor-defined response: message type, vendor ID, request, then status and data. -/
def State.vendor (s : State) (pcie : Bool) (req : Byte) (bytes : List Byte) : State :=
  s.emit (.mctp pcie ([0x7E] ++ beBytes 2 Config.vendorId ++ [req] ++ bytes))

def State.extSlot (s : State) (slotB : Bool) : List Byte := if slotB then s.part.slotB else s.part.slotA

def State.setExtSlot (s : State) (slotB : Bool) (l : List Byte) : State :=
  { s with part := if slotB then { s.part with slotB := l } else { s.part with slotA := l } }

def State.setExtSeq (s : State) (e : Option ExtSeq) : State := { s with mgt := { s.mgt with ext := e } }

/-- EXT_BEGIN: refused before READY, while a sequence is open, and for the slot of the running extension. -/
def execExtBegin (pcie : Bool) (slot : BitVec 8) (s : State) : Host.Outcome State Fault Refusal :=
  .next (s.mctp pcie fun s =>
    let runs := s.g .sec F.SEC_BOOT_STATUS_EXT_STATE == 1 && s.g .sec F.SEC_BOOT_STATUS_EXT_SLOT == slot.toNat
    if !s.ready || slot.toNat > 1 || s.mgt.ext.isSome || runs then s.vendor pcie 0x01 [0x01]
    else ((s.setExtSlot (slot == 1) []).setExtSeq (some ⟨slot == 1, 0⟩)).vendor pcie 0x01 [0x00])

/-- EXT_DATA: up to 1,024 bytes that follow the ones before, within the slot's 2 MiB. -/
def execExtData (pcie : Bool) (offset : BitVec 32) (bytes : List Byte) (s : State) : Host.Outcome State Fault Refusal :=
  .next (
    if s.mctpIn pcie && bytes.length > 8192 then s.inc .mgt F.MGT_RX_ERR_COUNT 1
    else s.mctp pcie fun s =>
      match s.mgt.ext with
      | none => s.vendor pcie 0x02 [0x01]
      | some e =>
        if offset.toNat ≠ e.next || bytes.length > 1024 || e.next + bytes.length > 0x200000 then s.vendor pcie 0x02 [0x01]
        else
          let s := s.setExtSlot e.slotB (s.extSlot e.slotB ++ bytes)
          (s.setExtSeq (some { e with next := e.next + bytes.length })).vendor pcie 0x02 [0x00])

/-- EXT_END: checks 1 to 9 of R397 on the slot; the sequence is closed. -/
def execExtEnd (pcie : Bool) (s : State) : Host.Outcome State Fault Refusal :=
  .next (s.mctp pcie fun s =>
    match s.mgt.ext with
    | none => s.vendor pcie 0x03 [0x01]
    | some e =>
      let slot := s.extSlot e.slotB
      let code := s.part.extReject slot
      let code := if code = 0 && !extBodyOk slot then 9 else code
      (s.setExtSeq none).vendor pcie 0x03 ([0x00] ++ leBytes 1 code))

/-- EXT_STATUS. -/
def execExtStatus (pcie : Bool) (s : State) : Host.Outcome State Fault Refusal :=
  .next (s.mctp pcie fun s =>
    let head (l : List Byte) : List Byte := flashRead l 0x10 4 ++ flashRead l 0x18 8
    s.vendor pcie 0x04 ([0x00] ++ leBytes 1 (s.g .sec F.SEC_BOOT_STATUS_EXT_STATE) ++ leBytes 1 (s.g .sec F.SEC_BOOT_STATUS_EXT_SLOT)
      ++ head s.part.slotA ++ head s.part.slotB ++ leBytes 4 s.part.minSvn))

/-- EXT_SEQUENCE_TIMEOUT: the slot is left erased. -/
def execExtSequenceTimeout (s : State) : Host.Outcome State Fault Refusal :=
  .next (match s.mgt.ext with
    | none => s
    | some e => (s.setExtSlot e.slotB []).setExtSeq none)

/-! ### The test port (R412) -/

/-- Select an instruction. EXTEST, CLAMP and HIGHZ take effect only while PERST# is asserted; the port works while the module
is supplied. -/
def State.jtag (s : State) (ir : JtagIr) : State :=
  if !s.supplied then s
  else { s with test := { s.test with
    ir := ir, driven := s.perst && (ir == JtagIr.extest || ir == JtagIr.clamp), floating := s.perst && ir == JtagIr.highz } }

def execBypass (s : State) : Host.Outcome State Fault Refusal := .next (s.jtag JtagIr.bypass)

/-- The 32 bits of IDCODE, least significant first. -/
def idcodeBits : List Bool :=
  let v := 0x1 * 2 ^ 28 + 0x4824 * 2 ^ 12 + Config.jep106 % 2 ^ 11 * 2 + 1
  (List.range 32).map fun i => bit v i

def execIdcode (s : State) : Host.Outcome State Fault Refusal :=
  .next (if s.supplied then (s.jtag JtagIr.idcode).emit (.jtag idcodeBits) else s)

/-- SAMPLE_PRELOAD: the cells are loaded; what was sampled, one bit per cell, is a free value. -/
def execSamplePreload (cells : List Bool) (s : State) : Host.Outcome State Fault Refusal :=
  .next (
    if !s.supplied then s
    else
      let s := s.jtag JtagIr.samplePreload
      let sampled := (List.range cells.length).map fun i => bit (Config.free s.fresh) i
      ({ s with test := { s.test with cells := cells } }.emit (.jtag sampled)).draw)

def execExtest (s : State) : Host.Outcome State Fault Refusal := .next (s.jtag JtagIr.extest)
def execClamp (s : State) : Host.Outcome State Fault Refusal := .next (s.jtag JtagIr.clamp)
def execHighz (s : State) : Host.Outcome State Fault Refusal := .next (s.jtag JtagIr.highz)

/-- The challenge: DEV_SERIAL, the nonce, and zeros up to 64 bytes. -/
def State.challengeBytes (s : State) : List Byte :=
  (leBytes 7 s.part.serial ++ (s.test.nonce ++ List.replicate 32 0).take 32 ++ List.replicate 25 0)

/-- The nonce of a port that has none yet: a free value. -/
def State.withNonce (s : State) : State :=
  if s.test.nonce.isEmpty then { s with test := { s.test with nonce := s.freeBytes 32 } }.draw else s

/-- DEBUG_UNLOCK_TOKEN: a valid signature over the challenge unlocks the port at PERST# release; an invalid one changes
nothing but that a nonce has been given out. -/
def execDebugUnlockToken (token : List Byte) (s : State) : Host.Outcome State Fault Refusal :=
  .next (
    if s.supplied && s.perst && !s.part.debugDisable then
      let s := s.withNonce
      if Config.mldsaVerify Config.debugKey s.challengeBytes (ascii "VRM-DEBUG") token then
        { s with test := { s.test with token := true } }
      else s
    else s)

/-- DEBUG_PRIVATE_INSTRUCTION: a locked port refuses it; the first one on an unlocked port sets SEC_DEBUG.USED. What it reaches
beyond that, the spec does not say (log entry 34, DESIGN CHOICE). -/
def execDebugPrivateInstruction (_code : BitVec 8) (s : State) : Host.Outcome State Fault Refusal :=
  .next (if s.supplied && !s.perst && s.g .sec F.SEC_DEBUG_STATE == 1 then s.p .sec F.SEC_DEBUG_USED 1 else s)

end Sys2Proof.Machine
end

