-- ==== Sys2Proof/Machine/Access.lean ====
section
/-! DEFINITION. The host's register accesses: a write as each register takes it, and a read with its latches and with the
registers whose value is formed as they are read (R59, R63 to R65, R175, R214, R223, R320, R329, R393, R399, R421, R441, R442). -/

namespace Sys2Proof.Machine

/-! ### Writes -/

/-- A write of one MSI-X table word; unmasking a vector sends its pending message (R320, R323). -/
def State.msixWrite (s : State) (a : Nat) (v : Word) : State :=
  let i := (a - Blk.hst.base - 0x8000) / 4
  let was := s.msixMasked (i / 4)
  let v := if i % 4 = 3 then v &&& 1 else if i % 4 = 0 then v &&& ~~~(3 : Word) else v
  let s := { s with msix := tput (msixReset i) s.msix i v }
  let f := F.MSIX_PENDING (i / 4 / 32)
  let pend := s.g .hst f
  if i % 4 = 3 && was && !s.msixMasked (i / 4) && bit pend (i / 4 % 32) then
    (s.p .hst f (pend - 2 ^ (i / 4 % 32))).sendMsix (i / 4)
  else s

/-- A write of BOB_ARM: with GO set, the device serves the arm at its HOST_ARM (R223). -/
def State.armWrite (s : State) (die : Nat) (v : Word) : State :=
  let s := s.p (.bob die) F.BOB_ARM_BOBBIN (fldGet F.BOB_ARM_BOBBIN v)
  if fldGet F.BOB_ARM_GO v = 1 && !s.hostGo.contains die then { s with hostGo := s.hostGo ++ [die] } else s

/-- NIR_TRAIN: GO trains from DOWN, STOP takes the port down; both read 0 (R271, R274). -/
def State.trainWrite (s : State) (p : Nat) (v : Word) : State :=
  let s := if bit v.toNat 1 then s.trainStop p else s
  if bit v.toNat 0 then s.trainGo p else s

/-- Registers of an interrupt controller that only its cores write (R433). -/
def irqCoreOnly (o : Nat) : Bool :=
  (decide (0x100 ≤ o) && decide (o < 0x180)) || (decide (0x280 ≤ o) && decide (o < 0x2A0))

/-- The effect of a 32-bit write that the device takes, register by register; a register without a behaviour of its own takes
it by its access type (R65). -/
def State.writeWord (s : State) (a : Nat) (v : Word) : State :=
  let o := a % 0x10000
  if inMsixTable a then s.msixWrite a v
  else match blkAt a with
    | none => s
    | some b =>
      if o = F.CFG_APPLY_GO.off then s.writeGo b v
      else match b with
        | .dev =>
          if o = F.DEV_MODE_REQ_MODE.off then s.writeModeReq v
          else if o = F.DEV_EVT_TAIL_TAIL.off then s.writeTail v else s.regWriteBits a v
        | .nir p => if o = F.NIR_TRAIN_GO.off then s.trainWrite p v else s.regWriteBits a v
        | .bob d => if o = F.BOB_ARM_GO.off then s.armWrite d v else s.regWriteBits a v
        | .irq _ => if irqCoreOnly o then s else s.regWriteBits a v
        | .pmu d =>
          if o = F.PMU_SMP_TAIL_TAIL.off then s.sampleTail d (v.toNat % 4096)
          else if o = F.PMU_SMP_SEL_INDEX.off then s.sampleSelect d (v.toNat % 4096)
          else if 0x1000 ≤ o && o % 0x100 = F.PMU_SET_CTRL_CLEAR.off then
            (if bit v.toNat 0 then s.setClear d ((o - 0x1000) / 0x100) else s)
          else s.regWriteBits a v
        | _ => s.regWriteBits a v

/-- Windows that a running extension cannot write (R399). -/
def extForbidden (a : Nat) : Bool :=
  match blkAt a with
  | some (.prk _) => true
  | some .sec => true
  | some .mgt => true
  | some .pwr => true
  | _ => false

/-- An extension runs on the S0 control cluster, which the fail-safe state stops (R399, R420). -/
def State.extWrites (s : State) : Bool := !s.fatalSet && s.g .sec F.SEC_BOOT_STATUS_EXT_STATE == 1

/-- A 32-bit write of the host, or of the running extension, which executes inside the device and needs neither the host's
link nor its control level. -/
def State.write32 (s : State) (ext : Bool) (a : Nat) (v : Word) : State :=
  if ext then
    if !s.extWrites || !regExists a then s
    else if extForbidden a then s.writeIgnored 3 a
    else s.writeWord a v
  else s.hostWrite a fun s => s.writeWord a v

/-- REGISTER_WRITE (R64, R65): a 64-bit write is two 32-bit writes, lower address first; a narrow or unaligned one is ignored and
recorded, in the fail-safe state too (log entry 9, DEDUCED). -/
def execRegisterWrite (ext : Bool) (addr : BitVec 26) (width : Width) (value : BitVec 64) (s : State) :
    Host.Outcome State Fault Refusal :=
  let a := addr.toNat
  let lo := BitVec.ofNat 32 (value.toNat % 2 ^ 32)
  let hi := BitVec.ofNat 32 (value.toNat / 2 ^ 32)
  let narrow := width == .b1 || width == .b2 || a % 4 ≠ 0
  .next (
    if narrow then
      (if s.ready && (if ext then s.extWrites else s.hostUp) then s.writeIgnored 1 a else s)
    else if width == .b4 then s.write32 ext a lo
    else (s.write32 ext a lo).write32 ext ((a + 4) % 2 ^ 26) hi)

/-! ### Registers formed as they are read -/

/-- Item of the tensor scale table that VEC_TS_SEL selects, as one Hoop's copy holds it (R162, R175). -/
def State.tsData (s : State) (h : Nat) : Nat :=
  let i := s.g (.vec h) F.VEC_TS_SEL_IDX
  let k := s.g (.vec h) F.VEC_TS_SEL_ITEM
  let x := tget {} s.scale i
  if k < 16 then x.hist.getD k 0
  else if k = 16 then x.d + x.fmt * 2 ^ 8 + x.hist.length * 2 ^ 16
  else if k = 17 then (tget {} s.stepStat (h * 2048 + i)).amax
  else if k = 18 then x.last.sse
  else if k = 19 then x.last.count
  else if k = 20 then x.last.maxErr
  else if k = 21 then x.last.nonfin
  else 0

/-- Rows of a FEED stream that have landed and are not taken. How many rows of the oldest buffer slot are taken between two
events is a free value (log entry 35, DESIGN CHOICE). -/
def State.feedRows (s : State) (a : Arm) : Nat :=
  let rb := descRowBeats a.desc
  let landed := if rb = 0 then 0 else a.beats / rb
  let left := landed - a.freed * descTileRows a.desc
  left - Config.free s.fresh % (min left (descTileRows a.desc) + 1)

/-- Time to empty of a live transfer, in ns (R214). -/
def State.armTte (s : State) (a : Arm) : Nat :=
  let d := a.desc
  let total := descRows d * descRowBytes d
  match a.kind with
  | 1 =>
    let arr := 2 * a.die + descArray d
    let den := s.g (.arr arr) F.ARR_STATUS_DUTY * (6 + 2 * s.g (.arr arr) F.ARR_STATUS_OP)
    s.feedRows a * 160 * (if s.t2 then 8 else 1) / den
  | 3 => (a.landedBytes - (a.pieces.foldl (fun m p => max m (256 * p.2)) 0)) / 200
  | 5 =>
    let local_ := if a.locals.isEmpty then 0 else tileEnd d (a.wholeTiles - 1)
    (a.landedBytes - (a.pieces.foldl (fun m p => max m (256 * p.2)) (if a.wholeTiles = 0 then 0 else local_))) / 200
  | 4 =>
    let got := a.pieces.foldl (fun m p => max m (256 * p.2)) 0
    let freed := min total (a.freed * descTileRows d * descRowBytes d)
    ((descLook d + 1) * descTileRows d * descRowBytes d - (got - freed)) / 200
  | _ =>
    if a.stream = 0x1FFFF then 0xFFFFFF
    else match s.run, s.img with
      | some r, some p =>
        let dl := (p.deads.getD a.die []).getD a.slot (0, 0)
        let k : Nat := knotDiff r.first s.grid.knot
        let now : Nat := (s.grid.time + 2 ^ 64 - s.grid.knotAt) % 2 ^ 64 / 2 ^ 16
        let left : Int := ((dl.1 : Int) - k) * p.interval + dl.2 - now
        let beats := descRows d * descRowBeats d
        let need := (streamPath s.pages a.die d a.rcv).term * ((beats - a.beats : Nat) : Rat) / ((max 1 beats : Nat) : Rat)
        (left - need.ceil).toNat
      | _, _ => 0

/-- BOB_TTE: the smallest time to empty among the live transfers (R224). -/
def State.tte (s : State) (die n : Nat) : Nat :=
  (s.liveOn die n).foldl (fun m a => min m (s.armTte a)) 0xFFFFFF

/-- The cycle counter of a set as control cycle n of a burst samples it (R441, R442). -/
def State.cycSample (s : State) (die k n : Nat) : Nat :=
  { s with grid := { s.grid with time := s.grid.time + nsT (20 * n) / 9 } }.cycOf die k

/-- A register that holds a value in two halves, formed as it is read; `n` is the control cycle of the read in its burst. -/
def State.pairNow (s : State) (b : Blk) (o n : Nat) : Option Nat :=
  match b with
  | .grid =>
    if o = F.GRID_TIME_LO_TIME_LO.off then some s.grid.time
    else if o = F.GRID_KNOT_LO_KNOT_LO.off then some s.grid.knot
    else if o = F.GRID_NEXT_KNOT_LO_NEXT_LO.off then some s.grid.next0
    else if o = F.GRID_ROOT_ID_LO_ID_LO.off then some (s.g2 .grid F.GRID_ROOT_ID_LO_ID_LO F.GRID_ROOT_ID_HI_ID_HI)
    else none
  | .pwr => if 0x104 ≤ o && o < 0x174 && o % 16 = 4 then some (s.g2 .pwr ⟨o, 0, 32⟩ ⟨o + 4, 0, 32⟩) else none
  | .pmu d =>
    if o < 0x1000 then none
    else
      let r := o % 0x100
      let k := (o - 0x1000) / 0x100
      if r = 0 || r = 0x48 then some (s.cycSample d k n)
      else if r < 0x90 && r % 8 = 0 then some (s.g2 b ⟨o, 0, 32⟩ ⟨o + 4, 0, 32⟩) else none
  | _ => none

/-- A single register formed as it is read. -/
def State.oneNow (s : State) (b : Blk) (o : Nat) : Option Nat :=
  if o = F.CFG_STATUS_PEND.off then some (s.g b F.CFG_STATUS_PEND + if s.dirty b then 2 else 0)
  else match b with
    | .grid => if o = F.GRID_HOLDOVER_ELAPSED.off && s.lockState = 3 then some (s.holdElapsed.g .grid F.GRID_HOLDOVER_ELAPSED) else none
    | .vec h => if o = F.VEC_TS_DATA_DATA.off then some (s.tsData h) else none
    | .bob d => if o < 0x800 && o % 0x40 = 4 then some (s.tte d (o / 0x40)) else none
    | .sec =>
      if 0x20 ≤ o && o < 0x40 && s.stage_ ≥ 1 then some (leAt romBytes (o - 0x20) 4) else none
    | _ => none

/-- What a read of a register word returns, at control cycle n of a burst, and the latch it leaves: a _LO read latches its _HI, and
the next read of that _HI returns the latched value; where no register lies it is 0 (R59, R63, R441). -/
def State.readWord (s : State) (a n : Nat) : State × Nat :=
  let held := tget 0 s.latch a
  if inMsixTable a then
    (s, (tget (msixReset ((a - Blk.hst.base - 0x8000) / 4)) s.msix ((a - Blk.hst.base - 0x8000) / 4)).toNat)
  else if !regExists a then (s, 0)
  else if held ≠ 0 then ({ s with latch := tput 0 s.latch a 0 }, held - 1)
  else match blkAt a with
    | none => (s, 0)
    | some b =>
      let o := a % 0x10000
      match s.pairNow b o n with
      | some v => ({ s with latch := tput 0 s.latch (a + 4) (v / 2 ^ 32 % 2 ^ 32 + 1) }, v % 2 ^ 32)
      | none => match s.oneNow b o with
        | some v => (s, v)
        | none => match (if 4 ≤ o then s.pairNow b (o - 4) n else none) with
          | some v => (s, v / 2 ^ 32 % 2 ^ 32)
          | none => (s, (s.rd a).toNat)

/-- Until READY the die windows read 0 (R393). -/
def readsZero (s : State) (a : Nat) : Bool := !s.ready && decide (0x800000 ≤ a)

/-- Read n words from a word address on, one per control cycle (R441). -/
def State.readWords (s : State) (a : Nat) : Nat → Nat → State × List Nat
  | 0, _ => (s, [])
  | n + 1, i =>
    let (s, v) := if readsZero s a then (s, 0) else s.readWord a i
    let (s, r) := s.readWords (a + 4) n (i + 1)
    (s, v :: r)

/-- A read of a counter set that R441 accepts: 4 to 128 bytes within 0x00 to 0x7F of one set. -/
def burstRead (a n : Nat) : Bool :=
  match blkAt a with
  | some (.pmu d) =>
    let o := a % 0x10000
    decide (0x1000 ≤ o) && decide (o < 0x1000 + 0x100 * setsOf d) && a % 4 == 0 && decide (4 ≤ n) && decide (o % 0x100 + n ≤ 0x80)
  | _ => false

/-- REGISTER_READ_LATCH: `bytes` from an offset. A narrow read returns the addressed bytes of its word; a 64-bit read is two
32-bit reads (R64). A read of no size that R64 or R441 allows is not accepted. -/
def execRegisterReadLatch (addr : BitVec 26) (bytes : BitVec 8) (s : State) : Host.Outcome State Fault Refusal :=
  let a := addr.toNat
  let n := bytes.toNat
  .next (
    if !s.hostUp || !((n == 1 || n == 2 || n == 4 || n == 8) && a % n == 0 || burstRead a n) then s
    else
      let w := a - a % 4
      let (s, ws) := s.readWords w (ceilDiv (a % 4 + n) 4) 0
      let v := leAt (ws.flatMap (leBytes 4)) (a % 4) n
      let s := match blkAt a with
        | some (.bob _) => s.draw
        | _ => s
      s.emit (.readData a v))

end Sys2Proof.Machine
end

