-- ==== Sys2Proof/Machine/MemoryEvents.lean ====
section
/-! DEFINITION. What the memories and the bridges report: reads that return, scrubs, temperatures, refresh rates and
bridge flits (R22, R230, R232, R235 to R238, R241 to R243). -/

namespace Sys2Proof.Machine

/-- First beat of a live arm, not yet landed and within its buffer slots, that reads the 64 bytes of a DPA, or that writes
there. -/
def State.beatAt (s : State) (a : Arm) (dpa : Nat) (write : Bool) : Option Nat :=
  ((List.range (s.armLimit a - a.beats)).map (a.beats + ·)).find? fun j =>
    let rb := descRowBeats a.desc
    let n := min 64 (descRowBytes a.desc - j % rb * 64)
    match (if write then s.dstRuns a (j / rb) (j % rb * 64) n else s.srcRuns a (j / rb) (j % rb * 64) n) with
    | some rs => rs.any fun r => rangesMeet r (dpa / 64 * 64, 64)
    | none => false

/-- Land a transfer's beats up to beat j, that one included; a beat that faults stops the transfer. -/
def State.landUpTo (s : State) (a : Arm) (j : Nat) : State :=
  let (s, a, f) := s.landTo a (j + 1)
  match f with
  | some f => s.faultStop a f
  | none => s

/-- A reader's beat that came back uncorrectable: the beats before it land, then the fault stop (R220). -/
def State.faultBeat (s : State) (a : Arm) (j dpa : Nat) : State :=
  let rb := descRowBeats a.desc
  let (s, a, f) := s.landTo a j
  match f with
  | some f => s.faultStop a f
  | none => s.faultStop a ⟨j, true, s.srcRow a.die a.desc (j / rb) + j % rb * 64, dpa⟩

/-- What an HBM3 read of a pair comes to (R230): none when uncorrectable, else the wrong bits left in the data and whether
the controller's code corrected a symbol. A pair that holds an uncorrectable error stays so. Corrections are counted and
reported here; an uncorrectable read is left to what it meets (R238). -/
def State.pairOutcome (s : State) (stack dpa : Nat) (r : PairRead) : State × Option (List (Fin 67 × Byte) × Bool) :=
  let b := Blk.hbm stack
  let set := 7 + stack % 6
  let die := stack / 6
  if dpa / 64 * 64 ∈ s.badPairs then (s, none)
  else match rsDecode r.errs with
    | none => (s.markBad dpa, none)
    | some (left, n) =>
      if n = 0 then
        if r.dieReport then
          let s := (s.inc b F.HBM_CE_DIE_COUNT 1).count die set 8 1
          (s.memCe b stack stack 1 (dpa / 64 * 64), some (left, false))
        else (s, some (left, false))
      else
        let s := (s.inc b F.HBM_CE_RS_COUNT n).count die set 7 1
        (s.memCe b stack stack 2 (dpa / 64 * 64), some (left, true))

/-- The transfer that a reader names, while it is live. -/
def State.readerArm (s : State) : Reader → Option Arm
  | .bobbin die n d gen _ => s.armOf die.val n.val d gen.toNat
  | _ => none

/-- Is the read the first half of a partial write (R231)? -/
def isPartial : Reader → Bool
  | .bobbin _ _ _ _ w => w
  | .unit _ _ w => w
  | .host => false

/-- READER code of STR_UE_INFO (R250). -/
def readerCode : Reader → Nat
  | .unit _ u _ => if u.toNat = 0x40 then 2 else if u.toNat = 0x41 then 3 else 0
  | .bobbin _ _ _ _ _ => 1
  | .host => 0

/-- The registers of the engine that reads, when an uncorrectable read stops it (R295, R318): the error codes of the
reduction engine for its Shuttle's SRAM, and of the update engine for the slow tier, its SRAM, a refresh and a partial
write. -/
def State.engineUe (s : State) (die code dpa : Nat) (write : Bool) : State :=
  let k := die - 4
  match (if die ≥ 4 && (code = 0x40 || code = 0x41) then tget none s.units (8 * die + (code - 0x3F)) else none) with
  | none => s
  | some u =>
    let refresh := s.g (.upd k) F.UPD_STATUS_KIND == 3
    match memOf dpa with
    | some (.sram _) =>
      if code = 0x40 then (s.redIdle k).redErr die 3 u.slot
      else if refresh then ({ s with units := tput none s.units (8 * die + 2) none }.updIdle k).updErr k 5 u.slot
      else s.updErr k 2 u.slot
    | some (.slow _) => if code = 0x41 && !refresh then s.updErr k 1 u.slot else s
    | some (.hbm _) => if code = 0x41 && write then s.updErr k 8 u.slot else s
    | none => s

/-- An uncorrectable read meets its reader (R220, R231, R238, R417): a bobbin's beat stops its transfer; a partial write's
beat is dropped with its pair; another unit's memory raises the snag; a copy of the host port stops when it ends. A read of
a transfer that is live no more is only counted and reported. -/
def State.meetUe (s : State) (dpa : Nat) (r : Reader) : State :=
  let src := if isPartial r then 2 else 1
  match r, s.readerArm r with
  | .bobbin _ _ _ _ w, some a => match s.beatAt a dpa w with
    | some j => if w then (s.landUpTo a j).settleUe .unit else (s.faultBeat a j dpa).settleUe .unit
    | none => s.memUe dpa src 1 .late
  | .bobbin _ _ _ _ _, none => s.memUe dpa src 1 .late
  | .unit die u w, _ => (s.engineUe die.val u.toNat dpa w).memUe dpa src (readerCode r) .unit
  | .host, _ => s

/-- Data comes back to a reader with some bits wrong: its beat lands them. The read half of a partial write puts what it
read back into the pair (R231). -/
def State.meetData (s : State) (dpa : Nat) (left : List (Fin 67 × Byte)) (r : Reader) : State :=
  let p := dpa / 64 * 64
  match s.readerArm r with
  | none => s
  | some a => match s.beatAt a dpa (isPartial r) with
    | none => s
    | some j =>
      let keep := s.readMem p 64
      let wrong := applyErrs left keep
      let s := ({ s with mem := memWrite s.mem p wrong }.landUpTo a j).settleUe .unit
      if isPartial r then s
      else
        let back := (s.readMem p 64).zip (wrong.zip keep) |>.map fun x => if x.1 = x.2.1 then x.2.2 else x.1
        { s with mem := memWrite s.mem p back }

/-- HBM_READ_RETURN (R229 to R231, R238). -/
def execHbmReadReturn (stack : Stack) (dpa : BitVec 48) (read : PairRead) (reader : Reader) (s : State) :
    Host.Outcome State Fault Refusal :=
  let d := dpa.toNat
  if d ≥ 4 * hoopHbm || hbmStack d ≠ stack.val then .next s
  else
    let s := if isPartial reader then s.count (stack.val / 6) (7 + stack.val % 6) 4 1 else s
    match s.pairOutcome stack.val d read with
    | (s, none) => .next (s.meetUe d reader)
    | (s, some (left, _)) => .next (s.meetData d left reader)

/-- An update that an uncorrectable read of the slow tier meets (R303, R318): the records before it are written, its own and
the later ones are not. -/
def State.updCut (s : State) (k dpa : Nat) : State :=
  match tget none s.units (8 * (4 + k) + 2), s.run, s.img with
  | some u, some r, some p => match p.slot (4 + k) u.slot with
    | some e =>
      if e.action = 9 then
        match updRule (p.block e.operand) with
        | 3 => s
        | _ =>
          let x := p.block e.operand
          let rows := (List.range (updRecords x)).takeWhile fun i =>
            [(updVa x + 136 * i, 136), (updGrad x + 128 * i, 128)].all fun q =>
              !(((walkRange (s.tlbOf (4 + k)) false q.1 q.2).getD []).any fun m => rangesMeet m (dpa, 1))
          s.updPlain k u.slot e.operand (updEnv (4 + k) e.operand x (s.factors k) r.q.seed r.q.step) rows
      else s
    | none => s
  | _, _, _ => s

/-- STR_READ_RETURN (R240, R241). Bits that neither code notices are wrong in the package itself, for every reader.
Readings: log entry 50, DEDUCED. -/
def execStrReadReturn (shuttle : Shuttle) (dpa : BitVec 48) (read : SlowRead) (reader : Reader) (s : State) :
    Host.Outcome State Fault Refusal :=
  let d := dpa.toNat
  let k := shuttle.val
  if memOf d ≠ some (.slow k) then .next s
  else match read with
    | .uncorrectable =>
      .next ((match reader with
        | .unit die u _ => if die.val = 4 + k && u.toNat = 0x41 then s.updCut k d else s
        | _ => s).meetUe d reader)
    | .good corrected wrong =>
      let p := d / 64 * 64
      let s := if wrong = [] then s
        else { s with mem := memWrite s.mem p (applyErrs (wrong.map fun x => (x.1.castLE (by decide), x.2)) (s.readMem p 64)) }
      let s := if corrected then
          ((s.inc (.str k) F.STR_CE_LINK_COUNT 1).count (4 + k) 3 3 1).memCe (.str k)
            (32 + 32 * k + slowChannel d) (slowChannel d) 4 d
        else s
      .next (s.meetData d [] reader)

/-- The scrubber reads a pair, and writes it back as the controller's code corrected it, right or wrong (R229, R232, R238). -/
def State.scrubPair (s : State) (stack d : Nat) (read : PairRead) : State :=
  match s.pairOutcome stack d read with
  | (s, none) => s.memUe d 3 0 .scrub
  | (s, some (left, true)) => { s with mem := memWrite s.mem d (applyErrs left (s.readMem d 64)) }
  | (s, some (_, false)) => s

/-- HBM_SCRUB: the next pair of the stack in the order of R232; PASSES counts a whole round. -/
def execHbmScrub (stack : Stack) (read : PairRead) (s : State) : Host.Outcome State Fault Refusal :=
  let a := tget 0 s.scrubPos stack.val
  let s := s.scrubPair stack.val (hbmDpa stack.val a) read
  let a' := a + 64
  let s := { s with scrubPos := tput 0 s.scrubPos stack.val (if a' ≥ 0x600000000 then 0 else a') }
  .next (if a' ≥ 0x600000000 then s.inc (.hbm stack.val) F.HBM_SCRUB_PASSES 1 else s)

/-- SRAM_SCRUB: the next word of a die's SRAM is read and written back when corrected; or a unit's own read of the word at
an offset comes back (R243). A word that a bobbin reads is lost in BEAT_FAULT. -/
def execSramScrub (die : Die) (read : SramRead) (s : State) : Host.Outcome State Fault Refusal :=
  let size := dieSramSize die.val
  match read with
  | .scrub fate =>
    let a := tget 0 s.scrubPos (24 + die.val)
    let d := dieSram die.val + a
    let s := if fate = .uncorrectable || d ∈ s.badPairs then (s.markBad d).memUe d 3 0 .scrub
      else if fate = .corrected then s.sramCe die.val a else s
    .next { s with scrubPos := tput 0 s.scrubPos (24 + die.val) (if a + 8 ≥ size then 0 else a + 8) }
  | .unit off u fate =>
    let a := off.toNat / 8 * 8
    let d := dieSram die.val + a
    if a ≥ size then .next s
    else .next (match fate with
      | .clean => s
      | .corrected => s.sramCe die.val a
      | .uncorrectable => ((s.markBad d).engineUe die.val u.toNat d false).memUe d 1 0 .unit)

/-! ### Temperatures and refresh -/

/-- The throttle level after a reading (R235). -/
def hbmLevel (light heavy hyst level t : Nat) : Nat :=
  if t ≥ heavy then 2
  else match level with
    | 0 => if t ≥ light then 1 else 0
    | 1 => if t + hyst < light then 0 else 1
    | _ => if t + hyst < heavy then 1 else 2

/-- A stack's throttle level changes: logged, told to the control cluster, and to the board at Heavy (R236, R237, R411). -/
def State.hbmSetLevel (s : State) (m level t : Nat) (noTemp : Bool) : State :=
  let b := Blk.hbm m
  let old := s.g b F.HBM_STATUS_LEVEL
  if old = level then s
  else
    let s := (s.p b F.HBM_STATUS_LEVEL level).line (m / 6) (106 + m % 6)
    let s := s.event { type := 0x22, cls := 0, die := b.die, block := b.index, inst := m, code := level
                       data := (if noTemp then 1 else 0) + t * 256 }
    if level = 2 then s.sensor ⟨12 + m / 6, 0, false, t, t⟩ else s

/-- HBM_TEMP_READ (R235 to R237). -/
def execHbmTempRead (stack : Stack) (reading : Option (BitVec 8)) (s : State) : Host.Outcome State Fault Refusal :=
  let m := stack.val
  let b := Blk.hbm m
  match reading with
  | none =>
    let n := tget 0 s.hbmMiss m + 1
    let s := { s with hbmMiss := tput 0 s.hbmMiss m (min n 3), hbmHot := tput 0 s.hbmHot m 0 }
    if n ≠ 3 then .next s
    else
      let s := s.p b F.HBM_STATUS_NO_TEMP 1
      if s.g b F.HBM_STATUS_LEVEL = 2 then
        .next (s.event { type := 0x22, cls := 0, die := b.die, block := b.index, inst := m, code := 2
                         data := 1 + s.g b F.HBM_STATUS_TEMP * 256 })
      else .next (s.hbmSetLevel m 2 (s.g b F.HBM_STATUS_TEMP) true)
  | some t =>
    let t := t.toNat
    let lost := s.gb b F.HBM_STATUS_NO_TEMP
    let hot := if t ≥ 105 then tget 0 s.hbmHot m + 1 else 0
    let s := { s with hbmMiss := tput 0 s.hbmMiss m 0, hbmHot := tput 0 s.hbmHot m (min hot 2) }
    let s := (s.p b F.HBM_STATUS_TEMP t).p b F.HBM_STATUS_NO_TEMP 0
    let level := hbmLevel (s.g b F.HBM_THERM_CFG_LIGHT_C) (s.g b F.HBM_THERM_CFG_HEAVY_C) (s.g b F.HBM_THERM_CFG_HYST_C)
      (if lost then 0 else s.g b F.HBM_STATUS_LEVEL) t
    let s := s.hbmSetLevel m level t false
    .next (if hot = 2 then s.fatal (m / 6) 0x08 m else s)

/-- Refresh multiplier of an LPDDR5X MR4 indication is above twice nominal (log entry 22, PRESUMED). -/
def mr4Fast (v : Nat) : Bool := let r := v % 32; decide (0x0C ≤ r) && decide (r ≤ 0x0F)

/-- The indication says that the package is above its operating range (log entry 22, PRESUMED). -/
def mr4Hot (v : Nat) : Bool := v % 32 == 0x1F

/-- STR_MR4_READ: the refresh-rate indications of packages P0 to P7, P0 in the lowest byte (R242). -/
def execStrMr4Read (shuttle : Shuttle) (mr4 : BitVec 64) (s : State) : Host.Outcome State Fault Refusal :=
  let b := Blk.str shuttle.val
  let vs := (List.range 8).map fun i => mr4.toNat / 256 ^ i % 256
  let s := s.p b F.STR_STATUS_MR4_MAX (vs.foldl max 0)
  let s := s.pb b F.STR_STATUS_REFRESH (vs.any fun v => mr4Fast v || mr4Hot v)
  let s := (vs.zip (List.range 8)).foldl (fun s p =>
    if mr4Fast p.1 || mr4Hot p.1 then
      s.event { type := 0x23, cls := 0, die := b.die, block := b.index, inst := p.2, code := 0, data := p.1 }
    else s) s
  .next (match (vs.zip (List.range 8)).find? fun p => mr4Hot p.1 with
    | some p => s.fatal (4 + shuttle.val) 0x09 (shuttle.val * 256 + p.2)
    | none => s)

/-! ### Die-to-die bridges (R22) -/

def bridgesOf (die : Nat) : Nat := if die < 4 then 3 else 2

/-- BRIDGE_FLIT_RECEIVE: a corrected flit is counted and raises source 8 + b; one the code cannot correct is a contained
error. -/
def execBridgeFlitReceive (die : Die) (bridge : Fin 3) (fate : ReadFate) (s : State) : Host.Outcome State Fault Refusal :=
  if bridge.val ≥ bridgesOf die.val then .next s
  else match fate with
    | .clean => .next s
    | .corrected => .next ({ s with
        bridgeCe := tmod 0 s.bridgeCe (4 * die.val + bridge.val) (· + 1) }.line die.val (8 + bridge.val))
    | .uncorrectable => .next (s.raiseVoid die.val 5)

/-- BRIDGE_TIMEOUT: fatal (R22, R424). -/
def execBridgeTimeout (die : Die) (bridge : Fin 3) (s : State) : Host.Outcome State Fault Refusal :=
  if bridge.val ≥ bridgesOf die.val then .next s
  else .next (s.fatal die.val 0x0F (die.val + bridge.val * 256))

end Sys2Proof.Machine
end

