-- ==== Sys2Proof/Machine/Dispatch.lean ====
section
/-! DEFINITION. One arm per command of spec/opcode_table.json: its meaning, on everything but the queue. -/

namespace Sys2Proof.Machine

def exec (i : Instr) (s : State) : Host.Outcome State Fault Refusal :=
  match i with
  | .inputPowerUp => Sys2Proof.Machine.execInputPowerUp s
  | .supplyUv mv => Sys2Proof.Machine.execSupplyUv mv s
  | .supplyOv mv => Sys2Proof.Machine.execSupplyOv mv s
  | .regFault domain => Sys2Proof.Machine.execRegFault domain s
  | .inputLoss => Sys2Proof.Machine.execInputLoss s
  | .perstRelease diesReady rom => Sys2Proof.Machine.execPerstRelease diesReady rom s
  | .perstAssert => Sys2Proof.Machine.execPerstAssert s
  | .hbmTrainingDone => Sys2Proof.Machine.execHbmTrainingDone s
  | .hbmZeroDone stack => Sys2Proof.Machine.execHbmZeroDone stack s
  | .slowTierTrained => Sys2Proof.Machine.execSlowTierTrained s
  | .calibrationDone fixedW => Sys2Proof.Machine.execCalibrationDone fixedW s
  | .functionLevelReset => Sys2Proof.Machine.execFunctionLevelReset s
  | .refclkLoss => Sys2Proof.Machine.execRefclkLoss s
  | .pwrbrakeAssert => Sys2Proof.Machine.execPwrbrakeAssert s
  | .pwrbrakeRelease => Sys2Proof.Machine.execPwrbrakeRelease s
  | .clsRead code => Sys2Proof.Machine.execClsRead code s
  | .gridJoin ring e => Sys2Proof.Machine.execGridJoin ring e s
  | .beaconListenTimeout => Sys2Proof.Machine.execBeaconListenTimeout s
  | .beaconSend => Sys2Proof.Machine.execBeaconSend s
  | .beaconReceive port os rx => Sys2Proof.Machine.execBeaconReceive port os rx s
  | .lockTimeout => Sys2Proof.Machine.execLockTimeout s
  | .beaconLoss => Sys2Proof.Machine.execBeaconLoss s
  | .holdoverExpiry => Sys2Proof.Machine.execHoldoverExpiry s
  | .backupRootTakeover => Sys2Proof.Machine.execBackupRootTakeover s
  | .delayReqSend port => Sys2Proof.Machine.execDelayReqSend port s
  | .delayReqReceive port os rx => Sys2Proof.Machine.execDelayReqReceive port os rx s
  | .delayRespReceive port os rx => Sys2Proof.Machine.execDelayRespReceive port os rx s
  | .joinReport port flit => Sys2Proof.Machine.execJoinReport port flit s
  | .gridsyncEdge at_ => Sys2Proof.Machine.execGridsyncEdge at_ s
  | .gridsyncEdgeMissing => Sys2Proof.Machine.execGridsyncEdgeMissing s
  | .knotEvent late fail => Sys2Proof.Machine.execKnotEvent late fail s
  | .localTick => Sys2Proof.Machine.execLocalTick s
  | .snagReprojection late => Sys2Proof.Machine.execSnagReprojection late s
  | .snagForward port os => Sys2Proof.Machine.execSnagForward port os s
  | .snagRootReceive port os => Sys2Proof.Machine.execSnagRootReceive port os s
  | .gridLeave ring e => Sys2Proof.Machine.execGridLeave ring e s
  | .cfgApplyGo block => Sys2Proof.Machine.execCfgApplyGo block s
  | .modeRequest value => Sys2Proof.Machine.execModeRequest value s
  | .configScrub bad => Sys2Proof.Machine.execConfigScrub bad s
  | .registerWrite ext addr width value => Sys2Proof.Machine.execRegisterWrite ext addr width value s
  | .registerReadLatch addr bytes => Sys2Proof.Machine.execRegisterReadLatch addr bytes s
  | .evtTailWrite value => Sys2Proof.Machine.execEvtTailWrite value s
  | .eventWriteFail => Sys2Proof.Machine.execEventWriteFail s
  | .kick offset value => Sys2Proof.Machine.execKick offset value s
  | .sweepFetch kickSweep page => Sys2Proof.Machine.execSweepFetch kickSweep page s
  | .reservedOpcode ring opcode e => Sys2Proof.Machine.execReservedOpcode ring opcode e s
  | .identify ring e write => Sys2Proof.Machine.execIdentify ring e write s
  | .ringCreate ring e => Sys2Proof.Machine.execRingCreate ring e s
  | .ringDelete ring e => Sys2Proof.Machine.execRingDelete ring e s
  | .map ring e data => Sys2Proof.Machine.execMap ring e data s
  | .unmap ring e => Sys2Proof.Machine.execUnmap ring e s
  | .memRead ring e => Sys2Proof.Machine.execMemRead ring e s
  | .memWrite ring e data => Sys2Proof.Machine.execMemWrite ring e data s
  | .hostCopyDone ring fin => Sys2Proof.Machine.execHostCopyDone ring fin s
  | .trainPorts ring e => Sys2Proof.Machine.execTrainPorts ring e s
  | .admitPricking ring e => Sys2Proof.Machine.execAdmitPricking ring e s
  | .startStep ring e lens => Sys2Proof.Machine.execStartStep ring e lens s
  | .abortStep ring e => Sys2Proof.Machine.execAbortStep ring e s
  | .preempt ring e => Sys2Proof.Machine.execPreempt ring e s
  | .resume ring e => Sys2Proof.Machine.execResume ring e s
  | .setPowerCap ring e => Sys2Proof.Machine.execSetPowerCap ring e s
  | .extensionCommand ring opcode e => Sys2Proof.Machine.execExtensionCommand ring opcode e s
  | .completionDeferredPost ring => Sys2Proof.Machine.execCompletionDeferredPost ring s
  | .completionWriteFail ring err => Sys2Proof.Machine.execCompletionWriteFail ring err s
  | .preemptSaveDone => Sys2Proof.Machine.execPreemptSaveDone s
  | .resumeRestoreDone => Sys2Proof.Machine.execResumeRestoreDone s
  | .slotDispatch die => Sys2Proof.Machine.execSlotDispatch die s
  | .slotDeadlineCheck die slot => Sys2Proof.Machine.execSlotDeadlineCheck die slot s
  | .headPassDeferredStart array => Sys2Proof.Machine.execHeadPassDeferredStart array s
  | .vector0Entry array present => Sys2Proof.Machine.execVector0Entry array present s
  | .arrayFreezeLimit array drain => Sys2Proof.Machine.execArrayFreezeLimit array drain s
  | .passComplete array freezeFeed freezeDrain hold => Sys2Proof.Machine.execPassComplete array freezeFeed freezeDrain hold s
  | .statWriteRelease array => Sys2Proof.Machine.execStatWriteRelease array s
  | .arrayError array fault => Sys2Proof.Machine.execArrayError array fault s
  | .xpbLoadRelease hoop buffer held => Sys2Proof.Machine.execXpbLoadRelease hoop buffer held s
  | .xpbLoadComplete hoop buffer => Sys2Proof.Machine.execXpbLoadComplete hoop buffer s
  | .vecOpError hoop fault => Sys2Proof.Machine.execVecOpError hoop fault s
  | .scaleTableApply => Sys2Proof.Machine.execScaleTableApply s
  | .pendingArmEffect die bobbin => Sys2Proof.Machine.execPendingArmEffect die bobbin s
  | .bufferSlotFree die bobbin arm => Sys2Proof.Machine.execBufferSlotFree die bobbin arm s
  | .releaseReceive port flit => Sys2Proof.Machine.execReleaseReceive port flit s
  | .transferComplete die bobbin arm => Sys2Proof.Machine.execTransferComplete die bobbin arm s
  | .beatFault die bobbin arm row beat cause => Sys2Proof.Machine.execBeatFault die bobbin arm row beat cause s
  | .hostArm die => Sys2Proof.Machine.execHostArm die s
  | .hbmReadReturn stack dpa read reader => Sys2Proof.Machine.execHbmReadReturn stack dpa read reader s
  | .strReadReturn shuttle dpa read reader => Sys2Proof.Machine.execStrReadReturn shuttle dpa read reader s
  | .hbmScrub stack read => Sys2Proof.Machine.execHbmScrub stack read s
  | .hbmTempRead stack reading => Sys2Proof.Machine.execHbmTempRead stack reading s
  | .strMr4Read shuttle mr4 => Sys2Proof.Machine.execStrMr4Read shuttle mr4 s
  | .sramScrub die read => Sys2Proof.Machine.execSramScrub die read s
  | .nirTrainGo port => Sys2Proof.Machine.execNirTrainGo port s
  | .nirStop port => Sys2Proof.Machine.execNirStop port s
  | .trainReceive port lane os => Sys2Proof.Machine.execTrainReceive port lane os s
  | .trainSignalDetect port => Sys2Proof.Machine.execTrainSignalDetect port s
  | .trainDetectTimeout port => Sys2Proof.Machine.execTrainDetectTimeout port s
  | .trainCapsDone port => Sys2Proof.Machine.execTrainCapsDone port s
  | .trainCapsTimeout port => Sys2Proof.Machine.execTrainCapsTimeout port s
  | .trainEqDone port => Sys2Proof.Machine.execTrainEqDone port s
  | .trainEqTimeout port => Sys2Proof.Machine.execTrainEqTimeout port s
  | .trainAlignDone port framed skew => Sys2Proof.Machine.execTrainAlignDone port framed skew s
  | .trainAlignTimeout port => Sys2Proof.Machine.execTrainAlignTimeout port s
  | .trainDelayDone port delay => Sys2Proof.Machine.execTrainDelayDone port delay s
  | .laneLockLoss port lane => Sys2Proof.Machine.execLaneLockLoss port lane s
  | .deskewLoss port => Sys2Proof.Machine.execDeskewLoss port s
  | .fecErrorLimit port lane => Sys2Proof.Machine.execFecErrorLimit port lane s
  | .portDownReceive port os => Sys2Proof.Machine.execPortDownReceive port os s
  | .frameTransmit port slot => Sys2Proof.Machine.execFrameTransmit port slot s
  | .frameReceive port frame => Sys2Proof.Machine.execFrameReceive port frame s
  | .slotCheckTimeout port slot => Sys2Proof.Machine.execSlotCheckTimeout port slot s
  | .controlFlitReceive port flit => Sys2Proof.Machine.execControlFlitReceive port flit s
  | .faultReceive port os => Sys2Proof.Machine.execFaultReceive port os s
  | .bridgeFlitReceive die bridge fate => Sys2Proof.Machine.execBridgeFlitReceive die bridge fate s
  | .bridgeTimeout die bridge => Sys2Proof.Machine.execBridgeTimeout die bridge s
  | .powerSample reading => Sys2Proof.Machine.execPowerSample reading s
  | .slowLoop => Sys2Proof.Machine.execSlowLoop s
  | .opChangeComplete array => Sys2Proof.Machine.execOpChangeComplete array s
  | .droopTrip array => Sys2Proof.Machine.execDroopTrip array s
  | .droopRecovery array => Sys2Proof.Machine.execDroopRecovery array s
  | .regulatorCurrentLimit hoop => Sys2Proof.Machine.execRegulatorCurrentLimit hoop s
  | .hoopTempRead t => Sys2Proof.Machine.execHoopTempRead t s
  | .hoopThermalStep hoop => Sys2Proof.Machine.execHoopThermalStep hoop s
  | .shuttleTempRead t => Sys2Proof.Machine.execShuttleTempRead t s
  | .controlWatchdog die => Sys2Proof.Machine.execControlWatchdog die s
  | .irqLineFiltered die source level => Sys2Proof.Machine.execIrqLineFiltered die source level s
  | .irqAck die core source => Sys2Proof.Machine.execIrqAck die core source s
  | .irqDone die core source => Sys2Proof.Machine.execIrqDone die core source s
  | .pmuSetClear die set => Sys2Proof.Machine.execPmuSetClear die set s
  | .pmuWindowEnd die set => Sys2Proof.Machine.execPmuWindowEnd die set s
  | .pmuCounterWrap die set => Sys2Proof.Machine.execPmuCounterWrap die set s
  | .pmuSampleSelect hoop index => Sys2Proof.Machine.execPmuSampleSelect hoop index s
  | .pmuSampleTailWrite hoop index => Sys2Proof.Machine.execPmuSampleTailWrite hoop index s
  | .sensorRefresh => Sys2Proof.Machine.execSensorRefresh s
  | .enec direct events => Sys2Proof.Machine.execEnec direct events s
  | .disec direct events => Sys2Proof.Machine.execDisec direct events s
  | .rstdaa => Sys2Proof.Machine.execRstdaa s
  | .entdaa address => Sys2Proof.Machine.execEntdaa address s
  | .setdasa address => Sys2Proof.Machine.execSetdasa address s
  | .setnewda address => Sys2Proof.Machine.execSetnewda address s
  | .setmwl len => Sys2Proof.Machine.execSetmwl len s
  | .setmrl len ibiLen => Sys2Proof.Machine.execSetmrl len ibiLen s
  | .getmwl => Sys2Proof.Machine.execGetmwl s
  | .getmrl => Sys2Proof.Machine.execGetmrl s
  | .getpid => Sys2Proof.Machine.execGetpid s
  | .getbcr => Sys2Proof.Machine.execGetbcr s
  | .getdcr => Sys2Proof.Machine.execGetdcr s
  | .getstatus => Sys2Proof.Machine.execGetstatus s
  | .rstact action => Sys2Proof.Machine.execRstact action s
  | .setEndpointId pcie op eid => Sys2Proof.Machine.execSetEndpointId pcie op eid s
  | .getEndpointId pcie => Sys2Proof.Machine.execGetEndpointId pcie s
  | .getMctpVersionSupport pcie msgType => Sys2Proof.Machine.execGetMctpVersionSupport pcie msgType s
  | .getMessageTypeSupport pcie => Sys2Proof.Machine.execGetMessageTypeSupport pcie s
  | .getVendorDefinedMessageSupport pcie selector => Sys2Proof.Machine.execGetVendorDefinedMessageSupport pcie selector s
  | .getTid pcie => Sys2Proof.Machine.execGetTid pcie s
  | .setTid pcie tid => Sys2Proof.Machine.execSetTid pcie tid s
  | .getPldmVersion pcie type => Sys2Proof.Machine.execGetPldmVersion pcie type s
  | .getPldmTypes pcie => Sys2Proof.Machine.execGetPldmTypes pcie s
  | .getPldmCommands pcie type => Sys2Proof.Machine.execGetPldmCommands pcie type s
  | .getPdrRepositoryInfo pcie => Sys2Proof.Machine.execGetPdrRepositoryInfo pcie s
  | .getPdr pcie handle offset count => Sys2Proof.Machine.execGetPdr pcie handle offset count s
  | .getSensorReading pcie sensor rearm => Sys2Proof.Machine.execGetSensorReading pcie sensor rearm s
  | .getStateSensorReadings pcie sensor => Sys2Proof.Machine.execGetStateSensorReadings pcie sensor s
  | .getNumericEffecterValue pcie effecter => Sys2Proof.Machine.execGetNumericEffecterValue pcie effecter s
  | .setNumericEffecterValue pcie effecter value => Sys2Proof.Machine.execSetNumericEffecterValue pcie effecter value s
  | .setEventReceiver pcie enable eid => Sys2Proof.Machine.execSetEventReceiver pcie enable eid s
  | .eventMessageSupported pcie => Sys2Proof.Machine.execEventMessageSupported pcie s
  | .eventMessageBufferSize pcie size => Sys2Proof.Machine.execEventMessageBufferSize pcie size s
  | .pollForPlatformEventMessage pcie ack => Sys2Proof.Machine.execPollForPlatformEventMessage pcie ack s
  | .getVersion pcie eid => Sys2Proof.Machine.execGetVersion pcie eid s
  | .getCapabilities pcie eid body => Sys2Proof.Machine.execGetCapabilities pcie eid body s
  | .negotiateAlgorithms pcie eid offers body => Sys2Proof.Machine.execNegotiateAlgorithms pcie eid offers body s
  | .getDigests pcie eid => Sys2Proof.Machine.execGetDigests pcie eid s
  | .getCertificate pcie eid slot offset len => Sys2Proof.Machine.execGetCertificate pcie eid slot offset len s
  | .challenge pcie eid slot body => Sys2Proof.Machine.execChallenge pcie eid slot body s
  | .getMeasurements pcie eid op sign body => Sys2Proof.Machine.execGetMeasurements pcie eid op sign body s
  | .extBegin pcie slot => Sys2Proof.Machine.execExtBegin pcie slot s
  | .extData pcie offset bytes => Sys2Proof.Machine.execExtData pcie offset bytes s
  | .extEnd pcie => Sys2Proof.Machine.execExtEnd pcie s
  | .extStatus pcie => Sys2Proof.Machine.execExtStatus pcie s
  | .extSequenceTimeout => Sys2Proof.Machine.execExtSequenceTimeout s
  | .bypass => Sys2Proof.Machine.execBypass s
  | .idcode => Sys2Proof.Machine.execIdcode s
  | .samplePreload cells => Sys2Proof.Machine.execSamplePreload cells s
  | .extest => Sys2Proof.Machine.execExtest s
  | .clamp => Sys2Proof.Machine.execClamp s
  | .highz => Sys2Proof.Machine.execHighz s
  | .debugUnlockToken token => Sys2Proof.Machine.execDebugUnlockToken token s
  | .debugPrivateInstruction code => Sys2Proof.Machine.execDebugPrivateInstruction code s
  | .admissionComplete timeUs media => Sys2Proof.Machine.execAdmissionComplete timeUs media s
  | .unitSlotComplete die work => Sys2Proof.Machine.execUnitSlotComplete die work s
  | .pcieLinkChange gen width => Sys2Proof.Machine.execPcieLinkChange gen width s
  | .startUpBoundExpiry hbm detail => Sys2Proof.Machine.execStartUpBoundExpiry hbm detail s

end Sys2Proof.Machine
end

