-- ==== Sys2Proof/Safety.lean ====
section
/-! DEFINITION. What a run of the block must keep: the canonical form of device memory, the lengths of the queues that the spec
bounds, and the rules of the test port. -/

namespace Sys2Proof

open Machine

/-- The test port drives or floats pins only while PERST# is asserted, and holds a token only then and only where
DEBUG_DISABLE is clear (R412). -/
def portSafe (s : State) : Prop :=
  (s.test.driven = true → s.perst = true) ∧ (s.test.floating = true → s.perst = true)
    ∧ (s.test.token = true → s.perst = true ∧ s.part.debugDisable = false)

/-- The invariant of every step: device memory in its canonical form (R225), at most 32 queued sensor events (R411), at most two
SPDM connections (R405), at most four queued steps (R331), and the test port's rules (R412). -/
structure Inv (s : State) : Prop where
  mem : Memory.wf s.mem
  events : s.sensorQ.length ≤ 32
  connections : s.mgt.spdm.length ≤ 2
  steps : s.queue.length ≤ 4
  port : portSafe s

/-- A run is safe while the device is not in the fail-safe state (R420). -/
def safe (s : State) : Prop := s.fatalSet = false

/-! ### What a change may reach: the frames that statements use -/

/-- Registers that a report to the host changes by itself: HEAD and the status of the event ring (R73, R74), the pending bits of
the 64 MSI-X vectors (R323). -/
def reportReg (a : Nat) : Bool := [0x00004C, 0x000054, 0x029000, 0x029004].contains a

/-- Registers that the completion of a ring command changes besides: HST_RINGS_LO and _HI, HST_CMDS (R323), and HST_HOST_ERR
where host memory fails (R346). -/
def replyReg (a : Nat) : Bool := reportReg a || [0x020024, 0x020028, 0x020040, 0x020044].contains a

/-- Offsets, within each block window, of the registers that follow from the control of steps, commands, the grid, power and
faults: status words, interrupt latches of the fatal class, the counters of snags and of commands, and the freeze counters of the
passes that a stop abandons, with those of the arrays' counter sets. -/
def controlOff : Blk → Nat → Bool
  | .dev, o => [0x20, 0x4C, 0x54].contains o
  | .grid, o => [0x0, 0x40, 0x50].contains o
  | .hst, o => [0x0, 0x24, 0x28, 0x40, 0x44, 0x9000, 0x9004].contains o
  | .pwr, o => [0x0, 0x4, 0x2C, 0x30, 0x3C].contains o
  | .mgt, o => [0x0, 0xC].contains o
  | .prk d, o => decide (d < 6) && o == 0
  | .arr a, o => decide (a < 8) && [0x0, 0x8, 0x10, 0x14, 0x18].contains o
  | .vec h, o => decide (h < 4) && [0x100, 0x104].contains o
  | .xpb h, o => decide (h < 4) && [0x0, 0x40].contains o
  | .bob d, o => decide (d < 6) && (o == 0x800 || (decide (o < 0x800) && o % 0x40 == 0))
  | .red k, o => decide (k < 2) && [0x0, 0x30].contains o
  | .upd k, o => decide (k < 2) && o == 0
  | .pmu d, o => decide (d < 4) && (decide (0x1008 ≤ o ∧ o < 0x1048) || decide (0x1108 ≤ o ∧ o < 0x1148))
  | .irq d, o => decide (d < 6) && [0x0, 0x4, 0x8, 0xC, 0x10].contains o
  | _, _ => false

/-- A register that such control may change. -/
def ControlReg (a : Nat) : Prop := ∃ b o, a = Blk.base b + o ∧ controlOff b o = true

/-- The registers that hold the fields of a list. -/
def regsOf (l : List (Blk × Fld)) (a : Nat) : Bool := l.any fun x => a == x.1.base + x.2.off

/-- From `s` to `t` nothing changes but the registers that `R` names. -/
structure OnlyRegs (R : Nat → Bool) (s t : State) : Prop where
  regs : ∀ a, R a = false → t.rd a = s.rd a
  rest : t = { s with regs := t.regs }

/-- Nothing changes but the registers that `R` names and what a report brings: an event entry, an interrupt line, a message. -/
structure OnlyReports (R : Nat → Bool) (s t : State) : Prop where
  regs : ∀ a, R a = false → reportReg a = false → t.rd a = s.rd a
  rest : t = { s with
    regs := t.regs, lines := t.lines, evtPhase := t.evtPhase, evtOwed := t.evtOwed, msixLast := t.msixLast
    msixHeld := t.msixHeld, out := t.out }

/-- Nothing changes but the registers that `R` names, the rings and commands in progress, and what a report brings. -/
structure OnlyReplies (R : Nat → Bool) (s t : State) : Prop where
  regs : ∀ a, R a = false → replyReg a = false → t.rd a = s.rd a
  rest : t = { s with
    regs := t.regs, lines := t.lines, evtPhase := t.evtPhase, evtOwed := t.evtOwed, msixLast := t.msixLast
    msixHeld := t.msixHeld, out := t.out, rings := t.rings, cmds := t.cmds }

/-- Nothing changes but what the control of steps, commands, the grid, power and faults may change: device memory, the page
map, the scale table, every latched value and every register outside `ControlReg` stay. -/
structure OnlyControl (s t : State) : Prop where
  regs : ∀ a, ¬ControlReg a → t.rd a = s.rd a
  rest : t = { s with
    regs := t.regs, tlb := t.tlb, tlbBad := t.tlbBad, removals := t.removals, removed := t.removed
    restores := t.restores, arms := t.arms, ports := t.ports, links := t.links, grid := t.grid
    evtPhase := t.evtPhase, evtOwed := t.evtOwed, msixLast := t.msixLast, msixHeld := t.msixHeld, rings := t.rings
    cmds := t.cmds, queue := t.queue, run := t.run, save := t.save, nextStep := t.nextStep, admitting := t.admitting
    img := t.img, suspOwner := t.suspOwner, lastRun := t.lastRun, suspendNext := t.suspendNext, faultOs := t.faultOs
    pinFault := t.pinFault, sensorQ := t.sensorQ, arrays := t.arrays, xpbs := t.xpbs, units := t.units
    stepStat := t.stepStat, lines := t.lines, cycAcc := t.cycAcc, cycFrom := t.cycFrom, pwr := t.pwr, mgt := t.mgt
    fresh := t.fresh, out := t.out }

/-- The registers of some block windows. -/
def windows (l : List Blk) (a : Nat) : Bool := l.any fun b => decide (b.base ≤ a) && decide (a < b.base + 0x10000)

/-- As `OnlyControl`, and the registers that `R` names may change too. -/
structure ControlAnd (R : Nat → Bool) (s t : State) : Prop where
  regs : ∀ a, R a = false → ¬ControlReg a → t.rd a = s.rd a
  rest : OnlyControl s { t with regs := s.regs }

/-- Registers that follow local time: the counters of the counter blocks and of throttled stacks (R249, R434 to R437). -/
def clocked (a : Nat) : Bool := windows ((List.range 6).map .pmu ++ (List.range 24).map .hbm) a

/-- `s` at the local time of `t`, with what the counters of time keep and the free values that they draw (R29, R435, R438). -/
def movedTo (s t : State) : State :=
  { s with grid := { s.grid with time := t.grid.time }, cycAcc := t.cycAcc, cycFrom := t.cycFrom, edges := t.edges, fresh := t.fresh }

/-- The status registers of the 18 ports. -/
def portStatus (a : Nat) : Bool := regsOf ((List.range 18).map fun p => (.nir p, F.NIR_STATUS_STATE)) a

/-! ### What reaches the host -/

/-- Where a report of event `e` finds space in the event ring, its entry (R425) has been written at HEAD in `t`. -/
def Logged (s : State) (e : Event) (t : State) : Prop :=
  s.hostUp = true → s.evtEntries ≠ 0 → s.evtFull = false → s.evtOwed = false →
    Out.hostWrite (s.g2 .dev F.DEV_EVT_BASE_LO_BASE_LO F.DEV_EVT_BASE_HI_BASE_HI + 32 * s.g .dev F.DEV_EVT_HEAD_HEAD)
      (eventBytes s.evtPhase s.grid.time s.knotNow e) ∈ t.out

/-- Where the ring of command `c` takes a completion at once, its entry (R323) has been written at the CQ tail in `t`. -/
def Posted (s : State) (c : Cmd) (status result : Nat) (t : State) : Prop :=
  ∀ r, s.ring c.ring = some r → r.stopped = false → r.full = false → r.deferred = [] → c.silent = false → s.hostUp = true →
    Out.hostWrite (r.cqBase + 16 * r.cqTail) (completionBytes r.phase ⟨result, c.sqHead, c.cid, status⟩) ∈ t.out

/-- Command `c`, in progress in `s`, has ended with a code and a result: it is gone, counted in HST_CMDS, and its completion posted
where its ring takes one (R323). -/
structure Ended (s : State) (c : Cmd) (status result : Nat) (t : State) : Prop where
  gone : c ∉ t.cmds
  counted : s.g .hst F.HST_CMDS_COUNT + 1 < 2 ^ F.HST_CMDS_COUNT.w → s.g .hst F.HST_CMDS_COUNT < t.g .hst F.HST_CMDS_COUNT
  posted : Posted s c status result t

/-- The ring commands that a device in the fail-safe state refuses, with their opcodes (R324, R421). -/
def refusable (ring : RingId) (e : Sqe) (data : HostRead) : List (Nat × Instr) :=
  [(0x02, .ringCreate ring e), (0x03, .ringDelete ring e), (0x10, .map ring e data), (0x11, .unmap ring e),
   (0x13, .memWrite ring e data), (0x20, .trainPorts ring e), (0x21, .gridJoin ring e), (0x22, .gridLeave ring e),
   (0x30, .admitPricking ring e), (0x31, .startStep ring e data), (0x32, .abortStep ring e), (0x33, .preempt ring e),
   (0x34, .resume ring e), (0x40, .setPowerCap ring e)]

/-! ### A port that goes down -/

/-- Port `p` has gone to state `st` for reason `why` (R275): its status, its record in NIR_DOWN, its event and its interrupt line; no
register changes but the port's and those of `ControlReg`. -/
structure WentDown (s : State) (p why ln st : Nat) (t : State) : Prop where
  state : t.g (.nir p) F.NIR_STATUS_STATE = st
  ver : t.g (.nir p) F.NIR_STATUS_VER = 0
  lock : t.g (.nir p) F.NIR_STATUS_LANE_LOCK = 0
  fault : t.g (.nir p) F.NIR_STATUS_PEER_FAULT = 0
  foreign : t.g (.nir p) F.NIR_STATUS_FOREIGN = 0
  reason : t.g (.nir p) F.NIR_DOWN_REASON = why
  lane : t.g (.nir p) F.NIR_DOWN_LANE = ln
  count : t.g (.nir p) F.NIR_DOWN_COUNT = min (s.g (.nir p) F.NIR_DOWN_COUNT + 1) (2 ^ F.NIR_DOWN_COUNT.w - 1)
  line : (portDie p * 256 + (112 + portIdx p)) ∈ t.lines
  event : Logged s ⟨0x40, 0, (Blk.nir p).die, (Blk.nir p).index, p, why, ln⟩ t
  frame : ControlAnd (windows [.nir p]) s t

/-! ### A fatal source -/

/-- A fatal source on a die (R420 to R424): each die whose IRQ_FATAL is free records it, the others count it; the first one takes
the device into the fail-safe state, with its FATAL event, FAULT# low, nothing running, queued or in progress, and FREE. -/
structure WentFatal (s : State) (die code detail : Nat) (t : State) : Prop where
  fatal : t.fatalSet = true
  noted : ∀ d : Die, s.gb (.irq d.val) F.IRQ_FATAL_VALID = false → t.gb (.irq d.val) F.IRQ_FATAL_VALID = true
    ∧ t.g (.irq d.val) F.IRQ_FATAL_CODE = code ∧ t.g (.irq d.val) F.IRQ_FATAL_ORIGIN = die
    ∧ t.g (.irq d.val) F.IRQ_FATAL_DETAIL_DETAIL = detail ∧ (d.val * 256 + 2) ∈ t.lines
  more : ∀ d : Die, s.gb (.irq d.val) F.IRQ_FATAL_VALID = true → t.g (.irq d.val) F.IRQ_FATAL_CODE = s.g (.irq d.val) F.IRQ_FATAL_CODE
    ∧ t.g (.irq d.val) F.IRQ_FATAL_MORE = min (s.g (.irq d.val) F.IRQ_FATAL_MORE + 1) 15
  first : s.fatalSet = false → t.pinFault = true ∧ t.run = none ∧ t.queue = [] ∧ t.cmds = [] ∧ t.lockState = 0
  logged : s.fatalSet = false → stopsHost code detail = false → Logged s ⟨0xF0, 3, die, 0, die, code, detail⟩ t
  frame : OnlyControl s t

/-! ### The units at work -/

/-- Nothing changes but the registers that `R` names, the counters that follow, device memory, and what the units hold of the
running step: its slots, transfers, passes, tiles and sample records. -/
structure Worked (R : Nat → Bool) (s t : State) : Prop where
  regs : ∀ a, R a = false → clocked a = false → t.rd a = s.rd a
  slots : ∃ l, t.run = s.run.map fun r => { r with slots := l }
  rest : t = { s with
    regs := t.regs, mem := t.mem, lines := t.lines, run := t.run, arms := t.arms, links := t.links, arrays := t.arrays
    xpbs := t.xpbs, units := t.units, samplers := t.samplers }

/-- Slot i of a die is complete in the running step. -/
def SlotDone (t : State) (die i : Nat) : Prop := ∃ r, t.run = some r ∧ r.slotDone die i = true

/-- A contained error of a unit (R417): a step that was live and is not over at this knot is marked for its void with the
cause, or is voided already, outside the fail-safe state. -/
def Voids (s : State) (cause : Nat) (t : State) : Prop :=
  ∀ r, s.liveRun = some r → s.fatalSet = false → knotDiff r.first s.grid.knot < knotDiff r.first r.endKnot →
    cause ∈ t.grid.voidCauses ∨ t.liveRun = none

/-- An error of an array (R133 to R135): its code, slot and knot in ARR_ERR, its line and event, every pass inside abandoned;
code 8 is fatal, the others are contained. -/
structure ArrayFailed (s : State) (a code slot : Nat) (t : State) : Prop where
  shown : t.g (.arr a) F.ARR_ERR_CODE = code
  named : t.g (.arr a) F.ARR_ERR_SLOT = slot % 2 ^ 17
  knot : t.g2 (.arr a) F.ARR_ERR_KNOT_LO_KNOT_LO F.ARR_ERR_KNOT_HI_KNOT_HI = s.knotNow % 2 ^ 48
  line : (a / 2 * 256 + (32 + a % 2)) ∈ t.lines
  event : Logged s ⟨0x30, if code = 8 then 3 else 2, (Blk.arr a).die, (Blk.arr a).index, a, code, slot⟩ t
  empty : ∀ q ∈ (t.arrU a).passes, q.begun = false
  effect : if code = 8 then t.fatalSet = true else Voids s 5 t
  frame : ControlAnd (windows [.arr a]) s t

end Sys2Proof
end

