-- ==== Sys2Proof/Certificates/Slice0/Obligations.lean ====
section
/-! DEFINITION. Statements for the provers. -/
open Sys2Proof Sys2Proof.Machine

/-! ### The block as a whole -/

/-- A step takes the command at the front of the queue and runs it on the state with the queue's rest. With an empty queue it is a
tick of the device's own clock, by this model's choice (log entry 3, DESIGN CHOICE): nothing while the power controller does not run, else
local time moves on and only the counters that follow it, with what they keep and the free values they draw, and messages that
waited, change. -/
def Obligations.StepRunsFront : Prop :=
  (∀ (c : Instr) (r : List Instr) (s : State), step { s with pending := c :: r } = exec c { s with pending := r })
  ∧ ∀ s : State, s.pending = [] → (s.pwrRuns = false → step s = .next s)
    ∧ (s.pwrRuns = true → timeBefore s.grid.time ((s.grid.time + s.tickLength) % 2 ^ 64) = true →
      ∃ t, step s = .next t ∧ t.grid.time = (s.grid.time + s.tickLength) % 2 ^ 64
        ∧ OnlyReports clocked (movedTo s t) t)

/-- The state after reset meets the invariant that InvKept keeps (R225, R331, R405, R411, R412). -/
def Obligations.InvAtReset : Prop :=
  Inv State.reset

/-- Every step of every state answers a next state, and keeps the invariant: device memory in its canonical form, at most 32 queued
sensor events, two SPDM connections and four queued steps, and a test port that drives, floats or holds a token only as R412
allows. No step lowers the minimum security version, changes the fused serial number and debug fuse, or takes back what has left
the device (R225, R331, R401, R405, R411, R412). -/
def Obligations.InvKept : Prop :=
  ∀ s : State, ∃ t, step s = .next t ∧ (Inv s → Inv t) ∧ s.part.minSvn ≤ t.part.minSvn ∧ t.part.serial = s.part.serial
    ∧ t.part.debugDisable = s.part.debugDisable ∧ s.out <:+ t.out

/-- After reset every block shows the reset values of its table, of which these are the ones that are not zero, the pacing registers
and some that are; no shadow differs from its reset value, and PEND, DIRTY and REJECTED are clear in every block (R76). -/
def Obligations.ResetValues : Prop :=
  let r := State.reset
  r.shadows = [] ∧ r.snaps = [] ∧ r.cmds = [] ∧ r.rings = [] ∧ r.pending = []
  ∧ (∀ x ∈ [(Blk.dev, 0x0, 0x4824), (.dev, 0x4, 0x141), (.dev, 0x8, 0x02020003), (.dev, 0x20, 0), (.hst, 0x4, 0x2),
      (.hst, 0x0, 0), (.grid, 0x0, 0x1F0000), (.grid, 0x8, 50000), (.pwr, 0x8, 3400), (.pwr, 0xC, 3400), (.pwr, 0x10, 0x121E),
      (.pwr, 0x14, 600), (.pwr, 0x18, 0x36E64), (.pwr, 0x1C, 0x5A28), (.sec, 0x0, 0), (.mgt, 0x0, 0)],
      r.rd (x.1.base + x.2.1) = BitVec.ofNat 32 x.2.2)
  ∧ (∀ d : Die, r.rd ((Blk.prk d.val).base + 0x0) = 0 ∧ r.rd ((Blk.irq d.val).base + 0x100) = 0xFFFFFFFF
      ∧ r.rd ((Blk.irq d.val).base + 0x400) = 0x40000 ∧ r.rd ((Blk.bob d.val).base + 0x4) = 0xFFFFFF
      ∧ r.g (.irq d.val) F.IRQ_FATAL_VALID = 0)
  ∧ (∀ a : ArrayId, r.rd ((Blk.arr a.val).base + 0x0) = 0x100008 ∧ r.rd ((Blk.arr a.val).base + 0x4) = 0x4000)
  ∧ (∀ h : Hoop, r.rd ((Blk.vec h.val).base + 0x4) = 0x110 ∧ r.rd ((Blk.vec h.val).base + 0x4000) = 0x3F800000
      ∧ r.rd ((Blk.pmu h.val).base + 0x4) = 0xFF00 ∧ r.rd ((Blk.pmu h.val).base + 0x8) = 0x800)
  ∧ (∀ m : Stack, r.rd ((Blk.hbm m.val).base + 0x4) = 0x35F55 ∧ r.rd ((Blk.hbm m.val).base + 0x8) = 0x80C)
  ∧ (∀ p : Port, r.rd ((Blk.nir p.val).base + 0x0) = 1 ∧ r.rd ((Blk.nir p.val).base + 0x4) = 0x401023)
  ∧ (∀ k : Shuttle, ∀ o ∈ [0x20, 0x24, 0x28, 0x2C], r.rd ((Blk.upd k.val).base + o) = 0x3F800000)
  ∧ r.rd ((Blk.prk 4).base + 0x100) = 0x100 ∧ r.rd ((Blk.prk 4).base + 0x108) = 0x1FFFF ∧ r.rd ((Blk.irq 4).base + 0x800) = 0x3F
  ∧ ∀ b ∈ [Blk.dev, .grid, .hst, .pwr, .sec, .mgt], r.g b F.CFG_STATUS_PEND = 0 ∧ r.g b F.CFG_REJECT_REJECTED = 0 ∧ r.dirty b = false

/-! ### Registers, windows and the event ring -/

/-- An aligned 32-bit host write that the device takes changes the RW bits of the register at once and the RWK bits of its shadow,
and nothing else; an 8-byte one is two, lower address first. A narrow or unaligned one, one that the basic level may not make
and one of an extension outside its windows are only recorded, with codes 1, 2 and 3; in the fail-safe state every aligned write but
the event tail's and the MSI-X table's is ignored (R12, R64, R65, R329, R399, R421). -/
def Obligations.RegisterWrites : Prop :=
  ∀ (s : State) (addr : BitVec 26) (value : BitVec 64), s.hostUp = true →
    let a := addr.toNat
    let v : Word := BitVec.ofNat 32 (value.toNat % 2 ^ 32)
    let rw := BitVec.ofNat 32 (rwMask a)
    let rwk := BitVec.ofNat 32 (rwkMask a)
    (s.ready = true → s.fatalSet = false → a % 4 = 0 → regExists a = true → inMsixTable a = false →
      s.expert = true ∨ basicWritable a = true → a % 0x10000 ≠ F.CFG_APPLY_GO.off →
      blkAt a ∈ [some .grid, some .hst, some .pwr] ++ (List.range 24).map (fun m => some (Blk.hbm m))
        ++ (List.range 8).map (fun n => some (Blk.arr n)) ++ (List.range 4).map (fun h => some (Blk.vec h)) →
      ∃ t, exec (.registerWrite false addr .b4 value) s = .next t ∧ t.rd a = (s.rd a &&& ~~~rw) ||| (v &&& rw)
        ∧ t.shadow a = (s.shadow a &&& ~~~rwk) ||| (v &&& rwk) ∧ (∀ b, b ≠ a → t.rd b = s.rd b ∧ t.shadow b = s.shadow b)
        ∧ t = { s with regs := t.regs, shadows := t.shadows })
    ∧ (∀ w : Width, s.ready = true → w = .b1 ∨ w = .b2 ∨ a % 4 ≠ 0 →
      ∃ t, exec (.registerWrite false addr w value) s = .next t
        ∧ Logged s ⟨3, 0, ((blkAt a).getD .dev).die, ((blkAt a).getD .dev).index, 0, 1, a⟩ t ∧ OnlyReports (fun _ => false) s t)
    ∧ (s.ready = true → s.fatalSet = false → s.expert = false → a % 4 = 0 → regExists a = true → basicWritable a = false →
      ∃ t, exec (.registerWrite false addr .b4 value) s = .next t
        ∧ Logged s ⟨3, 0, ((blkAt a).getD .dev).die, ((blkAt a).getD .dev).index, 0, 2, a⟩ t ∧ OnlyReports (fun _ => false) s t)
    ∧ (s.fatalSet = false → s.g .sec F.SEC_BOOT_STATUS_EXT_STATE = 1 → a % 4 = 0 → regExists a = true → extForbidden a = true →
      ∃ t, exec (.registerWrite true addr .b4 value) s = .next t
        ∧ Logged s ⟨3, 0, ((blkAt a).getD .dev).die, ((blkAt a).getD .dev).index, 0, 3, a⟩ t ∧ OnlyReports (fun _ => false) s t)
    ∧ (s.fatalSet = true → a % 4 = 0 → a ≠ Blk.dev.base + F.DEV_EVT_TAIL_TAIL.off → inMsixTable a = false →
      exec (.registerWrite false addr .b4 value) s = .next s)
    ∧ ∀ u t, a % 4 = 0 → exec (.registerWrite false addr .b4 value) s = .next u →
        exec (.registerWrite false (addr + 4) .b4 (value >>> 32)) u = .next t → exec (.registerWrite false addr .b8 value) s = .next t

/-- A 32-bit read returns the register and changes nothing; the low half of a 64-bit value latches its high half, which the next
read of the high half returns and uses up; until READY the die windows read 0 (R59, R64, R393). -/
def Obligations.RegisterReads : Prop :=
  ∀ (s : State) (addr : BitVec 26), s.hostUp = true → addr.toNat % 4 = 0 → inMsixTable addr.toNat = false →
    let a := addr.toNat
    (∀ b, s.ready = true → regExists a = true → tget 0 s.latch a = 0 → blkAt a = some b → (∀ d, b ≠ .bob d) → s.pairNow b (a % 0x10000) 0 = none →
      s.oneNow b (a % 0x10000) = none → (4 ≤ a % 0x10000 → s.pairNow b (a % 0x10000 - 4) 0 = none) →
      ∃ t, exec (.registerReadLatch addr 4) s = .next t ∧ t = { s with out := .readData a (s.rd a).toNat :: s.out })
    ∧ (∀ b v, s.ready = true → regExists a = true → tget 0 s.latch a = 0 → blkAt a = some b → (∀ d, b ≠ .bob d) → s.pairNow b (a % 0x10000) 0 = some v →
      ∃ t, exec (.registerReadLatch addr 4) s = .next t ∧ tget 0 t.latch (a + 4) = v / 2 ^ 32 % 2 ^ 32 + 1
        ∧ t = { s with out := .readData a (v % 2 ^ 32) :: s.out, latch := t.latch })
    ∧ (∀ b v, s.ready = true → regExists a = true → tget 0 s.latch a = v + 1 → v < 2 ^ 32 → blkAt a = some b → (∀ d, b ≠ .bob d) →
      ∃ t, exec (.registerReadLatch addr 4) s = .next t ∧ tget 0 t.latch a = 0
        ∧ t = { s with out := .readData a v :: s.out, latch := t.latch })
    ∧ (s.ready = false → 0x800000 ≤ a → (∀ d, blkAt a ≠ some (.bob d)) →
      ∃ t, exec (.registerReadLatch addr 4) s = .next t ∧ t = { s with out := .readData a 0 :: s.out })

/-- A read where no register lies returns 0 and a write there is ignored, and neither is reported as an error (R63). -/
def Obligations.UndefinedOffsets : Prop :=
  ∀ (s : State) (addr : BitVec 26), s.hostUp = true → regExists (addr.toNat - addr.toNat % 4) = false →
    (∀ n : BitVec 8, n = 1 ∨ n = 2 ∨ n = 4 → addr.toNat % n.toNat = 0 → ∃ t, exec (.registerReadLatch addr n) s = .next t
      ∧ t = { s with out := .readData addr.toNat 0 :: s.out, fresh := t.fresh })
    ∧ ∀ v : BitVec 64, addr.toNat % 4 = 0 → exec (.registerWrite false addr .b4 v) s = .next s

/-- The host frees event entries by the tail, where the index lies in the ring; an entry whose write failed is taken back and
counted as dropped, with HST_HOST_ERR code 6. GO takes a snapshot of the block's shadows and sets PEND; a request for a
device-wide mode change is pending; it is refused, and changes nothing but REFUSED, where its target is not at least two knots off, a
step that runs or waits holds the target, one is pending already, or its mode is reserved (R14, R66, R67, R71, R74, R77). -/
def Obligations.EventRingAndRequests : Prop :=
  (∀ (s : State) (v : Word), s.hostUp = true → s.ready = true ∨ s.fatalSet = true →
    (v.toNat % 2 ^ 16 < s.evtEntries → ∃ t, exec (.evtTailWrite v) s = .next t
      ∧ t.g .dev F.DEV_EVT_TAIL_TAIL = v.toNat % 2 ^ 16 ∧ OnlyReports (regsOf [(.dev, F.DEV_EVT_TAIL_TAIL)]) s t)
    ∧ (s.evtEntries ≤ v.toNat % 2 ^ 16 → exec (.evtTailWrite v) s = .next s))
  ∧ (∀ s : State, 0 < s.evtEntries → s.evtEntries ≤ 2 ^ 16 → s.g .dev F.DEV_EVT_HEAD_HEAD ≠ s.g .dev F.DEV_EVT_TAIL_TAIL →
    ∃ t, exec .eventWriteFail s = .next t
      ∧ t.g .dev F.DEV_EVT_HEAD_HEAD = (s.g .dev F.DEV_EVT_HEAD_HEAD + s.evtEntries - 1) % s.evtEntries
      ∧ t.g .dev F.DEV_EVT_STATUS_DROPPED = min (s.g .dev F.DEV_EVT_STATUS_DROPPED + 1) (2 ^ 16 - 1) ∧ t.evtOwed = true
      ∧ t.g .hst F.HST_HOST_ERR_CODE = 6 ∧ t.g .hst F.HST_HOST_ERR_RING = 0 ∧ t.g .hst F.HST_HOST_ERR_VALID = 1
      ∧ (4 * 256 + 162) ∈ t.lines ∧ OnlyReplies (fun _ => false) s t)
  ∧ (∀ (s : State) (n : BitVec 10) (b : Blk), s.hostUp = true → s.ready = true → s.fatalSet = false → s.expert = true →
    blkAt (n.toNat * 0x10000) = some b → regExists (b.base + F.CFG_APPLY_GO.off) = true →
    ∃ t, exec (.cfgApplyGo n) s = .next t ∧ t.gb b F.CFG_STATUS_PEND = true
      ∧ (∃ snap, (b.base, s.grid.time, snap) ∈ t.snaps ∧ (∀ x, x ∈ snap ↔ x ∈ s.shadows ∧ b.base ≤ x.1 ∧ x.1 < b.base + 0xFF00)
          ∧ ∀ x ∈ t.snaps, x.1 = b.base → x = (b.base, s.grid.time, snap))
      ∧ (∀ x, x.1 ≠ b.base → (x ∈ t.snaps ↔ x ∈ s.snaps))
      ∧ OnlyRegs (regsOf [(b, F.CFG_STATUS_PEND)]) { s with snaps := t.snaps } t)
  ∧ (∀ (s : State) (v : Word), s.hostUp = true → s.ready = true → s.fatalSet = false → v.toNat / 2 ^ 31 = 1 →
    let target := s.g2 .dev F.DEV_MODE_TGT_LO_KNOT_LO F.DEV_MODE_TGT_HI_KNOT_HI
    (v.toNat % 16 ≤ 1 → s.gb .dev F.DEV_MODE_STATE_PEND = false → (s.allSpans []).any (runsThrough target) = false →
      knotBefore ((s.grid.knot + 1) % 2 ^ 48) target = true →
      ∃ t, exec (.modeRequest v) s = .next t ∧ t.g .dev F.DEV_MODE_REQ_MODE = v.toNat % 16
        ∧ t.g .dev F.DEV_MODE_REQ_EXPERT = v.toNat / 16 % 2 ∧ t.gb .dev F.DEV_MODE_STATE_PEND = true ∧ t.gb .dev F.DEV_MODE_STATE_REFUSED = false
        ∧ t.modeReq = some (v.toNat % 16, v.toNat / 16 % 2 == 1, target)
        ∧ t.g .dev F.DEV_MODE_STATE_CUR_MODE = s.g .dev F.DEV_MODE_STATE_CUR_MODE
        ∧ OnlyRegs (regsOf [(.dev, F.DEV_MODE_REQ_MODE), (.dev, F.DEV_MODE_STATE_PEND)]) { s with modeReq := t.modeReq } t)
    ∧ (s.gb .dev F.DEV_MODE_STATE_PEND = true ∨ knotBefore ((s.grid.knot + 1) % 2 ^ 48) target = false
        ∨ (s.allSpans []).any (runsThrough target) = true ∨ 1 < v.toNat % 16 →
      ∃ t, exec (.modeRequest v) s = .next t ∧ t.gb .dev F.DEV_MODE_STATE_REFUSED = true
        ∧ (∀ f ∈ [F.DEV_MODE_STATE_CUR_MODE, F.DEV_MODE_STATE_CUR_EXPERT, F.DEV_MODE_STATE_PEND], t.g .dev f = s.g .dev f)
        ∧ OnlyRegs (regsOf [(.dev, F.DEV_MODE_STATE_PEND)]) s t))

/-- An apply is whole or nothing: where a field fails its check, every register of the block but CFG_REJECT and CFG_STATUS keeps its
value, and the rule and the lowest failing offset are shown and logged (R68). A byte with an RW or RWK bit whose parity fails, in the
scrub or at a read, is fatal, code 1, with its die and block; a good scrub changes nothing (R75). -/
def Obligations.AppliesAndScrub : Prop :=
  (∀ (s : State) (b : Blk) (snap : Table Word) (off rule : Nat), off < 2 ^ 16 → rule < 2 ^ 8 →
    lowestFail (cfgFails s b (cfgKeys s b snap) fun o => cfgWord s snap (b.base + o)) = some (off, rule) →
    (s.applyBlock b snap).gb b F.CFG_REJECT_REJECTED = true ∧ (s.applyBlock b snap).g b F.CFG_REJECT_RULE = rule
    ∧ (s.applyBlock b snap).g b F.CFG_REJECT_FIRST_OFFSET = off ∧ (s.applyBlock b snap).gb b F.CFG_STATUS_PEND = false
    ∧ Logged s ⟨2, 0, b.die, b.index, 0, rule, 1 + off * 2 ^ 16⟩ (s.applyBlock b snap)
    ∧ OnlyReports (regsOf [(b, F.CFG_REJECT_REJECTED), (b, F.CFG_STATUS_PEND)]) s (s.applyBlock b snap))
  ∧ (∀ s : State, exec (.configScrub none) s = .next s)
  ∧ ∀ (s : State) (a : BitVec 26) (b : Blk), s.pwrRuns = true → blkAt a.toNat = some b → parityByte a.toNat = true →
    ∃ t, exec (.configScrub (some a)) s = .next t ∧ WentFatal s b.irqDie 1 (b.die + b.index * 256) t

/-! ### Host rings and host commands -/

/-- A ring that runs no command starts the oldest entry that a sweep has fetched, and counts it off its queue; the master tells its
agents. In the fail-safe state every command but IDENTIFY and MEM_READ completes with FATAL, with a non-zero reserved word with
RESERVED, which ADMIT and START_STEP show in PRK_REJECT, and under an opcode that neither R324 nor the running extension defines
with INVALID_OPCODE; none of these changes anything else. An opcode of the extension completes too, with a code of R327 or one
from 0x80 on, and a result, that the spec leaves to it (R17, R104, R111, R324, R325, R327, R399, R421). -/
def Obligations.RingCommandsBegin : Prop :=
  (∀ (s : State) (ring : RingId) (op : Nat) (e : Sqe) (r : Ring) (at_ : Nat) (l : List Nat), s.ring ring.val = some r →
    r.sqN ≠ 0 → r.fetched = at_ :: l → s.ready = true ∨ s.fatalSet = true →
    (∀ c ∈ s.cmds, c.ring = ring.val → c.silent = true) →
    ∃ s1 c, s.beginCmd ring.val op e = some (s1, c)
      ∧ c = { ring := ring.val, opcode := op, cid := e.cid.toNat, sqHead := (r.started + 1) % r.sqN
              startAt := if r.doneAt.any (timeBefore at_) then r.doneAt.getD at_ else at_ }
      ∧ s1.cmds = s.cmds ++ [c] ∧ s1.ring ring.val = some { r with started := (r.started + 1) % r.sqN, fetched := l }
      ∧ (s.fatalSet = false → ∀ d ∈ agentDies, d * 256 + 5 ∈ s1.lines) ∧ OnlyReplies (fun _ => false) s s1)
  ∧ (∀ (s s1 : State) (ring : RingId) (e : Sqe) (data : HostRead) (x : Nat × Instr) (c : Cmd), x ∈ refusable ring e data →
    s.beginCmd ring.val x.1 e = some (s1, c) →
    (s.fatalSet = true → ∃ t, exec x.2 s = .next t ∧ Ended s1 c Code.fatal 0 t ∧ OnlyReplies (fun _ => false) s1 t)
    ∧ (s.fatalSet = false → e.rsv ≠ 0 →
        ∃ t, exec x.2 s = .next t ∧ Ended s1 c Code.reserved 0 t
          ∧ (x.1 = 0x30 ∨ x.1 = 0x31 → t.g (.prk 4) F.PRK_REJECT_CODE = Code.reserved)
          ∧ OnlyReplies (fun a => (x.1 == 0x30 || x.1 == 0x31) && windows [.prk 4] a) s1 t))
  ∧ (∀ (s : State) (ring : RingId) (e : Sqe) (data : HostRead) (x : Nat × Instr), x ∈ refusable ring e data →
    s.beginCmd ring.val x.1 e = none → exec x.2 s = .next s)
  ∧ ∀ (s s1 : State) (ring : RingId) (op : BitVec 8) (e : Sqe) (c : Cmd), definedOpcodes.contains op.toNat = false →
    s.beginCmd ring.val op.toNat e = some (s1, c) → s.fatalSet = false →
    (s.extHas op.toNat = false → ∃ t, exec (.reservedOpcode ring op e) s = .next t ∧ Ended s1 c Code.invalidOpcode 0 t
      ∧ OnlyReplies (fun _ => false) s1 t)
    ∧ (s.extHas op.toNat = true → e.rsv = 0 → ∃ t, ∃ status result : Nat, exec (.extensionCommand ring op e) s = .next t
      ∧ status ∈ extCodes ∧ Ended s1 c status result t ∧ OnlyReplies (fun _ => false) { s1 with fresh := t.fresh } t)

/-- IDENTIFY writes its page to the address it names, or ends with ADDRESS and the error in HST_HOST_ERR; RING_CREATE makes the ring
it describes, where it names a free one of 1 to 63 within bounds, and RING_DELETE ends one that holds no START_STEP, ADMIT
or PREEMPT; a ring that deletes itself ends without a completion (R326, R328, R330, R346). -/
def Obligations.RingsManaged : Prop :=
  ∀ (s s1 : State) (ring : RingId) (e : Sqe) (c : Cmd), e.rsv = 0 →
    (s.beginCmd ring.val 0x01 e = some (s1, c) → e.plain 16 = true → e.field 8 8 % 4096 = 0 → s.hostUp = true →
      (∃ t, exec (.identify ring e none) s = .next t ∧ .hostWrite (e.field 8 8) s1.identifyPage ∈ t.out
        ∧ Ended s1 c Code.success 0 t ∧ OnlyReplies (fun _ => false) s1 t)
      ∧ ∀ err : HostErr, ∃ t, exec (.identify ring e (some err)) s = .next t ∧ t.g .hst F.HST_HOST_ERR_CODE = hostErrCode err
        ∧ t.g .hst F.HST_HOST_ERR_RING = ring.val ∧ t.g .hst F.HST_HOST_ERR_VALID = 1 ∧ Ended s1 c Code.address 0 t
        ∧ OnlyReplies (fun _ => false) s1 t)
    ∧ (s.beginCmd ring.val 0x02 e = some (s1, c) → s.fatalSet = false → e.plain 32 = true → e.zero 14 16 = true →
      1 ≤ e.field 8 1 → e.field 8 1 ≤ 63 → e.field 9 1 ≤ 63 → ringSizeOk (e.field 10 2) = true → ringSizeOk (e.field 12 2) = true →
      e.field 16 8 % 4096 = 0 → e.field 24 8 % 4096 = 0 →
      (s1.ring (e.field 8 1) = none → ∃ t, exec (.ringCreate ring e) s = .next t
        ∧ t.ring (e.field 8 1) = some { vector := e.field 9 1, sqN := e.field 10 2, cqN := e.field 12 2, sqBase := e.field 16 8
                                        cqBase := e.field 24 8 }
        ∧ Ended s1 c Code.success 0 t ∧ OnlyReplies (fun _ => false) s1 t)
      ∧ (s1.ring (e.field 8 1) ≠ none → ∃ t, exec (.ringCreate ring e) s = .next t ∧ Ended s1 c Code.state 0 t
        ∧ OnlyReplies (fun _ => false) s1 t))
    ∧ (s.beginCmd ring.val 0x03 e = some (s1, c) → s.fatalSet = false → e.plain 9 = true → 1 ≤ e.field 8 1 → e.field 8 1 ≤ 63 →
      e.field 8 1 ≠ ring.val → s1.ring (e.field 8 1) ≠ none →
      (s1.ringHolds (e.field 8 1) = false → ∃ t, exec (.ringDelete ring e) s = .next t ∧ t.ring (e.field 8 1) = none
        ∧ Ended s1 c Code.success 0 t ∧ OnlyReplies (fun _ => false) s1 t)
      ∧ (s1.ringHolds (e.field 8 1) = true → ∃ t, exec (.ringDelete ring e) s = .next t ∧ Ended s1 c Code.busy 0 t
        ∧ OnlyReplies (fun _ => false) s1 t))
    ∧ (s.beginCmd ring.val 0x03 e = some (s1, c) → s.fatalSet = false → e.plain 9 = true → 1 ≤ e.field 8 1 →
      e.field 8 1 = ring.val → s1.ringHolds ring.val = false →
      ∃ t, exec (.ringDelete ring e) s = .next t ∧ t.ring ring.val = none ∧ c ∉ t.cmds
        ∧ t.out = s1.out ∧ OnlyReplies (fun _ => false) s1 t)

/-- The link as it trains is shown in HST_STATUS. A kick starts one sweep at a time; a sweep takes each ring's completion head and
up to 64 new entries, and stops a ring whose doorbell words lie outside its queues; where its page cannot be read the error is
shown. A completion that waited is written when a place is free, and a completion write that failed stops the ring and takes the
entry back (R320 to R323, R346). -/
def Obligations.RingsSwept : Prop :=
  ∀ s : State,
    (∀ (gen : BitVec 3) (width : BitVec 5), s.supplied = true → s.perst = false → s.hostStopped = false →
      ∃ t, exec (.pcieLinkChange gen width) s = .next t
        ∧ t.g .hst F.HST_STATUS_GEN = (if linkOk gen.toNat width.toNat then gen.toNat else 0)
        ∧ t.g .hst F.HST_STATUS_WIDTH = (if linkOk gen.toNat width.toNat then width.toNat else 0)
        ∧ t.g .hst F.HST_STATUS_SUSPENDED = s.g .hst F.HST_STATUS_SUSPENDED ∧ (4 * 256 + 160) ∈ t.lines
        ∧ OnlyRegs (regsOf [(.hst, F.HST_STATUS_GEN)]) { s with lines := t.lines } t)
    ∧ (∀ v : Word, s.ready = true ∨ s.fatalSet = true → s.hostUp = true → s.gb .hst F.HST_CTRL_KICK_EN = true →
      (s.kickRun = false → ∃ t, exec (.kick 0 v) s = .next t ∧ t.kickRun = true
        ∧ t.g .hst F.HST_SWEEPS_COUNT = min (s.g .hst F.HST_SWEEPS_COUNT + 1) (2 ^ 32 - 1)
        ∧ t.g .hst F.HST_KICKS_COUNT = min (s.g .hst F.HST_KICKS_COUNT + 1) (2 ^ 32 - 1)
        ∧ OnlyRegs (fun a => regsOf [(.hst, F.HST_SWEEPS_COUNT), (.hst, F.HST_KICKS_COUNT)] a || windows [.pmu 4] a)
            { s with lines := t.lines, kickRun := true } t)
      ∧ (s.kickRun = true → ∃ t, exec (.kick 0 v) s = .next t ∧ (4 * 256 + 163) ∈ t.lines
        ∧ OnlyRegs (windows [.pmu 4]) { s with lines := t.lines } t))
    ∧ (∀ (kick : Bool) (page : List Byte), s.ready = true ∨ s.fatalSet = true → s.hostUp = true → (kick = true → s.kickRun = true) →
      ∃ t, exec (.sweepFetch kick (.ok page)) s = .next t ∧ (kick = true → t.kickRun = false)
        ∧ (∀ (i : RingId) (r : Ring), s.ring i.val = some r → r.stopped = false → leAt page (8 * i.val) 4 < r.sqN →
            leAt page (8 * i.val + 4) 4 < r.cqN →
            let n := if (r.cqTail + 1) % r.cqN = leAt page (8 * i.val + 4) 4 then 0
              else min 64 ((leAt page (8 * i.val) 4 + r.sqN - r.sqHead) % r.sqN)
            ∃ d, t.ring i.val = some { r with cqHead := leAt page (8 * i.val + 4) 4, sqHead := (r.sqHead + n) % r.sqN
                                              fetched := r.fetched ++ List.replicate n s.grid.time, doneAt := d })
        ∧ (∀ (i : RingId) (r : Ring), s.ring i.val = some r → r.stopped = false →
            r.sqN ≤ leAt page (8 * i.val) 4 ∨ r.cqN ≤ leAt page (8 * i.val + 4) 4 →
            t.ring i.val = some { r with stopped := true, deferred := [] } ∧ t.g .hst F.HST_HOST_ERR_CODE = 5)
        ∧ OnlyReplies (windows [.pmu 4]) { s with kickRun := t.kickRun } t)
    ∧ (∀ (kick : Bool) (err : HostErr), s.ready = true ∨ s.fatalSet = true → s.hostUp = true → (kick = true → s.kickRun = true) →
      ∃ t, exec (.sweepFetch kick (.fail err)) s = .next t ∧ (kick = true → t.kickRun = false)
        ∧ t.g .hst F.HST_HOST_ERR_CODE = hostErrCode err ∧ t.g .hst F.HST_HOST_ERR_RING = 0
        ∧ OnlyReplies (fun _ => false) { s with kickRun := t.kickRun } t)
    ∧ (∀ (i : RingId) (r : Ring) (c : Completion) (l : List Completion), s.ring i.val = some r → r.deferred = c :: l →
      r.stopped = false → r.full = false → s.hostUp = true → ∃ t, exec (.completionDeferredPost i) s = .next t
        ∧ .hostWrite (r.cqBase + 16 * r.cqTail) (completionBytes r.phase c) ∈ t.out
        ∧ (∃ ph, t.ring i.val = some { r with deferred := l, cqTail := (r.cqTail + 1) % r.cqN, phase := ph })
        ∧ OnlyReplies (fun _ => false) s t)
    ∧ ∀ (i : RingId) (r : Ring) (err : HostErr), s.ring i.val = some r → r.stopped = false →
      ∃ t, exec (.completionWriteFail i err) s = .next t
        ∧ (∃ ph, t.ring i.val = some { r with stopped := true, deferred := [], cqTail := (r.cqTail + r.cqN - 1) % r.cqN, phase := ph })
        ∧ t.g .hst F.HST_HOST_ERR_CODE = hostErrCode err ∧ t.g .hst F.HST_HOST_ERR_RING = i.val
        ∧ (∀ c ∈ t.cmds, c.ring = i.val → c.silent = true)
        ∧ OnlyReplies (fun _ => false) { s with queue := t.queue, run := t.run } t

/-- MAP adds its pages to the map where they agree with it, and UNMAP takes away the pages it covers where nothing pins them;
neither changes anything else. UNMAP with FORCE, an expert command, leaves the pinned pages to a knot. MEM_READ and MEM_WRITE
complete at once with no length; of a mapped, aligned range they wait for their copy; at its end a read has sent the bytes of the
range to the host, and a write has changed the bytes of the range to the host's and no other byte (R15, R248, R326, R333, R334). -/
def Obligations.PagesAndCopies : Prop :=
  (∀ (s s1 : State) (ring : RingId) (e : Sqe) (c : Cmd), e.rsv = 0 → s.fatalSet = false →
    (∀ bs : List Byte, s.beginCmd ring.val 0x10 e = some (s1, c) → e.plain 20 = true → 1 ≤ e.field 16 4 → e.field 16 4 ≤ 4096 →
      (entries 16 (bs.take (16 * e.field 16 4))).length = e.field 16 4 →
      (entries 16 (bs.take (16 * e.field 16 4))).any pageReserved = false →
      (pagesFit s1.pages ((entries 16 (bs.take (16 * e.field 16 4))).map decPage) = true →
        ∃ t, exec (.map ring e (.ok bs)) s = .next t
          ∧ t.pages = s1.pages ++ (entries 16 (bs.take (16 * e.field 16 4))).map decPage
          ∧ Ended s1 c Code.success 0 t
          ∧ OnlyReplies (fun _ => false) { s1 with pages := t.pages, restores := t.restores } t)
      ∧ (pagesFit s1.pages ((entries 16 (bs.take (16 * e.field 16 4))).map decPage) = false →
        ∃ t, exec (.map ring e (.ok bs)) s = .next t ∧ Ended s1 c Code.mapConflict 0 t ∧ OnlyReplies (fun _ => false) s1 t))
    ∧ (s.beginCmd ring.val 0x11 e = some (s1, c) → e.flags = 0 ∨ e.flags = 1 ∧ s.expert = true → e.zero 24 64 = true →
      e.field 8 8 % 2 ^ 21 = 0 → e.field 16 8 % 2 ^ 21 = 0 → e.field 16 8 ≠ 0 → e.field 8 8 + e.field 16 8 ≤ 2 ^ 48 →
      let hit (p : Page) : Bool := rangesMeet (p.va, p.size) (e.field 8 8, e.field 16 8)
      (∀ p ∈ s1.pages, hit p = true → e.field 8 8 ≤ p.va ∧ p.va + p.size ≤ e.field 8 8 + e.field 16 8) →
      ((∀ p ∈ s1.pages, hit p = true → p ∉ s1.tlb) → ∃ t, exec (.unmap ring e) s = .next t
        ∧ (∀ p, p ∈ t.pages ↔ p ∈ s1.pages ∧ hit p = false) ∧ Ended s1 c Code.success 0 t
        ∧ OnlyReplies (fun _ => false) { s1 with pages := t.pages, restores := t.restores } t)
      ∧ ((∃ p ∈ s1.pages, hit p = true ∧ p ∈ s1.tlb) →
        (e.flags = 0 → ∃ t, exec (.unmap ring e) s = .next t ∧ Ended s1 c Code.mapConflict 0 t
          ∧ OnlyReplies (fun _ => false) s1 t)
        ∧ (e.flags = 1 → ∃ t, exec (.unmap ring e) s = .next t ∧ { c with arg := s.grid.time } ∈ t.cmds
          ∧ (∀ p, p ∈ t.pages ↔ p ∈ s1.pages ∧ (hit p = false ∨ p ∈ s1.tlb))
          ∧ t.removals = s1.removals ++ (s1.pages.filter fun p => hit p && s1.tlb.contains p).map (fun p => (p.va, s.grid.time))
          ∧ t = { s1 with pages := t.pages, restores := t.restores, removals := t.removals, cmds := t.cmds })))
    ∧ (∀ (x : Nat × Instr), x = (0x12, .memRead ring e) ∨ (∃ data, x = (0x13, .memWrite ring e data)) →
      s.beginCmd ring.val x.1 e = some (s1, c) → e.plain 28 = true → copyRefused e = none → e.field 24 4 = 0 →
      ∃ t, exec x.2 s = .next t ∧ Ended s1 c Code.success 0 t ∧ OnlyReplies (fun _ => false) s1 t)
    ∧ (s.beginCmd ring.val 0x12 e = some (s1, c) → e.plain 28 = true → copyRefused e = none → e.field 24 4 ≠ 0 →
      (∀ rs, walkRange s1.pages false (e.field 8 8) (e.field 24 4) = some rs → ∃ t, exec (.memRead ring e) s = .next t
        ∧ { c with dva := e.field 8 8, haddr := e.field 16 8, len := e.field 24 4, runs := rs } ∈ t.cmds
        ∧ t = { s1 with cmds := t.cmds })
      ∧ (walkRange s1.pages false (e.field 8 8) (e.field 24 4) = none → ∃ t, exec (.memRead ring e) s = .next t
        ∧ Ended s1 c Code.mapping 0 t ∧ OnlyReplies (fun _ => false) s1 t))
    ∧ (∀ bs rs, s.beginCmd ring.val 0x13 e = some (s1, c) → e.plain 28 = true → copyRefused e = none → e.field 24 4 ≠ 0 →
      walkRange s1.pages true (e.field 8 8) (e.field 24 4) = some rs → s1.writeProtected (e.field 8 8) (e.field 24 4) rs = false →
      ∃ t, exec (.memWrite ring e (.ok bs)) s = .next t
        ∧ { c with dva := e.field 8 8, haddr := e.field 16 8, len := e.field 24 4, data := fitBytes bs (e.field 24 4), runs := rs } ∈ t.cmds
        ∧ t = { s1 with cmds := t.cmds }))
  ∧ ∀ (s : State) (ring : RingId) (c : Cmd),
    s.cmds.find? (fun c => c.ring == ring.val && (c.opcode == 0x12 || c.opcode == 0x13)) = some c →
    s.badPairs = [] → s.ueHits = [] →
    (c.opcode = 0x12 → s.hostUp = true → ∃ t, exec (.hostCopyDone ring .whole) s = .next t
      ∧ .hostWrite c.haddr (s.readRuns c.runs) ∈ t.out ∧ Ended s c Code.success 0 t ∧ OnlyReplies (fun _ => false) s t)
    ∧ (c.opcode = 0x13 → ∃ t, exec (.hostCopyDone ring .whole) s = .next t
      ∧ (∀ a, (∀ r ∈ c.runs, a < r.1 ∨ r.1 + r.2 ≤ a) → t.readByte a = s.readByte a)
      ∧ (Memory.wf s.mem → ∀ a n, c.runs = [(a, n)] → c.data.length = n → t.readMem a n = c.data)
      ∧ Ended s c Code.success 0 t ∧ OnlyReplies (fun _ => false) { s with mem := t.mem } t)

/-- TRAIN_PORTS starts every named port that is DOWN and no other; GRID_JOIN leaves FREE for ACQUIRING with the root priority it
names, or at the expert level the one in force, and the snag counters clear; GRID_LEAVE waits for the next knot; SET_POWER_CAP from
600 to 3,400 W waits for it too, and is refused with RANGE outside; ADMIT is refused with GRID while not LOCKED, else its checks
begin (R55, R60, R97, R326, R328, R355). -/
def Obligations.SlowCommandsBegin : Prop :=
  ∀ (s s1 : State) (ring : RingId) (e : Sqe) (c : Cmd), e.rsv = 0 → s.fatalSet = false →
    (s.beginCmd ring.val 0x20 e = some (s1, c) → e.plain 12 = true → e.field 8 4 < 2 ^ 18 →
      ∃ t, exec (.trainPorts ring e) s = .next t
        ∧ (∀ p : Port, t.portState p.val
            = if bit (e.field 8 4) p.val = true ∧ s.portState p.val = 1 then 2 else s.portState p.val)
        ∧ OnlyReplies portStatus { s1 with ports := t.ports } t)
    ∧ (s.beginCmd ring.val 0x21 e = some (s1, c) → e.flags = 1 → e.field 9 1 < 4 → e.zero 10 64 = true →
      (s.expert = false → ∃ t, exec (.gridJoin ring e) s = .next t ∧ Ended s1 c Code.level 0 t ∧ OnlyReplies (fun _ => false) s1 t)
      ∧ (s.expert = true → s.lockState = 0 → ∃ t, exec (.gridJoin ring e) s = .next t ∧ t.lockState = 1
        ∧ t.rd (Blk.grid.base + F.GRID_CTRL_ROOT_PRIO.off) = s.rd (Blk.grid.base + F.GRID_CTRL_ROOT_PRIO.off)
        ∧ t.g .grid F.GRID_SNAG_COUNT_SENT = 0 ∧ t.g .grid F.GRID_SNAG_COUNT_VOIDS = 0 ∧ t.grid.joinAt = s.grid.time ∧ c ∈ t.cmds
        ∧ Logged s1 ⟨0x10, 0, 7, 1, 0, 1, s.beaconPort⟩ t ∧ ControlAnd (windows [.grid]) s1 t))
    ∧ (s.beginCmd ring.val 0x21 e = some (s1, c) → e.flags = 0 → e.field 9 1 < 4 → e.zero 10 64 = true → s.lockState = 0 →
      bit (e.field 9 1) 1 = true → e.field 8 1 = 0xFF →
      ∃ t, exec (.gridJoin ring e) s = .next t ∧ Ended s1 c Code.range 0 t ∧ OnlyReplies (fun _ => false) s1 t)
    ∧ (s.beginCmd ring.val 0x21 e = some (s1, c) → e.flags = 0 → e.field 9 1 < 4 → e.zero 10 64 = true → s.lockState = 0 →
      ¬(bit (e.field 9 1) 1 = true ∧ e.field 8 1 = 0xFF) →
      ∃ t, exec (.gridJoin ring e) s = .next t ∧ t.lockState = 1 ∧ t.g .grid F.GRID_CTRL_ROOT_PRIO = e.field 8 1
        ∧ t.gb .grid F.GRID_CTRL_BACKUP_EN = bit (e.field 9 1) 0 ∧ t.gb .grid F.GRID_CTRL_SYNC_EN = bit (e.field 9 1) 1
        ∧ t.g .grid F.GRID_SNAG_COUNT_SENT = 0 ∧ t.g .grid F.GRID_SNAG_COUNT_VOIDS = 0 ∧ t.grid.joinAt = s.grid.time ∧ c ∈ t.cmds
        ∧ Logged s1 ⟨0x10, 0, 7, 1, 0, 1, s.beaconPort⟩ t
        ∧ ControlAnd (windows [.grid]) { s1 with shadows := t.shadows } t)
    ∧ (s.beginCmd ring.val 0x21 e = some (s1, c) → e.flags = 0 → e.field 9 1 < 4 → e.zero 10 64 = true → s.lockState ≠ 0 →
      ∃ t, exec (.gridJoin ring e) s = .next t ∧ Ended s1 c Code.state 0 t ∧ OnlyReplies (fun _ => false) s1 t)
    ∧ (s.beginCmd ring.val 0x22 e = some (s1, c) → e.plain 8 = true →
      ∃ t, exec (.gridLeave ring e) s = .next t ∧ t.grid.leaving = true ∧ c ∈ t.cmds
        ∧ t = { s1 with grid := { s1.grid with leaving := true } })
    ∧ (s.beginCmd ring.val 0x40 e = some (s1, c) → e.plain 10 = true →
      (600 ≤ e.field 8 2 → e.field 8 2 ≤ 3400 → ∃ t, exec (.setPowerCap ring e) s = .next t
        ∧ { c with arg := e.field 8 2 } ∈ t.cmds ∧ t = { s1 with cmds := t.cmds })
      ∧ (e.field 8 2 < 600 ∨ 3400 < e.field 8 2 → ∃ t, exec (.setPowerCap ring e) s = .next t ∧ Ended s1 c Code.range 0 t
        ∧ OnlyReplies (fun _ => false) s1 t))
    ∧ (s.beginCmd ring.val 0x30 e = some (s1, c) → e.plain 21 = true → e.field 20 1 ≤ 4 → e.field 8 8 % 64 = 0 → s.run = none →
      s.queue = [] → s.admitting = none → s1.saveBusy = false →
      (s.lockState = 2 → ∃ t, exec (.admitPricking ring e) s = .next t ∧ t.gb (.prk 4) F.PRK_STATUS_ADMITTING = true
        ∧ (∃ a, t.admitting = some a ∧ a.va = e.field 8 8 ∧ a.size = e.field 16 4 ∧ a.pace = e.field 20 1) ∧ c ∈ t.cmds
        ∧ OnlyRegs (regsOf [(.prk 4, F.PRK_STATUS_ADMITTING)]) { s1 with admitting := t.admitting } t)
      ∧ (s.lockState ≠ 2 → ∃ t, exec (.admitPricking ring e) s = .next t ∧ Ended s1 c Code.grid 0 t
        ∧ t.g (.prk 4) F.PRK_REJECT_CODE = Code.grid ∧ t.admitting = none
        ∧ OnlyReplies (windows [.prk 4]) s1 t))

/-- An admission whose image is not mapped, or that a check refuses, leaves the admitted pricking as it was and shows the code in
PRK_REJECT; one that passes every check puts the pricking it names in force, with its pages pinned, its slots counted on every
die and the scratch memory zero (R97, R98, R104, R111, R316). -/
def Obligations.AdmissionEnds : Prop :=
  ∀ (s : State) (a : Admitting) (us : BitVec 17), s.admitting = some a →
    (∀ media, walkRange s.pages false a.va a.size = none → ∃ t, exec (.admissionComplete us media) s = .next t ∧ t.img = s.img
      ∧ t.admitting = none ∧ t.g (.prk 4) F.PRK_REJECT_CODE = Code.mapping ∧ t.g (.prk 4) F.PRK_ADMIT_TIME_TIME_US = us.toNat
      ∧ t.cmdOf 0x30 = none ∧ OnlyReplies (windows [.prk 4]) { s with admitting := none } t)
    ∧ ∀ rs, walkRange s.pages false a.va a.size = some rs → s.badRuns rs 0 = none →
      let pace := if a.pace = 4 then s.g .pwr F.PWR_STATUS_EFF_CLASS else a.pace
      let p := prickingOf (s.readRuns rs) a.va pace
      let u : State := ({ s.p (.prk 4) F.PRK_STATUS_ADMITTING 0 with admitting := none }).p (.prk 4) F.PRK_ADMIT_TIME_TIME_US us.toNat
      let v : AdEnv := { s := u, size := a.size, guard := a.guard, policyOk := a.policyOk, delays := a.delays, p := p }
      (∀ r, v.steps = some r → r.code < 256 → ∃ t, exec (.admissionComplete us none) s = .next t ∧ t.img = s.img
        ∧ t.admitting = none ∧ t.g (.prk 4) F.PRK_REJECT_CODE = r.code ∧ t.cmdOf 0x30 = none
        ∧ OnlyReplies (windows [.prk 4]) { s with admitting := none } t)
      ∧ (v.steps = none → v.step6 (s.g .pwr F.PWR_STATUS_EFF_CLASS) = none → ∃ t, exec (.admissionComplete us none) s = .next t
        ∧ t.img = some { p with prec := (List.range 2).map (precPlaces p s.pages) }
        ∧ t.admitting = none ∧ t.cmdOf 0x30 = none ∧ t.tlb = pagesToPin s.pages p.image p.va ∧ t.pages = s.pages
        ∧ (∀ d : Die, t.gb (.prk d.val) F.PRK_STATUS_ADMITTED = true
            ∧ t.g (.prk d.val) F.PRK_SLOT_COUNT_COUNT = (p.slots.getD d.val []).length % 2 ^ F.PRK_SLOT_COUNT_COUNT.w ∧ t.g (.prk d.val) F.PRK_SLOT_NEXT_NEXT = 0
            ∧ t.g2 (.prk d.val) F.PRK_STEP_LO_COUNT_LO F.PRK_STEP_HI_COUNT_HI = 0)
        ∧ (∀ (h : Hoop) (b : Nat), dieSram h.val ≤ b → b < dieSram h.val + dieSramSize h.val → t.readByte b = memDefault)
        ∧ (∀ b, b < 0x10000000000 → t.readByte b = s.readByte b)
        ∧ t.tableOwner = some (p.jobId, p.digest) ∧ t.queue = s.queue ∧ t.run = s.run)

/-- START_STEP that nothing refuses joins the end of the step queue with its seed, its number, its multipliers, its lengths and the
time it started, and leaves its ring free; one that the state of the device refuses shows a code of R104 in PRK_REJECT; ABORT_STEP
cancels every queued step and, told to void the running one, waits for the knot that R337 gives (R105, R111, R325, R328, R331,
R335). -/
def Obligations.StepsQueued : Prop :=
  ∀ (s s1 : State) (ring : RingId) (e : Sqe) (c : Cmd), e.rsv = 0 → s.fatalSet = false →
    (∀ (p : Pricking) (bs : List Byte), s.beginCmd ring.val 0x31 e = some (s1, c) → e.flags = 0 → e.zero 38 40 = true →
      e.zero 48 64 = true → s1.startRefused c = none → s1.img = some p → startFields p e = none →
      (∀ w ∈ lenWords p.im.mbCount bs, w < 2 ^ 21) →
      (∀ i, i < p.im.mbCount → (lenWords p.im.mbCount bs).getD i 0 ≤ p.im.maxLen i) →
      ∃ t, exec (.startStep ring e (.ok bs)) s = .next t ∧ c ∉ t.cmds
        ∧ t.queue = s.queue ++ [{ ring := ring.val, cid := c.cid, sqHead := c.sqHead, seed := e.field 8 8, step := e.field 16 4
                                  gradMult := e.field 20 4, lrMult := e.field 24 4, bc1 := e.field 28 4, bc2 := e.field 32 4
                                  lens := if p.im.mbCount = 0 then [] else lenWords p.im.mbCount bs, startAt := c.startAt }]
        ∧ t.g .hst F.HST_STATUS_QUEUED = s.queue.length + 1 ∧ t.grid.stepHold = false
        ∧ (∀ r, s1.ring ring.val = some r → t.ring ring.val = some { r with doneAt := some s.grid.time })
        ∧ OnlyRegs (regsOf [(.hst, F.HST_STATUS_QUEUED), (.hst, F.HST_RINGS_LO_EXISTS), (.hst, F.HST_RINGS_HI_EXISTS)])
            { s1 with cmds := t.cmds, queue := t.queue, rings := t.rings, grid := { s1.grid with stepHold := false } } t)
    ∧ (∀ (data : HostRead) (code : Nat), s.beginCmd ring.val 0x31 e = some (s1, c) → e.flags = 0 → e.zero 38 40 = true →
      e.zero 48 64 = true → s1.startRefused c = some code → ∃ t, exec (.startStep ring e data) s = .next t ∧ Ended s1 c code 0 t
        ∧ (code ≤ 0x12 → t.g (.prk 4) F.PRK_REJECT_CODE = code) ∧ OnlyReplies (windows [.prk 4]) s1 t)
    ∧ (s.beginCmd ring.val 0x32 e = some (s1, c) → e.flags.toNat < 2 → e.zero 8 64 = true → s.admitted = true →
      s1.cmdOf 0x33 = none →
      (e.flags = 0 ∨ s.run = none → ∃ t, exec (.abortStep ring e) s = .next t ∧ t.queue = [] ∧ c ∉ t.cmds ∧ t.run = s.run
        ∧ (s.queue = [] → Ended s1 c Code.success 0 t)
        ∧ OnlyReplies (regsOf [(.hst, F.HST_STATUS_QUEUED)]) { s1 with queue := [] } t)
      ∧ (e.flags = 1 → s.run ≠ none → ∃ t, exec (.abortStep ring e) s = .next t ∧ t.queue = [] ∧ t.run = s.run
        ∧ { c with arg := s1.effectiveKnot s1.grid.nextKnot, len := s.queue.length } ∈ t.cmds
        ∧ OnlyReplies (regsOf [(.hst, F.HST_STATUS_QUEUED)]) { s1 with queue := [] } t))

/-- PREEMPT with sound save areas cancels the queued steps and waits for K′; its copy at an end leaves the device suspended, cause
2, with every byte outside the save areas as it was. RESUME in place leaves the suspended state at once, for the job it was
entered with; else it waits for its copy, which ends with the next step's number restored and the suspended state left (R337 to
R343). -/
def Obligations.SaveAndResume : Prop :=
  (∀ (s s1 : State) (ring : RingId) (e : Sqe) (c : Cmd) (p : Pricking), e.rsv = 0 → s.fatalSet = false → s1.img = some p →
    (s.beginCmd ring.val 0x33 e = some (s1, c) → e.flags = 0 → e.zero 14 16 = true → e.zero 48 64 = true → s.save = none →
      (∀ x ∈ s.cmds, x.opcode ≠ 0x33 ∧ x.opcode ≠ 0x34) → e.field 8 6 = 0 → s1.savesOk p (sqeSaves e) = true →
      ∃ t, exec (.preempt ring e) s = .next t ∧ t.queue = [] ∧ t.g .hst F.HST_STATUS_PREEMPT = 1 ∧ c ∈ t.cmds
        ∧ t.save = some { resume := false, kPrime := s1.effectiveKnot s1.grid.nextKnot, saves := sqeSaves e }
        ∧ t.g2 .hst F.HST_PREEMPT_KNOT_LO_KNOT_LO F.HST_PREEMPT_KNOT_HI_KNOT_HI = s1.effectiveKnot s1.grid.nextKnot % 2 ^ 48
        ∧ OnlyReplies (regsOf [(.hst, F.HST_STATUS_QUEUED), (.hst, F.HST_PREEMPT_KNOT_LO_KNOT_LO),
            (.hst, F.HST_PREEMPT_KNOT_HI_KNOT_HI)]) { s1 with queue := [], save := t.save } t)
    ∧ (s.beginCmd ring.val 0x34 e = some (s1, c) → s.run = none → s.queue = [] → s.save = none → s.admitting = none →
      (∀ x ∈ s.cmds, x.opcode ≠ 0x33 ∧ x.opcode ≠ 0x34) →
      (e.flags = 1 → e.zero 8 64 = true → s.gb .hst F.HST_STATUS_SUSPENDED = true → s.suspOwner = some (p.jobId, p.digest) →
        ∃ t, exec (.resume ring e) s = .next t ∧ t.g .hst F.HST_STATUS_SUSPENDED = 0 ∧ t.g .hst F.HST_STATUS_SUSP_CAUSE = 0
          ∧ t.suspOwner = none ∧ Ended s1 c Code.success 0 t
          ∧ OnlyReplies (regsOf [(.hst, F.HST_STATUS_SUSPENDED)]) { s1 with suspOwner := none } t)
      ∧ (e.flags = 0 → e.zero 8 16 = true → e.zero 48 64 = true → s1.savesOk p (sqeSaves e) = true →
        s1.headersOk p (sqeSaves e) = true →
        ∃ t, exec (.resume ring e) s = .next t ∧ c ∈ t.cmds
          ∧ t = { s1 with save := some { resume := true, kPrime := 0, saves := sqeSaves e } })))
  ∧ (∀ (s : State) (v : Save) (at_ : Nat) (p : Pricking), s.save = some v → v.beganAt = some at_ → s.img = some p →
    v.resume = false → s.badPairs = [] → ∃ t, exec .preemptSaveDone s = .next t ∧ t.save = none ∧ t.cmdOf 0x33 = none
      ∧ t.g .hst F.HST_STATUS_PREEMPT = 0 ∧ t.g .hst F.HST_STATUS_SUSPENDED = 1 ∧ t.g .hst F.HST_STATUS_SUSP_CAUSE = 2
      ∧ t.g .hst F.HST_SAVE_NS_NS = s.nsSince at_ ∧ t.queue = [] ∧ t.suspOwner = some (p.jobId, p.digest)
      ∧ (∀ a, (∀ h, h < 4 → ∀ r ∈ (s.sectionRuns p h (v.saves.getD h 0)).getD [], a < r.1 ∨ r.1 + r.2 ≤ a) →
          t.readByte a = s.readByte a))
  ∧ ∀ (s : State) (v : Save) (at_ : Nat) (p : Pricking), s.save = some v → v.beganAt = some at_ → s.img = some p →
    v.resume = true → s.badPairs = [] → (∀ h, h < 4 → (s.sectionRuns p h (v.saves.getD h 0)).isSome = true) →
    (∀ h, h < 4 → s.headerOk p h ((s.readRuns ((s.sectionRuns p h (v.saves.getD h 0)).getD [])).take 4096) = true) →
    ∃ t, exec (.resumeRestoreDone) s = .next t ∧ t.save = none ∧ t.cmdOf 0x34 = none ∧ t.suspOwner = none
      ∧ t.g .hst F.HST_STATUS_SUSPENDED = 0 ∧ t.g .hst F.HST_STATUS_PREEMPT = 0
      ∧ t.nextStep = leAt (s.readRuns ((s.sectionRuns p 0 (v.saves.getD 0 0)).getD [])) 48 4
      ∧ (∀ a, a < 0x20000000000 → t.readByte a = s.readByte a)

/-! ### The work of a step -/

/-- The next slot of a die, by start time, is dispatched at its start. With no work it is complete at once; else it goes to the unit
its action names: a pass into its array, a vector operation into the vector unit, a tile to its buffer (a store is
XpbStoreTransposes), a stream to its bobbin, link slots to their port, the stages of a reduction, a verdict, an update, a push and a
refresh that is due to the engines of its Shuttle (R82, R93, R107, R158, R182, R209, R211, R257, R290, R294, R296, R312). -/
def Obligations.SlotsDispatched : Prop :=
  ∀ (s : State) (die : Die) (p : Pricking) (r : Run) (i : Nat) (e : SlotEntry), s.img = some p → s.run = some r →
    nextSlot p r die.val = some i → p.slot die.val i = some e →
    let start := (p.starts.getD die.val []).getD i (0, 0)
    r.knotCame start.1 = true →
    let sched := (r.times.getD start.1 0 + nsT start.2) % 2 ^ 64
    let noted := fun (t : State) => ∃ q, t.run = some q ∧ (tget slotNone q.slots (slotKey die.val i)).disp = true
      ∧ (tget slotNone q.slots (slotKey die.val i)).empty = slotEmpty p r e
      ∧ (tget slotNone q.slots (slotKey die.val i)).sched = sched
    (slotEmpty p r e = true → e.action ≠ 4 ∨ r.voided = true ∨ descRows (p.stream e.operand) ≠ 0 →
      ∃ t, exec (.slotDispatch die) s = .next t ∧ noted t ∧ SlotDone t die.val i ∧ (e.action ≠ 2 → t.stepStat = s.stepStat)
        ∧ Worked (windows [.prk die.val, .upd (die.val - 4)]) { movedTo s t with stepStat := t.stepStat } t ∧ t.mem = s.mem)
    ∧ (e.action = 0 → ∃ t, exec (.slotDispatch die) s = .next t ∧ noted t ∧ SlotDone t die.val i
        ∧ Worked (windows [.prk die.val]) (movedTo s t) t ∧ t.mem = s.mem)
    ∧ (e.action = 4 → r.voided = false → 0x10 ≤ e.unit → e.unit < 0x30 → e.operand ≠ 0x1FFFF →
      (descRows (p.stream e.operand) = 0 → ∃ t, exec (.slotDispatch die) s = .next t ∧ noted t ∧ SlotDone t die.val i
        ∧ (∃ x ∈ t.arms, x.slot = i ∧ x.stream = e.operand ∧ x.phase = .ended)
        ∧ Worked (windows [.prk die.val, .bob die.val]) (movedTo s t) t ∧ t.mem = s.mem)
      ∧ (slotEmpty p r e = false → s.pendingOn die.val (e.unit - 0x10) = none → ∃ t, exec (.slotDispatch die) s = .next t ∧ noted t
        ∧ (∃ x ∈ t.arms, x.die = die.val ∧ x.bobbin = e.unit - 0x10 ∧ x.slot = i ∧ x.stream = e.operand
            ∧ x.desc = p.stream e.operand ∧ x.beats = 0
            ∧ ((∀ y ∈ s.liveOn die.val (e.unit - 0x10), y.stream ≠ e.operand) → (s.liveOn die.val (e.unit - 0x10)).length < 6 →
                x.phase = .live))
        ∧ Worked (windows [.prk die.val, .bob die.val]) (movedTo s t) t ∧ t.mem = s.mem))
    ∧ (slotEmpty p r e = false → e.action = 1 → die.val < 4 →
      (∀ q ∈ (s.arrU (2 * die.val + e.unit % 2)).passes, q.slot ≠ i) →
      ∃ t, exec (.slotDispatch die) s = .next t ∧ noted t
        ∧ (∃ q ∈ (t.arrU (2 * die.val + e.unit % 2)).passes, q.slot = i ∧ q.pass = e.operand ∧ q.mb = e.mb ∧ q.entered = false
            ∧ (e.chain = false → q.chain = false ∧ q.begun = (s.arrU (2 * die.val + e.unit % 2)).passes.isEmpty))
        ∧ Worked (windows [.prk die.val, .arr (2 * die.val + e.unit % 2)]) (movedTo s t) t ∧ t.mem = s.mem)
    ∧ (slotEmpty p r e = false → e.action = 2 → die.val < 4 → s.badPairs = [] → s.ueHits = [] →
      ∃ t, exec (.slotDispatch die) s = .next t ∧ noted t
        ∧ tget none t.units (vecUnit die.val) = some ⟨i, t.grid.time⟩ ∧ t.g (.vec die.val) F.VEC_OP_STATUS_BUSY = 1
        ∧ t.g (.vec die.val) F.VEC_OP_STATUS_OPCODE = vxOp (p.vxop e.operand) ∧ t.g (.vec die.val) F.VEC_OP_SLOT_VALID = 1
        ∧ (∀ x, x < sramBase die.val → t.readByte x = s.readByte x)
        ∧ (vxOp (p.vxop e.operand) < 0x10 ∨ (0x20 ≤ vxOp (p.vxop e.operand) ∧ vxOp (p.vxop e.operand) < 0x50) →
            ∀ x, (∀ w ∈ vxWrites false (p.vxop e.operand), x < sramBase die.val + w.1 ∨ sramBase die.val + w.1 + w.2 ≤ x) →
              t.readByte x = s.readByte x)
        ∧ Worked (windows [.prk die.val, .vec die.val]) { movedTo s t with stepStat := t.stepStat } t)
    ∧ (slotEmpty p r e = false → e.action = 3 → die.val < 4 → e.unit = 3 ∨ e.unit = 4 → vxOp (p.vxop e.operand) = 0x50 →
      let k := 2 * die.val + (e.unit - 3)
      ∃ t, exec (.slotDispatch die) s = .next t ∧ noted t
        ∧ ((s.xpb k).load = none → (t.xpb k).load = some (i, e.operand)
            ∧ (t.xpb k).held = (s.xpbState k (s.xpb k).loadHalf != 0))
        ∧ ((s.xpb k).load ≠ none → (t.xpb k).waiting = (s.xpb k).waiting ++ [(i, e.operand)])
        ∧ Worked (windows [.prk die.val, .xpb die.val]) (movedTo s t) t ∧ t.mem = s.mem)
    ∧ (slotEmpty p r e = false → e.action = 5 ∨ e.action = 6 → ∀ x, s.consumerArm p die.val e.operand i = some x →
      let rows := (List.range (descRows (p.stream e.operand))).foldl
        (fun m j => if (s.envOf p r e.mb).skips (p.stream e.operand) j then m else j + 1) 0
      ∃ t, exec (.slotDispatch die) s = .next t ∧ noted t
        ∧ (∃ l ∈ t.links, l.die = die.val ∧ l.slot = i ∧ l.stream = e.operand ∧ l.gen = x.gen ∧ l.done = 0
            ∧ l.send = (e.action == 5) ∧ l.bytes = rows * descRowBytes (p.stream e.operand) ∧ l.frames = ceilDiv l.bytes 12800
            ∧ l.knot = (r.first + start.1) % 2 ^ 48 ∧ l.first = start.2 / 64)
        ∧ Worked (windows [.prk die.val]) (movedTo s t) t ∧ t.mem = s.mem)
    ∧ (slotEmpty p r e = false → 4 ≤ die.val →
      (e.action = 7 ∨ e.action = 8 → tget none s.units (redUnit (die.val - 4)) = none →
        ∃ t, exec (.slotDispatch die) s = .next t ∧ noted t ∧ tget none t.units (redUnit (die.val - 4)) = some ⟨i, t.grid.time⟩
          ∧ t.g (.red (die.val - 4)) F.RED_STATUS_BUSY = 1
          ∧ t.g (.red (die.val - 4)) F.RED_STATUS_STAGE = (if e.action = 7 then (redJob p r die.val i e.operand).2 else 0)
          ∧ Worked (windows [.prk die.val, .red (die.val - 4)]) (movedTo s t) t ∧ t.mem = s.mem)
      ∧ (e.action = 9 ∨ e.action = 10 ∨ (e.action = 11 ∧ refreshDue (p.block e.operand) r.q.step = true) →
        tget none s.units (updUnit (die.val - 4)) = none →
        ∃ t, exec (.slotDispatch die) s = .next t ∧ noted t ∧ tget none t.units (updUnit (die.val - 4)) = some ⟨i, t.grid.time⟩
          ∧ t.g (.upd (die.val - 4)) F.UPD_STATUS_BUSY = 1 ∧ t.g (.upd (die.val - 4)) F.UPD_STATUS_KIND = e.action - 8
          ∧ Worked (windows [.prk die.val, .upd (die.val - 4)]) (movedTo s t) t ∧ t.mem = s.mem)
      ∧ (e.action = 11 → refreshDue (p.block e.operand) r.q.step = false →
        ∃ t, exec (.slotDispatch die) s = .next t ∧ noted t ∧ SlotDone t die.val i
          ∧ Worked (windows [.prk die.val]) (movedTo s t) t ∧ t.mem = s.mem))

/-- The end of a slot on the vector unit leaves the unit idle and the slot complete, and so does that on an engine of a Shuttle once
its work is done, where that work does not stop it; a preconditioner refresh that is sound replaces P there. A slot of a live step
that is not complete at its deadline is counted once and raises UNCOVERED; a complete one raises nothing (R107, R193, R296, R315,
R319). -/
def Obligations.SlotsEnd : Prop :=
  (∀ (s : State) (h : Hoop) (u : UnitRun) (r : Run) (p : Pricking), s.run = some r → s.img = some p → s.ueHits = [] →
    tget none s.units (vecUnit h.val) = some u →
    ∃ t, exec (.unitSlotComplete ⟨h.val, by omega⟩ ⟨0x02, none⟩) s = .next t ∧ tget none t.units (vecUnit h.val) = none
      ∧ SlotDone t h.val u.slot ∧ t.g (.vec h.val) F.VEC_OP_STATUS_BUSY = 0 ∧ t.g (.vec h.val) F.VEC_OP_SLOT_VALID = 0
      ∧ Worked (windows [.vec h.val]) s t ∧ t.mem = s.mem)
  ∧ (∀ (s : State) (k : Shuttle) (red : Bool) (u : UnitRun) (r : Run) (p : Pricking) (e : SlotEntry), s.run = some r →
    s.img = some p → p.slot (4 + k.val) u.slot = some e →
    let key := if red then redUnit k.val else updUnit k.val
    let w := s.engineWork p r (4 + k.val) u.slot e
    tget none s.units key = some u → tget none w.1.units key ≠ none → w.2 = true → w.1.ueHits = [] → w.1.run ≠ none →
    w.1.img = some p →
    ∃ t, exec (.unitSlotComplete ⟨4 + k.val, by omega⟩ ⟨if red then 0x40 else 0x41, none⟩) s = .next t
      ∧ tget none t.units key = none ∧ SlotDone t (4 + k.val) u.slot
      ∧ (red = true → t.g (.red k.val) F.RED_STATUS_BUSY = 0 ∧ t.g (.red k.val) F.RED_STATUS_STAGE = 0)
      ∧ (red = false → t.g (.upd k.val) F.UPD_STATUS_BUSY = 0 ∧ t.g (.upd k.val) F.UPD_STATUS_KIND = 0)
      ∧ Worked (windows [if red then .red k.val else .upd k.val]) w.1 t ∧ t.mem = w.1.mem)
  ∧ (∀ (s : State) (k : Shuttle) (u : UnitRun) (r : Run) (p : Pricking) (e : SlotEntry), s.run = some r → s.img = some p →
    s.ueHits = [] → s.badPairs = [] → Memory.wf s.mem → tget none s.units (updUnit k.val) = some u →
    p.slot (4 + k.val) u.slot = some e → e.action = 0x0B →
    let d := p.block (e.operand % 2 ^ 16)
    let a := precAt p k.val (e.operand % 2 ^ 16)
    let x := precCandidate (updP d) (updIters d) (updHyper d 3) (s.readMat a (updDim d))
    allFinite x = true → (matBytes x).length = precMat d →
    ∃ t, exec (.unitSlotComplete ⟨4 + k.val, by omega⟩ ⟨0x41, none⟩) s = .next t ∧ tget none t.units (updUnit k.val) = none
      ∧ SlotDone t (4 + k.val) u.slot ∧ t.g (.upd k.val) F.UPD_PREC_STEP_STEP = r.q.step % 2 ^ 32
      ∧ t.readMem (a + precMat d) (precMat d) = matBytes x
      ∧ (∀ y, y < a + precMat d ∨ a + 2 * precMat d ≤ y → t.readByte y = s.readByte y)
      ∧ Worked (windows [.upd k.val]) s t)
  ∧ ∀ (s : State) (die : Die) (i : BitVec 17) (r : Run) (p : Pricking), s.liveRun = some r → s.img = some p →
    i.toNat < (p.deads.getD die.val []).length → r.knotCame ((p.deads.getD die.val []).getD i.toNat (0, 0)).1 = true →
    (r.slotDone die.val i.toNat = true → ∃ t, exec (.slotDeadlineCheck die i) s = .next t
      ∧ OnlyRegs clocked { movedTo s t with lines := t.lines } t)
    ∧ (r.slotDone die.val i.toNat = false → slotKey die.val i.toNat ∉ r.missed →
      (∀ e, p.slot die.val i.toNat = some e → e.action = 3 → die.val < 4 ∧ (e.unit = 3 ∨ e.unit = 4)) →
      ∃ t, exec (.slotDeadlineCheck die i) s = .next t
        ∧ t.g (.prk die.val) F.PRK_MISS_MISSES = min (s.g (.prk die.val) F.PRK_MISS_MISSES + 1) (2 ^ 16 - 1)
        ∧ (∀ q, t.run = some q → slotKey die.val i.toNat ∈ q.missed) ∧ Voids s 6 t
        ∧ ControlAnd (fun x => clocked x || windows (if die.val < 4 then [.prk die.val, .xpb die.val] else [.prk die.val]) x)
            (movedTo s t) t)

/-- A head pass that waited begins in the idle array; vector 0 of the pass that is next enters with its tile, after the reads before it
are over, and a pass that swaps leaves its old buffer; a pass that has entered ends with its rows in the drain and, where it writes,
in SRAM, its slot complete and its freezes counted. A buffer left behind is free once the marker has passed; a stationary write that
was held for it lands there (R113, R119, R126, R127, R128, R130, R135, R183). -/
def Obligations.PassesRun : Prop :=
  ∀ (s : State) (a : ArrayId) (p : Pricking) (r : Run), s.img = some p → s.run = some r →
    (∀ q rest, (s.arrU a.val).passes = q :: rest → q.begun = false →
      ∃ t, exec (.headPassDeferredStart a) s = .next t
        ∧ (t.arrU a.val).passes.head? = some { q with begun := true, actual := s.grid.time }
        ∧ t.gb (.arr a.val) F.ARR_STATUS_BUSY = true ∧ (∀ b, b ≠ a.val → t.arrU b = s.arrU b)
        ∧ Worked (windows [.arr a.val]) s t ∧ t.mem = s.mem)
    ∧ (∀ (q : PassRun) (present : Bool) (tile : List Byte), (s.arrU a.val).passes.find? (fun x => !x.entered) = some q →
      q.begun = true →
      let d := p.pass q.pass
      let k := 2 * (a.val / 2) + (passSrc d - 1)
      let xpb := passK d ≠ 0 ∧ passSrc d ≠ 0
      let u := if xpb then (s.arrReadsEnd a.val).readsEnd k else s.arrReadsEnd a.val
      (if passK d = 0 then some [] else (s.arrU a.val).tileFor d r.q.step) = some tile →
      passK d = 0 ∨ (passSrc d = 0 ∧ present = true) ∨ (passSrc d ≠ 0 ∧ 2 ≤ u.xpbState k (u.xpbNext k)) →
      ∃ t, exec (.vector0Entry a present) s = .next t
        ∧ (∃ x ∈ (t.arrU a.val).passes, x.slot = q.slot ∧ x.pass = q.pass ∧ x.entered = true ∧ x.actual = s.grid.time ∧ x.tile = tile
            ∧ (xpb → x.reads = some (k, (((u.xpb k).half (u.xpbNext k)).ptr + passV d) % 1024)))
        ∧ (xpb → t.xpbState k (u.xpbNext k) = 3)
        ∧ (t.arrU a.val).act = (s.arrU a.val).act.xor (passSwap d)
        ∧ (passSwap d = true → (t.arrU a.val).leaving = true)
        ∧ t.g (.arr a.val) F.ARR_STATUS_ACT_BUF = s.g (.arr a.val) F.ARR_STATUS_ACT_BUF
        ∧ t.gb (.arr a.val) F.ARR_CUR_SLOT_VALID = true
        ∧ Worked (windows [.arr a.val, .xpb (a.val / 2), .xpb (k / 2)]) u t ∧ t.mem = s.mem)
    ∧ (∀ (q : PassRun) (rest : List PassRun) (ff fd hold : BitVec 32) (ru : Run) (feed : List (List Byte)),
      (s.arrU a.val).passes = q :: rest → q.entered = true → (tget slotNone r.slots (slotKey (a.val / 2) q.slot)).disp = true →
      let d := p.pass q.pass
      let h := a.val / 2
      let u := s.passLand p h q d
      u.run = some ru → u.img = some p → u.passFeed p h q d = some feed → u.badPairs = [] → u.ueHits = [] →
      (∀ w ∈ (u.arrU a.val).held, w.bobbin < 32) →
      let row := passN d * if passOutFmt d = 1 then 2 else 4
      let out := sramBase h + passOut d
      let cols := if bit (passScale d) 2 then u.readMem (sramBase h + bits (passScale d) 62 44 * 512) (nMax (passFmtS d)) else []
      ∃ t, exec (.passComplete a ff fd hold) s = .next t
        ∧ (t.arrU a.val).passes = rest ∧ (t.arrU a.val).leaving = false ∧ SlotDone t h q.slot
        ∧ t.g (.arr a.val) F.ARR_PASS_DONE_COUNT = min (u.g (.arr a.val) F.ARR_PASS_DONE_COUNT + 1) (2 ^ 32 - 1)
        ∧ t.g (.arr a.val) F.ARR_FRZ_FEED_CYCLES = min (u.g (.arr a.val) F.ARR_FRZ_FEED_CYCLES + ff.toNat) (2 ^ 32 - 1)
        ∧ t.g (.arr a.val) F.ARR_FRZ_DRAIN_CYCLES = min (u.g (.arr a.val) F.ARR_FRZ_DRAIN_CYCLES + fd.toNat) (2 ^ 32 - 1)
        ∧ t.g (.arr a.val) F.ARR_FRZ_HOLD_CYCLES = min (u.g (.arr a.val) F.ARR_FRZ_HOLD_CYCLES + hold.toNat) (2 ^ 32 - 1)
        ∧ (∀ k, (∀ v, v < feed.length → k ≠ passRow d + v) → tget [] (t.arrU a.val).drain k = tget [] (u.arrU a.val).drain k)
        ∧ (∀ x, (passWrites d = true → ∀ v, v < feed.length → x < out + v * passStride d ∨ out + v * passStride d + row ≤ x) →
            t.readByte x = u.readByte x)
        ∧ (Memory.wf u.mem → passWrites d = true → row ≤ passStride d → ∀ v, v < feed.length → (s.envOf p r q.mb).skips d v = false →
            t.readMem (out + v * passStride d) row
              = (passRowOut u h s.t2 d v cols ((tget [] (t.arrU a.val).drain (passRow d + v)).take (passN d))).1)
        ∧ Worked (windows [.arr a.val, .xpb h, .bob h]) u t)
    ∧ ((s.arrU a.val).leaving = false → exec (.statWriteRelease a) s = .next s)
    ∧ ((s.arrU a.val).leaving = true → (s.arrU a.val).held = [] → ∃ t, exec (.statWriteRelease a) s = .next t
        ∧ (t.arrU a.val).leaving = false ∧ (t.arrU a.val).inactive = none ∧ (t.arrU a.val).active = (s.arrU a.val).active
        ∧ (t.arrU a.val).act = (s.arrU a.val).act ∧ t.gb (.arr a.val) F.ARR_STATUS_ACT_BUF = (s.arrU a.val).act
        ∧ (∀ b, b ≠ a.val → t.arrU b = s.arrU b)
        ∧ OnlyRegs (regsOf [(.arr a.val, F.ARR_STATUS_ACT_BUF)]) { s with arrays := t.arrays } t)
    ∧ ∀ (w : HeldWrite) (x : Arm), (s.arrU a.val).leaving = true → (s.arrU a.val).held = [w] → w.bobbin < 32 →
      (s.arms.find? fun y => y.die == a.val / 2 && y.bobbin == w.bobbin && y.slot == w.slot && y.stream != 0x1FFFF
        && y.phase == .live) = some x →
      ∃ t b, exec (.statWriteRelease a) s = .next t ∧ (t.arrU a.val).inactive = some b ∧ b.complete = true ∧ b.stream = x.stream
        ∧ b.step = r.q.step ∧ (t.arrU a.val).leaving = false ∧ (t.arrU a.val).held = []
        ∧ (descRows x.desc = 1 → ∀ rs, s.srcRuns x 0 0 (descRowBytes x.desc) = some rs → b.bytes = s.readRuns rs)
        ∧ { x with phase := .ended } ∈ t.arms ∧ SlotDone t (a.val / 2) x.slot
        ∧ Worked (windows [.arr a.val, .bob (a.val / 2)]) s t ∧ t.mem = s.mem

/-- A held tile begins to load once the reads of its half are over and the half is empty, its hold counted; a load that ends has the
tile's rows in the half, which is full, and its vectors are the tile's columns, zero where a row lies beyond the length of its
micro-batch; its slot is complete (R93, R179, R182, R183). -/
def Obligations.TilesLoad : Prop :=
  ∀ (s : State) (h : Hoop) (buffer : Bool),
    let k := 2 * h.val + if buffer then 1 else 0
    let lh := (s.xpb k).loadHalf
    (∀ held : BitVec 32, (s.xpb k).held = true → (s.readsEnd k).xpbState k lh = 0 →
      ∃ t, exec (.xpbLoadRelease h buffer held) s = .next t ∧ (t.xpb k).held = false ∧ t.xpbState k lh = 1
        ∧ t.g (.xpb h.val) (F.XPB_HOLD_CYCLES (k % 2)) = min (s.g (.xpb h.val) (F.XPB_HOLD_CYCLES (k % 2)) + held.toNat) (2 ^ 32 - 1)
        ∧ (∀ j, j ≠ k → t.xpb j = s.xpb j)
        ∧ OnlyRegs (windows [.xpb h.val]) { s with xpbs := t.xpbs, arrays := (s.readsEnd k).arrays } t)
    ∧ ∀ (p : Pricking) (r : Run) (slot vx : Nat), s.img = some p → s.run = some r → (s.xpb k).load = some (slot, vx) →
      (s.xpb k).held = false → s.badPairs = [] → Memory.wf s.mem →
      let d := p.vxop vx
      let x := fun (t : State) => (t.xpb k).half lh
      ∃ t, exec (.xpbLoadComplete h buffer) s = .next t ∧ t.xpbState k lh = 2 ∧ (t.xpb k).loadHalf = !lh
        ∧ (x t).w16 = bit (leAt d 1 1) 0 ∧ (x t).uses = leAt d 2 1 ∧ (x t).ptr = bits (leAt d 8 4) 25 16
        ∧ (bit (leAt d 1 1) 0 = false → ∀ i j, i < bits (leAt d 4 4) 9 0 → i < 512 → j < bits (leAt d 8 4) 10 0 →
            ((x t).vector j).getD i 0 = if s.slotSkips p h.val slot d i then 0
              else s.readByte (sramBase h.val + bits (leAt d 12 4) 27 0 + i * bits (leAt d 16 4) 19 0 + j))
        ∧ (bit (leAt d 1 1) 0 = true → ∀ i j b, i < 256 → b < 2 → 256 * (j / 512) + i < bits (leAt d 4 4) 9 0 →
            2 * (j % 512) + b < bits (leAt d 8 4) 10 0 →
            ((x t).vector j).getD (2 * i + b) 0 = if s.slotSkips p h.val slot d (256 * (j / 512) + i) then 0
              else s.readByte (sramBase h.val + bits (leAt d 12 4) 27 0
                + (256 * (j / 512) + i) * bits (leAt d 16 4) 19 0 + (2 * (j % 512) + b)))
        ∧ t.g (.xpb h.val) (F.XPB_LOADS_COUNT (k % 2)) = min (s.g (.xpb h.val) (F.XPB_LOADS_COUNT (k % 2)) + 1) (2 ^ 32 - 1)
        ∧ SlotDone t h.val slot ∧ Worked (windows [.xpb h.val]) s t ∧ t.mem = s.mem

/-- An XPB_STORE takes the next half at its start, or shows error 2 where that half is not full; at its end it writes the half's tile
with rows and columns exchanged: output row j, at SRAM + j × STRIDE, holds elements 0 to ROWS − 1 of tile column j, one byte each in
8-bit width and two in 16-bit width; but for rows beyond the length of its micro-batch, and nothing else of memory changes (R93, R184,
R186, R201). -/
def Obligations.XpbStoreTransposes : Prop :=
  (∀ (s : State) (h : Hoop) (p : Pricking) (r : Run) (i : Nat) (e : SlotEntry), s.img = some p → s.run = some r →
    nextSlot p r h.val = some i → p.slot h.val i = some e →
    r.knotCame ((p.starts.getD h.val []).getD i (0, 0)).1 = true → slotEmpty p r e = false → e.action = 3 →
    e.unit = 3 ∨ e.unit = 4 → vxOp (p.vxop e.operand) ≠ 0x50 → tget none s.units (xpbUnit h.val (e.unit - 3)) = none →
    let k := 2 * h.val + (e.unit - 3)
    let u := s.readsEnd k
    (2 ≤ u.xpbState k (u.xpbNext k) → ∃ t, exec (.slotDispatch ⟨h.val, by omega⟩) s = .next t
      ∧ tget none t.units (xpbUnit h.val (e.unit - 3)) = some ⟨i, t.grid.time⟩ ∧ t.xpbState k (u.xpbNext k) = 3
      ∧ (∃ q, t.run = some q ∧ (tget slotNone q.slots (slotKey h.val i)).disp = true)
      ∧ Worked (windows [.prk h.val, .xpb h.val]) (movedTo s t) t ∧ t.mem = s.mem)
    ∧ (u.xpbState k (u.xpbNext k) < 2 → ∃ t, exec (.slotDispatch ⟨h.val, by omega⟩) s = .next t
      ∧ t.g (.xpb h.val) (F.XPB_ERR_CODE (k % 2)) = 2 ∧ t.g (.xpb h.val) (F.XPB_ERR_SLOT (k % 2)) = i % 2 ^ 17
      ∧ Voids s 5 t ∧ t.mem = s.mem))
  ∧ ∀ (s : State) (h : Hoop) (b : Fin 2) (u : UnitRun) (p : Pricking) (r : Run) (e : SlotEntry), s.img = some p → s.run = some r →
    tget none s.units (xpbUnit h.val b.val) = some u → p.slot h.val u.slot = some e → s.badPairs = [] → s.ueHits = [] →
    Memory.wf s.mem →
    let k := 2 * h.val + b.val
    let d := p.vxop e.operand
    let x := (s.xpb k).half (s.xpbNext k)
    let rows := bits (leAt d 4 4) 9 0
    let n := bits (leAt d 8 4) 10 0
    let size := if x.w16 then 2 else 1
    let at_ := fun j => sramBase h.val + bits (leAt d 12 4) 27 0 + j * bits (leAt d 16 4) 19 0
    let kept := fun j => j < n ∧ s.slotSkips p h.val u.slot d j = false
    rows * size ≤ bits (leAt d 16 4) 19 0 →
    ∃ t, exec (.unitSlotComplete ⟨h.val, by omega⟩ ⟨if b.val = 0 then 0x03 else 0x04, none⟩) s = .next t
      ∧ (∀ j q, kept j → q < rows * size →
          t.readByte (at_ j + q) = (x.rows.getD (q / size) []).getD (j * size + q % size) 0)
      ∧ (∀ a, (∀ j, kept j → a < at_ j ∨ at_ j + rows * size ≤ a) → t.readByte a = s.readByte a)
      ∧ tget none t.units (xpbUnit h.val b.val) = none ∧ SlotDone t h.val u.slot
      ∧ Worked (windows [.xpb h.val]) s t

/-- A pass whose tile is missing, or whose feed is, a freeze that has counted its limit of cycles, and each fault of an array stop the
passes inside with the code of R135, those that wait outside kept; a single error of the drain is corrected, counted and reported. A
pass that finds no full half of a transposing buffer is abandoned with that buffer's error 2; a chained pass whose feed is missing
waits. A fault of the vector unit stops its slot; one of a transposing buffer stops its reader, a store or a pass; a load still held
is abandoned, its hold counted; each with the code of R201. A parity error of a reduction or update engine is contained, but outside a
REFRESH fatal for the update engine, and a mismatch of any unit is fatal (R119, R120, R125, R126, R130, R133 to R135, R182, R201,
R295, R318). -/
def Obligations.ArrayErrors : Prop :=
  (∀ (s : State) (a : ArrayId) (p : Pricking) (r : Run) (q : PassRun) (present : Bool), s.img = some p → s.run = some r →
    (s.arrU a.val).passes.find? (fun x => !x.entered) = some q → q.begun = true → passK (p.pass q.pass) ≠ 0 →
    let tile := (s.arrU a.val).tileFor (p.pass q.pass) r.q.step
    let k := 2 * (a.val / 2) + (passSrc (p.pass q.pass) - 1)
    let u := (s.arrReadsEnd a.val).readsEnd k
    (tile = none → ∃ t, exec (.vector0Entry a present) s = .next t ∧ ArrayFailed s a.val 1 q.slot t)
    ∧ (tile ≠ none → passSrc (p.pass q.pass) = 0 → present = false → q.chain = false →
      ∃ t, exec (.vector0Entry a present) s = .next t ∧ ArrayFailed s a.val 2 q.slot t)
    ∧ (tile ≠ none → passSrc (p.pass q.pass) = 0 → present = false → q.chain = true →
      exec (.vector0Entry a present) s = .next (s.arrReadsEnd a.val))
    ∧ (tile ≠ none → passSrc (p.pass q.pass) ≠ 0 → u.xpbState k (u.xpbNext k) < 2 →
      ∃ t, exec (.vector0Entry a present) s = .next t ∧ t.g (.xpb (k / 2)) (F.XPB_ERR_CODE (k % 2)) = 2
        ∧ t.g (.xpb (k / 2)) (F.XPB_ERR_SLOT (k % 2)) = q.slot % 2 ^ 17 ∧ (∀ x ∈ (t.arrU a.val).passes, x.begun = false)
        ∧ Voids s 5 t ∧ ControlAnd (windows [.xpb (k / 2), .arr a.val]) s t))
  ∧ (∀ (s : State) (a : ArrayId),
    (∀ drain : Bool, (s.arrU a.val).passes.any (·.begun) = true →
      let f := if drain then F.ARR_FRZ_DRAIN_CYCLES else F.ARR_FRZ_FEED_CYCLES
      ∃ t, exec (.arrayFreezeLimit a drain) s = .next t ∧ ArrayFailed s a.val (if drain then 4 else 3) (s.arrSlot a.val) t
        ∧ min (s.g (.arr a.val) f + s.g (.arr a.val) F.ARR_CTRL_FREEZE_LIMIT) (2 ^ 32 - 1) ≤ t.g (.arr a.val) f)
    ∧ (∃ t, exec (.arrayError a .drainSingle) s = .next t
      ∧ t.g (.arr a.val) F.ARR_ECC_CORRECTED = min (s.g (.arr a.val) F.ARR_ECC_CORRECTED + 1) (2 ^ 32 - 1)
      ∧ Logged s ⟨0x30, 1, (Blk.arr a.val).die, (Blk.arr a.val).index, a.val, 0, s.arrSlot a.val⟩ t
      ∧ OnlyReports (fun x => clocked x || regsOf [(.arr a.val, F.ARR_ECC_CORRECTED)] x) s t)
    ∧ ∀ x ∈ [(5, ArrayFault.stationaryParity), (6, .drainDouble), (7, .portParity), (8, .drainMismatch)],
      ∃ t, exec (.arrayError a x.2) s = .next t ∧ ArrayFailed s a.val x.1 (s.arrSlot a.val) t)
  ∧ (∀ (s : State) (h : Hoop),
    (∀ (slot : Nat), (slot = match tget none s.units (vecUnit h.val) with | some u => u.slot | none => 0) →
      ∀ x ∈ [(1, 2, VecFault.vecParity), (2, 3, VecFault.vecMismatch)],
        ∃ t, exec (.vecOpError h x.2.2) s = .next t ∧ t.g (.vec h.val) F.VEC_OP_ERR_CODE = x.1
          ∧ t.g (.vec h.val) F.VEC_OP_ERR_SLOT = slot % 2 ^ 17 ∧ tget none t.units (vecUnit h.val) = none
          ∧ t.g (.vec h.val) F.VEC_OP_STATUS_BUSY = 0 ∧ (h.val * 256 + 34) ∈ t.lines
          ∧ Logged s ⟨0x30, x.2.1, (Blk.vec h.val).die, (Blk.vec h.val).index, h.val, x.1, slot⟩ t
          ∧ (if x.1 = 1 then Voids s 5 t else t.fatalSet = true) ∧ ControlAnd (windows [.vec h.val]) s t)
    ∧ ∀ buffer : Bool,
      let k := 2 * h.val + if buffer then 1 else 0
      let u := tget none s.units (xpbUnit h.val (k % 2))
      let reads := fun q : PassRun => q.reads.any (·.1 == k)
      (∃ t, exec (.vecOpError h (.xpbParity buffer)) s = .next t ∧ t.g (.xpb h.val) (F.XPB_ERR_CODE (k % 2)) = 1
        ∧ (h.val * 256 + (35 + k % 2)) ∈ t.lines ∧ tget none t.units (xpbUnit h.val (k % 2)) = none
        ∧ (∀ x, u = some x → t.g (.xpb h.val) (F.XPB_ERR_SLOT (k % 2)) = x.slot % 2 ^ 17)
        ∧ (∀ (a : ArrayId) (q : PassRun), u = none → a.val / 2 = h.val → (s.arrU a.val).passes.find? reads = some q →
            (∀ b, b < a.val → b / 2 = h.val → (s.arrU b).passes.any reads = false) →
            t.g (.xpb h.val) (F.XPB_ERR_SLOT (k % 2)) = q.slot % 2 ^ 17 ∧ ∀ x ∈ (t.arrU a.val).passes, x.begun = false)
        ∧ (u = none → (∀ a : ArrayId, a.val / 2 = h.val → (s.arrU a.val).passes.any reads = false) →
            t.g (.xpb h.val) (F.XPB_ERR_SLOT (k % 2)) = 0)
        ∧ Voids s 5 t ∧ ControlAnd (windows [.xpb h.val, .arr (2 * h.val), .arr (2 * h.val + 1)]) s t)
      ∧ ∀ x, (s.xpb k).load = some x → (s.xpb k).held = true → ∃ t, exec (.vecOpError h (.xpbHeld buffer)) s = .next t
        ∧ t.g (.xpb h.val) (F.XPB_ERR_CODE (k % 2)) = 3 ∧ t.g (.xpb h.val) (F.XPB_ERR_SLOT (k % 2)) = x.1 % 2 ^ 17
        ∧ t.g (.xpb h.val) (F.XPB_HOLD_CYCLES (k % 2)) = min (s.g (.xpb h.val) (F.XPB_HOLD_CYCLES (k % 2))
            + (s.grid.time + 2 ^ 64 - (s.xpb k).since) % 2 ^ 64 * 9 / (5 * 2 ^ 16)) (2 ^ 32 - 1)
        ∧ ((s.xpb k).waiting = [] → (t.xpb k).load = none) ∧ Voids s 5 t ∧ ControlAnd (windows [.xpb h.val]) s t)
  ∧ ∀ (s : State) (h : Shuttle) (u : UnitRun),
    let die : Die := ⟨4 + h.val, by omega⟩
    (tget none s.units (redUnit h.val) = some u →
      (∃ t, exec (.unitSlotComplete die ⟨0x40, some .parity⟩) s = .next t
        ∧ (s.fatalSet = false → t.fatalSet = false → t.g (.red h.val) F.RED_ERR_CODE = 4
            ∧ t.g (.red h.val) F.RED_ERR_SLOT = u.slot % 2 ^ 17)
        ∧ t.g (.red h.val) F.RED_STATUS_BUSY = 0 ∧ tget none t.units (redUnit h.val) = none ∧ (s.ueHits = [] → Voids s 5 t))
      ∧ ∃ t, exec (.unitSlotComplete die ⟨0x40, some .mismatch⟩) s = .next t ∧ t.g (.red h.val) F.RED_ERR_CODE = 5
        ∧ t.g (.red h.val) F.RED_ERR_SLOT = u.slot % 2 ^ 17 ∧ t.fatalSet = true)
    ∧ (tget none s.units (updUnit h.val) = some u →
      (s.g (.upd h.val) F.UPD_STATUS_KIND = 3 → ∃ t, exec (.unitSlotComplete die ⟨0x41, some .parity⟩) s = .next t
        ∧ t.g (.upd h.val) F.UPD_ERR_CODE = 6 ∧ t.g (.upd h.val) F.UPD_ERR_SLOT = u.slot % 2 ^ 17
        ∧ tget none t.units (updUnit h.val) = none ∧ (s.ueHits = [] → Voids s 5 t))
      ∧ (s.g (.upd h.val) F.UPD_STATUS_KIND ≠ 3 → ∃ t, exec (.unitSlotComplete die ⟨0x41, some .parity⟩) s = .next t
        ∧ t.g (.upd h.val) F.UPD_ERR_CODE = 4 ∧ t.g (.upd h.val) F.UPD_ERR_SLOT = u.slot % 2 ^ 17 ∧ t.fatalSet = true)
      ∧ ∃ t, exec (.unitSlotComplete die ⟨0x41, some .mismatch⟩) s = .next t ∧ t.g (.upd h.val) F.UPD_ERR_CODE = 7
        ∧ t.g (.upd h.val) F.UPD_ERR_SLOT = u.slot % 2 ^ 17 ∧ t.fatalSet = true)

/-- The new values of the scale table take effect together: the last statistics of every entry, and after a clean verdict the amax
of the entries that collected at the head of a history of 16 with D by the policy; an unclean one leaves D and history (R162,
R163, R165). -/
def Obligations.ScalesApply : Prop :=
  (∀ s : State, s.scaleJob = none → exec .scaleTableApply s = .next s)
  ∧ ∀ (s : State) (j : ScaleJob), s.scaleJob = some j → ∃ t, exec .scaleTableApply s = .next t
    ∧ t.scaleJob = none ∧ t.stepStat = [] ∧ (∀ h : Hoop, t.g (.vec h.val) F.VEC_SCL_STATUS_RECALC = 0)
    ∧ (∀ i, i < 2048 → (tget {} t.scale i).last = (tget {} j.merged i).stat ∧ (tget {} t.scale i).fmt = (tget {} s.scale i).fmt
        ∧ (j.clean = false → (tget {} t.scale i).d = (tget {} s.scale i).d ∧ (tget {} t.scale i).hist = (tget {} s.scale i).hist)
        ∧ (j.clean = true → (tget {} t.scale i).hist = (if (tget {} j.merged i).collected then
              ((tget {} j.merged i).amax :: (tget {} s.scale i).hist).take 16 else (tget {} s.scale i).hist)
            ∧ (tget {} t.scale i).d = s.scaleD (tget {} t.scale i)))
    ∧ OnlyRegs (regsOf ((List.range 4).map fun h => (.vec h, F.VEC_SCL_STATUS_RECALC)))
        { s with scale := t.scale, stepStat := [], scaleJob := none } t

/-- A pending arm takes effect when its descriptor has no live transfer and a place is free; a buffer slot frees in tile order, once the
consumers this device knows of have taken its last row; a transfer whose last beat lands is over, its slot complete, but one to an
array whose stationary port is not free, which waits there; a copy of one row leaves the source's bytes at the destination and every
other byte as it was (R130, R204, R207, R210 to R212). -/
def Obligations.TransfersRun : Prop :=
  ∀ (s : State) (die : Die) (n : BobbinId),
    (∀ a, s.pendingOn die.val n.val = some a → (∀ y ∈ s.liveOn die.val n.val, y.sameDesc a = false) →
      (s.liveOn die.val n.val).length < 6 →
      ∃ t, exec (.pendingArmEffect die n) s = .next t ∧ { a with phase := .live, actual := s.grid.time } ∈ t.arms
        ∧ t.g (.bob die.val) (F.BOB_ARMS_COUNT n.val) = min (s.g (.bob die.val) (F.BOB_ARMS_COUNT n.val) + 1) (2 ^ 32 - 1)
        ∧ t.g (.bob die.val) (F.BOB_STATUS_LAST_GEN n.val) = a.gen % 2 ^ 8
        ∧ Worked (windows [.bob die.val]) s t ∧ t.mem = s.mem)
    ∧ (∀ (d : ArmId) (gen : BitVec 8) (a : Arm),
      ((s.armsOf die.val n.val d gen.toNat).find? fun a => (a.phase == .live || a.phase == .ended) && decide (a.freed < descTiles a.desc))
        = some a → s.canFree a a.freed = true → (s.landTo a (a.tileBeats a.freed)).2.2 = none → s.badPairs = [] → s.ueHits = [] →
      ∃ t, exec (.bufferSlotFree die n ⟨d, gen⟩) s = .next t
        ∧ (∃ x ∈ t.arms, x.same a = true ∧ x.freed = a.freed + 1 ∧ x.phase = a.phase)
        ∧ (a.tileBeats a.freed ≤ a.beats → t.mem = s.mem)
        ∧ Worked (windows [.bob die.val]) { s with ports := t.ports } t)
    ∧ ∀ (d : ArmId) (gen : BitVec 8) (a : Arm), s.armOf die.val n.val d gen.toNat = some a → descBeats a.desc ≤ s.armLimit a →
      (a.kind = 4 → ∃ x ∈ a.pieces, s.armBytes a ≤ 256 * x.2) → (a.kind = 5 → a.sentTo (s.armBytes a) = true) →
      (s.landTo a (descBeats a.desc)).2.2 = none → s.badPairs = [] → s.ueHits = [] →
      ∃ t, exec (.transferComplete die n ⟨d, gen⟩) s = .next t
        ∧ (a.kind ≠ 2 ∨ (s.arrU (2 * a.die + descArray a.desc)).portFree = true →
            (∃ x ∈ t.arms, x.same a = true ∧ x.phase = .ended)
            ∧ (a.stream = 0x1FFFF → s.lastHostArm a = true →
                t.g (.bob die.val) F.BOB_ARM_STATUS_DONE = 1 ∧ t.g (.bob die.val) F.BOB_ARM_STATUS_BUSY = 0)
            ∧ (∀ r p, s.run = some r → s.img = some p → SlotDone t a.die a.slot))
        ∧ (a.kind = 2 → (s.arrU (2 * a.die + descArray a.desc)).portFree = false →
            (t.arrU (2 * a.die + descArray a.desc)).held = (s.arrU (2 * a.die + descArray a.desc)).held ++ [⟨n.val, a.slot⟩]
            ∧ ∃ x ∈ t.arms, x.same a = true ∧ x.phase = .live)
        ∧ (descBeats a.desc ≤ a.beats → t.mem = s.mem)
        ∧ (Memory.wf s.mem → a.kind = 0 → a.beats = 0 → descRows a.desc = 1 → s.rowSkip a 0 = false →
            ∀ x y, s.srcRuns a 0 0 (descRowBytes a.desc) = some [(x, descRowBytes a.desc)] →
              s.dstRuns a 0 0 (descRowBytes a.desc) = some [(y, descRowBytes a.desc)] →
              t.readMem y (descRowBytes a.desc) = s.readMem x (descRowBytes a.desc)
              ∧ ∀ z, z < y ∨ y + descRowBytes a.desc ≤ z → t.readByte z = s.readByte z)
        ∧ (∃ l, t.run = s.run.map fun r => { r with slots := l })
        ∧ OnlyReports (fun x => clocked x || windows [.bob die.val] x)
            { s with mem := t.mem, arms := t.arms, run := t.run, arrays := t.arrays, ports := t.ports, samplers := t.samplers } t

/-- A beat that faults stops its transfer with the beats before it landed and the fault registers written: a translation fault of its
source or of its destination, or an uncorrectable read, contained for the running step; a parity error of the transfer's own state
stops it with error 6, and those registers stay; a lookup that the transfer does not make faults nothing. A completion that no arm of
the bobbin owns is fatal. A host arm is refused with its reason, or armed like any other (R220, R222, R223, R247). -/
def Obligations.TransferFaults : Prop :=
  (∀ (s : State) (die : Die) (n : BobbinId) (d : ArmId) (gen : BitVec 8) (row : BitVec 24) (beat : BitVec 14) (a : Arm),
    s.armOf die.val n.val d gen.toNat = some a →
    let j := row.toNat * descRowBeats a.desc + beat.toNat
    a.beats ≤ j → j < descBeats a.desc → beat.toNat < descRowBeats a.desc → s.badPairs = [] → s.ueHits = [] →
    (s.landTo a j).2.2 = none → s.fatalSet = false → s.phaseNow ≠ 5 →
    let u := (s.landTo a j).1
    let src := if a.kind = 4 then 0 else u.srcRow a.die a.desc row.toNat + 64 * beat.toNat
    let dpa := if a.kind = 4 then a.bufRow row.toNat + 64 * beat.toNat else (u.xlat a.die false src).getD 0
    let looks := fun write : Bool => if write then a.kind = 0 ∨ a.kind = 4 ∨ a.locals ≠ [] else a.kind ≠ 4
    (∀ x ∈ [(2, src, BeatCause.media), (1, src, .lookup false), (1, dstRow a.desc row.toNat + 64 * beat.toNat, .lookup true)],
      x.2.2 = .media ∨ (∃ write, x.2.2 = .lookup write ∧ looks write) →
      ∃ t, exec (.beatFault die n ⟨d, gen⟩ row beat x.2.2) s = .next t
        ∧ (∃ y ∈ t.arms, y.same a = true ∧ y.phase = .stopped)
        ∧ t.g (.bob die.val) F.BOB_FAULT_VALID = 1 ∧ t.g (.bob die.val) F.BOB_FAULT_CAUSE = x.1
        ∧ t.g (.bob die.val) F.BOB_FAULT_BOBBIN = n.val
        ∧ t.g2 (.bob die.val) F.BOB_FAULT_VA_LO_VA_LO F.BOB_FAULT_VA_HI_VA_HI = x.2.1 % 2 ^ 48
        ∧ t.g (.bob die.val) F.BOB_FAULT_POS_ROW = row.toNat ∧ t.g (.bob die.val) F.BOB_FAULT_STREAM_BEAT = beat.toNat
        ∧ t.g (.bob die.val) F.BOB_FAULT_STREAM_STREAM = a.stream % 2 ^ 17
        ∧ t.g (.bob die.val) (F.BOB_ERR_CODE n.val) = x.1
        ∧ (die.val * 256 + 96) ∈ t.lines ∧ (die.val * 256 + (64 + n.val)) ∈ t.lines
        ∧ Logged s ⟨0x31, 2, die.val, (Blk.bob die.val).index, n.val, x.1, x.2.1 % 2 ^ 48⟩ t
        ∧ (a.stream ≠ 0x1FFFF → x.1 = 1 ∨ memOf dpa ≠ none → Voids s 4 t)
        ∧ (j ≤ a.beats → t.mem = s.mem)
        ∧ ControlAnd (fun x => clocked x || windows [.bob die.val, .str 0, .str 1] x)
            { s with mem := t.mem, badPairs := t.badPairs } t)
    ∧ (∀ write, ¬looks write → ∃ t, exec (.beatFault die n ⟨d, gen⟩ row beat (.lookup write)) s = .next t
        ∧ (∃ y ∈ t.arms, y.same a = true ∧ y.phase = .live ∧ y.beats = (s.landTo a j).2.1.beats) ∧ t.mem = u.mem)
    ∧ ∃ t, exec (.beatFault die n ⟨d, gen⟩ row beat .state) s = .next t
        ∧ (∃ y ∈ t.arms, y.same a = true ∧ y.phase = .stopped) ∧ t.g (.bob die.val) (F.BOB_ERR_CODE n.val) = 6
        ∧ t.g (.bob die.val) F.BOB_FAULT_VALID = s.g (.bob die.val) F.BOB_FAULT_VALID
        ∧ (die.val * 256 + (64 + n.val)) ∈ t.lines
        ∧ Logged s ⟨0x30, 2, die.val, (Blk.bob die.val).index, n.val, 6, a.slot⟩ t ∧ Voids s 5 t
        ∧ ControlAnd (fun x => clocked x || windows [.bob die.val] x) { s with mem := t.mem } t)
  ∧ (∀ (s : State) (die : Die) (n : BobbinId) (d : ArmId) (gen : BitVec 8), s.armsOf die.val n.val d gen.toNat = [] →
    n.val < bobbins die.val →
    ∃ t u, exec (.transferComplete die n ⟨d, gen⟩) s = .next t ∧ OnlyReports (regsOf [(.bob die.val, F.BOB_ERR_CODE n.val)]) s u
      ∧ u.g (.bob die.val) (F.BOB_ERR_CODE n.val) = 7 ∧ WentFatal u die.val 0x0B ((Blk.bob die.val).index * 256 + 7) t)
  ∧ ∀ (s : State) (die : Die), die.val ∈ s.hostGo →
    let n := s.g (.bob die.val) F.BOB_ARM_BOBBIN
    let va := s.g2 (.bob die.val) F.BOB_ARM_VA_LO_VA_LO F.BOB_ARM_VA_HI_VA_HI
    let desc := match walkRange s.pages false va 64 with
      | some rs => if (s.badRuns rs 0).isSome then [] else s.readRuns rs
      | none => []
    let valid := va % 64 = 0 ∧ desc.length = 64 ∧ validCopy desc = true
    let free := n < bobbins die.val → s.pendingOn die.val n = none
    (∀ reason : Nat, (reason = 1 ∧ s.expert = false) ∨ (reason = 2 ∧ s.expert = true ∧ (s.run ≠ none ∨ s.queue ≠ []))
        ∨ s.expert = true ∧ s.run = none ∧ s.queue = [] ∧ ((reason = 3 ∧ ¬free) ∨ (reason = 4 ∧ free ∧ ¬valid)
          ∨ (reason = 5 ∧ valid ∧ bobbins die.val ≤ n) ∨ (reason = 6 ∧ free ∧ valid ∧ die.val = 4 ∧ n = 7)) →
      ∃ t, exec (.hostArm die) s = .next t ∧ die.val ∉ t.hostGo ∧ t.g (.bob die.val) F.BOB_ARM_STATUS_REFUSED = 1
        ∧ t.g (.bob die.val) F.BOB_ARM_STATUS_REASON = reason ∧ t.g (.bob die.val) F.BOB_ARM_STATUS_DONE = 0
        ∧ t.g (.bob die.val) F.BOB_ARM_STATUS_ABORTED = 0 ∧ t.g (.bob die.val) F.BOB_ARM_STATUS_BUSY = 0
        ∧ (die.val * 256 + 97) ∈ t.lines
        ∧ Logged s ⟨0x32, 0, die.val, (Blk.bob die.val).index, n, 1, reason⟩ t
        ∧ OnlyReports (regsOf [(.bob die.val, F.BOB_ARM_STATUS_REFUSED)]) { s with hostGo := t.hostGo } t)
    ∧ (s.expert = true → s.run = none → s.queue = [] → n < bobbins die.val → ¬(die.val = 4 ∧ n = 7) →
      s.pendingOn die.val n = none → valid → descRows desc ≠ 0 →
      (∀ y ∈ s.liveOn die.val n, y.stream ≠ 0x1FFFF) → (s.liveOn die.val n).length < 6 →
      ∃ t, exec (.hostArm die) s = .next t ∧ die.val ∉ t.hostGo
        ∧ (∃ x ∈ t.arms, x.die = die.val ∧ x.bobbin = n ∧ x.desc = desc ∧ x.hostVa = va ∧ x.phase = .live ∧ x.beats = 0)
        ∧ t.g (.bob die.val) F.BOB_ARM_STATUS_BUSY = 1 ∧ t.g (.bob die.val) F.BOB_ARM_STATUS_REFUSED = 0
        ∧ Worked (windows [.bob die.val]) { s with hostGo := t.hostGo } t ∧ t.mem = s.mem)

/-! ### Memory -/

/-- What an HBM3 read or a slow-tier read returns. A clean read reports nothing; a correction is counted and reported; an uncorrectable
one makes its pair bad until it is written whole, is recorded in the unit's registers, and voids a running step or, in phase 5, is
fatal; read for a transfer that is live no more it is counted and reported only, and for a copy of the host port it is left to the
copy. A beat that returns clean has landed; one that returns uncorrectable stops its transfer. Bits that the slow tier delivers wrong
unnoticed are wrong in the package; an update that the slow tier stops has written the records before, not its own nor the later
ones (R229 to R231, R238, R240, R241, R303, R318; the shared package is log entry 50, the model's choice). -/
def Obligations.MemoryReads : Prop :=
  (∀ (s : State) (m : Stack) (dpa : BitVec 48) (x : PairRead), dpa.toNat < 4 * hoopHbm → hbmStack dpa.toNat = m.val →
    let pair := dpa.toNat / 64 * 64
    pair ∉ s.badPairs →
    (∀ r, s.readerArm r = none → isPartial r = false →
      (∀ left, rsDecode x.errs = some (left, 0) → x.dieReport = false → exec (.hbmReadReturn m dpa x r) s = .next s)
      ∧ (∀ left, rsDecode x.errs = some (left, 0) → x.dieReport = true → ∃ t, exec (.hbmReadReturn m dpa x r) s = .next t
        ∧ t.g (.hbm m.val) F.HBM_CE_DIE_COUNT = min (s.g (.hbm m.val) F.HBM_CE_DIE_COUNT + 1) (2 ^ 32 - 1)
        ∧ (m.val ∉ s.ceSeen → Logged s ⟨0x20, 1, (Blk.hbm m.val).die, (Blk.hbm m.val).index, m.val, 1, pair⟩ t)
        ∧ OnlyReports clocked { s with ceSeen := t.ceSeen } t)
      ∧ (∀ left k, rsDecode x.errs = some (left, k + 1) → ∃ t, exec (.hbmReadReturn m dpa x r) s = .next t
        ∧ t.g (.hbm m.val) F.HBM_CE_RS_COUNT = min (s.g (.hbm m.val) F.HBM_CE_RS_COUNT + (k + 1)) (2 ^ 32 - 1)
        ∧ (m.val ∉ s.ceSeen → Logged s ⟨0x20, 1, (Blk.hbm m.val).die, (Blk.hbm m.val).index, m.val, 2, pair⟩ t)
        ∧ OnlyReports clocked { s with ceSeen := t.ceSeen } t))
    ∧ (rsDecode x.errs = none →
      exec (.hbmReadReturn m dpa x .host) s = .next { s with badPairs := s.badPairs ++ [pair] }
      ∧ (∀ (die : Die) (u : BitVec 8) (w : Bool), ∃ t, exec (.hbmReadReturn m dpa x (.unit die u w)) s = .next t
        ∧ pair ∈ t.badPairs ∧ t.g (.hbm m.val) F.HBM_UE_INFO_VALID = 1
        ∧ t.g (.hbm m.val) F.HBM_UE_INFO_SOURCE = (if w then 2 else 1)
        ∧ t.g (.hbm m.val) F.HBM_UE_COUNT_COUNT = min (s.g (.hbm m.val) F.HBM_UE_COUNT_COUNT + 1) (2 ^ 16 - 1)
        ∧ t.g2 (.hbm m.val) F.HBM_UE_ADDR_LO_ADDR_LO F.HBM_UE_ADDR_HI_ADDR_HI = pair
        ∧ (s.phaseNow ≠ 5 → t.g (.hbm m.val) F.HBM_UE_INFO_FATAL = 0
            ∧ t.g (.hbm m.val) F.HBM_UE_INFO_VOIDED = (if s.liveRun.isSome then 1 else 0) ∧ Voids s 4 t)
        ∧ (s.phaseNow = 5 → t.g (.hbm m.val) F.HBM_UE_INFO_FATAL = 1 ∧ t.fatalSet = true)
        ∧ ControlAnd (fun a => clocked a || windows [.upd (die.val - 4)] a) { s with badPairs := t.badPairs } t)
      ∧ ∀ (die : Die) (n : BobbinId) (d : ArmId) (gen : BitVec 8) (w : Bool), s.armOf die.val n.val d gen.toNat = none →
        s.phaseNow ≠ 5 → ∃ t, exec (.hbmReadReturn m dpa x (.bobbin die n d gen w)) s = .next t ∧ pair ∈ t.badPairs
          ∧ t.g (.hbm m.val) F.HBM_UE_COUNT_COUNT = min (s.g (.hbm m.val) F.HBM_UE_COUNT_COUNT + 1) (2 ^ 16 - 1)
          ∧ t.g (.hbm m.val) F.HBM_UE_INFO_VOIDED = 0 ∧ OnlyReports clocked { s with badPairs := t.badPairs } t)
    ∧ ∀ (die : Die) (n : BobbinId) (d : ArmId) (gen : BitVec 8) (a : Arm), s.armOf die.val n.val d gen.toNat = some a →
      s.badPairs = [] → s.ueHits = [] → s.beatAt a dpa.toNat false = some a.beats →
      (Memory.wf s.mem → x.errs = [] → x.dieReport = false → (s.landTo a (a.beats + 1)).2.2 = none →
        (s.landTo a (a.beats + 1)).2.1.beats = a.beats + 1 →
        ∃ t, exec (.hbmReadReturn m dpa x (.bobbin die n d gen false)) s = .next t
          ∧ (∃ y ∈ t.arms, y.same a = true ∧ y.phase = .live ∧ y.beats = a.beats + 1)
          ∧ t.mem = (s.landTo a (a.beats + 1)).1.mem ∧ Worked (windows [.bob die.val]) s t)
      ∧ (rsDecode x.errs = none →
        ∃ t, exec (.hbmReadReturn m dpa x (.bobbin die n d gen false)) s = .next t
          ∧ (∃ y ∈ t.arms, y.same a = true ∧ y.phase = .stopped) ∧ t.g (.bob die.val) F.BOB_FAULT_CAUSE = 2
          ∧ pair ∈ t.badPairs ∧ t.mem = s.mem))
  ∧ ∀ (s : State) (u : Shuttle) (dpa : BitVec 48), memOf dpa.toNat = some (.slow u.val) →
    let p := dpa.toNat / 64 * 64
    (∀ r, s.readerArm r = none → exec (.strReadReturn u dpa (.good false []) r) s = .next s
      ∧ (∃ t, exec (.strReadReturn u dpa (.good true []) r) s = .next t
        ∧ t.g (.str u.val) F.STR_CE_LINK_COUNT = min (s.g (.str u.val) F.STR_CE_LINK_COUNT + 1) (2 ^ 32 - 1)
        ∧ (32 + 32 * u.val + slowChannel dpa.toNat ∉ s.ceSeen →
            Logged s ⟨0x20, 1, (Blk.str u.val).die, (Blk.str u.val).index, slowChannel dpa.toNat, 4, dpa.toNat⟩ t)
        ∧ OnlyReports (fun a => clocked a || regsOf [(.str u.val, F.STR_CE_LINK_COUNT)] a) { s with ceSeen := t.ceSeen } t)
      ∧ ∀ wrong, wrong ≠ [] → Memory.wf s.mem → ∃ t, exec (.strReadReturn u dpa (.good false wrong) r) s = .next t
        ∧ t.readMem p 64 = applyErrs (wrong.map fun x => (x.1.castLE (by decide), x.2)) (s.readMem p 64)
        ∧ (∀ z, z < p ∨ p + 64 ≤ z → t.readByte z = s.readByte z) ∧ t = { s with mem := t.mem })
    ∧ exec (.strReadReturn u dpa .uncorrectable .host) s = .next s
    ∧ (∀ (die : Die) (w : BitVec 8) (b : Bool), s.phaseNow ≠ 5 → w.toNat ≠ 0x41 →
      ∃ t, exec (.strReadReturn u dpa .uncorrectable (.unit die w b)) s = .next t
        ∧ t.g (.str u.val) F.STR_UE_INFO_VALID = 1
        ∧ t.g (.str u.val) F.STR_UE_INFO_READER = readerCode (.unit die w b)
        ∧ t.g (.str u.val) F.STR_UE_COUNT_COUNT = min (s.g (.str u.val) F.STR_UE_COUNT_COUNT + 1) (2 ^ 16 - 1)
        ∧ t.g2 (.str u.val) F.STR_UE_ADDR_LO_ADDR_LO F.STR_UE_ADDR_HI_ADDR_HI = dpa.toNat / 32 * 32
        ∧ Voids s 4 t ∧ ControlAnd (fun a => clocked a || windows [.str u.val] a) s t)
    ∧ (∀ (y : UnitRun), let v := s.updCut u.val dpa.toNat
      v.phaseNow = 5 → v.fatalSet = false → tget none v.units (updUnit u.val) = some y → v.g (.upd u.val) F.UPD_STATUS_KIND ≠ 3 →
      ∃ t, exec (.strReadReturn u dpa .uncorrectable (.unit ⟨4 + u.val, by omega⟩ 0x41 false)) s = .next t
        ∧ t.g (.upd u.val) F.UPD_ERR_CODE = 1 ∧ t.g (.upd u.val) F.UPD_ERR_SLOT = y.slot % 2 ^ 17
        ∧ t.g (.str u.val) F.STR_UE_INFO_FATAL = 1 ∧ t.fatalSet = true ∧ t.mem = v.mem
        ∧ ControlAnd (fun a => clocked a || windows [.str u.val, .upd u.val] a) v t)
    ∧ ∀ (die : Die) (n : BobbinId) (d : ArmId) (gen : BitVec 8) (a : Arm), s.armOf die.val n.val d gen.toNat = some a →
      s.badPairs = [] → s.ueHits = [] → s.beatAt a dpa.toNat false = some a.beats → Memory.wf s.mem →
      (s.landTo a (a.beats + 1)).2.2 = none → (s.landTo a (a.beats + 1)).2.1.beats = a.beats + 1 →
      ∃ t, exec (.strReadReturn u dpa (.good false []) (.bobbin die n d gen false)) s = .next t
        ∧ (∃ y ∈ t.arms, y.same a = true ∧ y.phase = .live ∧ y.beats = a.beats + 1)
        ∧ t.mem = (s.landTo a (a.beats + 1)).1.mem ∧ Worked (windows [.bob die.val]) s t

/-- A stack whose third reading running is missing stands at Heavy, with an event, until one arrives; two readings of 105 °C or more
running are fatal, code 0x08 on every die; any reading sets the temperature and the level of R235 (R237). -/
def Obligations.StackTemperature : Prop :=
  ∀ (s : State) (m : Stack),
    (∀ x : BitVec 8,
      let level := hbmLevel (s.g (.hbm m.val) F.HBM_THERM_CFG_LIGHT_C) (s.g (.hbm m.val) F.HBM_THERM_CFG_HEAVY_C)
        (s.g (.hbm m.val) F.HBM_THERM_CFG_HYST_C)
        (if s.gb (.hbm m.val) F.HBM_STATUS_NO_TEMP then 0 else s.g (.hbm m.val) F.HBM_STATUS_LEVEL) x.toNat
      ∃ t, exec (.hbmTempRead m (some x)) s = .next t ∧ t.g (.hbm m.val) F.HBM_STATUS_TEMP = x.toNat
        ∧ t.g (.hbm m.val) F.HBM_STATUS_NO_TEMP = 0 ∧ t.g (.hbm m.val) F.HBM_STATUS_LEVEL = level
        ∧ tget 0 t.hbmMiss m.val = 0
        ∧ (level ≠ s.g (.hbm m.val) F.HBM_STATUS_LEVEL → (m.val / 6 * 256 + (106 + m.val % 6)) ∈ t.lines
            ∧ Logged s ⟨0x22, 0, (Blk.hbm m.val).die, (Blk.hbm m.val).index, m.val, level, x.toNat * 256⟩ t)
        ∧ (x.toNat < 105 → t.fatalSet = s.fatalSet)
        ∧ ControlAnd (windows [.hbm m.val]) { s with hbmMiss := t.hbmMiss, hbmHot := t.hbmHot } t)
    ∧ (∀ (x y : BitVec 8) (u : State), 105 ≤ x.toNat → 105 ≤ y.toNat → tget 0 s.hbmHot m.val = 0 →
      exec (.hbmTempRead m (some x)) s = .next u → ∃ t, exec (.hbmTempRead m (some y)) u = .next t ∧ t.fatalSet = true
        ∧ ∀ d : Die, s.gb (.irq d.val) F.IRQ_FATAL_VALID = false → t.g (.irq d.val) F.IRQ_FATAL_CODE = 0x08)
    ∧ (∃ t, exec (.hbmTempRead m none) s = .next t ∧ tget 0 t.hbmMiss m.val = min (tget 0 s.hbmMiss m.val + 1) 3
        ∧ (tget 0 s.hbmMiss m.val ≠ 2 → t.g (.hbm m.val) F.HBM_STATUS_LEVEL = s.g (.hbm m.val) F.HBM_STATUS_LEVEL)
        ∧ ControlAnd (windows [.hbm m.val]) { s with hbmMiss := t.hbmMiss, hbmHot := t.hbmHot } t)
    ∧ ∀ u v : State, tget 0 s.hbmMiss m.val = 0 → exec (.hbmTempRead m none) s = .next u →
      exec (.hbmTempRead m none) u = .next v → ∃ t, exec (.hbmTempRead m none) v = .next t
        ∧ t.g (.hbm m.val) F.HBM_STATUS_NO_TEMP = 1 ∧ t.g (.hbm m.val) F.HBM_STATUS_LEVEL = 2
        ∧ Logged s ⟨0x22, 0, (Blk.hbm m.val).die, (Blk.hbm m.val).index, m.val, 2,
            1 + s.g (.hbm m.val) F.HBM_STATUS_TEMP * 256⟩ t

/-- Scrub moves on one pair or word a time and wraps; a pair that its code corrects is written back as corrected, right or wrong, and
counted; one that it cannot correct, or a word of SRAM, is recorded, bad from then on, and voids a running step where a pinned page
covers it. A unit's own read of SRAM is corrected and counted, or, uncorrectable, voids the step or in phase 5 is fatal. Refresh
indications set MR4_MAX and REFRESH, and an overheated package is fatal (R229, R232, R238, R242, R243). -/
def Obligations.ScrubAndRefresh : Prop :=
  (∀ (s : State) (m : Stack) (x : PairRead),
    let a := tget 0 s.scrubPos m.val
    let d := hbmDpa m.val a
    let next := if a + 64 ≥ 0x600000000 then 0 else a + 64
    let passes := min (s.g (.hbm m.val) F.HBM_SCRUB_PASSES + if a + 64 ≥ 0x600000000 then 1 else 0) (2 ^ 16 - 1)
    d / 64 * 64 ∉ s.badPairs →
    (∀ left, rsDecode x.errs = some (left, 0) → x.dieReport = false → ∃ t, exec (.hbmScrub m x) s = .next t
      ∧ tget 0 t.scrubPos m.val = next ∧ t.g (.hbm m.val) F.HBM_SCRUB_PASSES = passes
      ∧ OnlyRegs (regsOf [(.hbm m.val, F.HBM_SCRUB_PASSES)]) { s with scrubPos := t.scrubPos } t)
    ∧ (∀ left k, rsDecode x.errs = some (left, k + 1) → Memory.wf s.mem → ∃ t, exec (.hbmScrub m x) s = .next t
      ∧ tget 0 t.scrubPos m.val = next ∧ t.g (.hbm m.val) F.HBM_SCRUB_PASSES = passes
      ∧ t.g (.hbm m.val) F.HBM_CE_RS_COUNT = min (s.g (.hbm m.val) F.HBM_CE_RS_COUNT + (k + 1)) (2 ^ 32 - 1)
      ∧ t.readMem d 64 = applyErrs left (s.readMem d 64) ∧ (∀ z, z < d ∨ d + 64 ≤ z → t.readByte z = s.readByte z)
      ∧ OnlyReports clocked { s with scrubPos := t.scrubPos, ceSeen := t.ceSeen, mem := t.mem } t)
    ∧ (rsDecode x.errs = none → a < 0x600000000 → ∃ t, exec (.hbmScrub m x) s = .next t ∧ tget 0 t.scrubPos m.val = next
      ∧ d / 64 * 64 ∈ t.badPairs ∧ t.g (.hbm m.val) F.HBM_UE_INFO_SOURCE = 3 ∧ t.g (.hbm m.val) F.HBM_UE_INFO_FATAL = 0
      ∧ (s.pinned d = true → Voids s 4 t)
      ∧ ControlAnd clocked { s with scrubPos := t.scrubPos, badPairs := t.badPairs } t))
  ∧ (∀ (s : State) (die : Die),
    let a := tget 0 s.scrubPos (24 + die.val)
    let next := if a + 8 ≥ dieSramSize die.val then 0 else a + 8
    (dieSram die.val + a ∉ s.badPairs →
      (∃ t, exec (.sramScrub die (.scrub .clean)) s = .next t ∧ tget 0 t.scrubPos (24 + die.val) = next
        ∧ t = { s with scrubPos := t.scrubPos })
      ∧ (∃ t, exec (.sramScrub die (.scrub .corrected)) s = .next t ∧ tget 0 t.scrubPos (24 + die.val) = next
        ∧ Logged s ⟨0x20, 1, die.val, 0, 0, 3, a⟩ t ∧ OnlyReports clocked { s with scrubPos := t.scrubPos } t)
      ∧ (a < dieSramSize die.val → a % 8 = 0 → ∃ t, exec (.sramScrub die (.scrub .uncorrectable)) s = .next t
        ∧ tget 0 t.scrubPos (24 + die.val) = next ∧ dieSram die.val + a ∈ t.badPairs
        ∧ (s.pinned (dieSram die.val + a) = true → Voids s 4 t)
        ∧ ControlAnd clocked { s with scrubPos := t.scrubPos, badPairs := t.badPairs } t))
    ∧ ∀ (off : BitVec 28) (u : BitVec 8), off.toNat < dieSramSize die.val →
      let w := off.toNat / 8 * 8
      exec (.sramScrub die (.unit off u .clean)) s = .next s
      ∧ (∃ t, exec (.sramScrub die (.unit off u .corrected)) s = .next t ∧ Logged s ⟨0x20, 1, die.val, 0, 0, 3, w⟩ t
          ∧ OnlyReports clocked s t)
      ∧ ∃ t, exec (.sramScrub die (.unit off u .uncorrectable)) s = .next t ∧ dieSram die.val + w ∈ t.badPairs
          ∧ (s.phaseNow ≠ 5 → Voids s 4 t) ∧ (s.phaseNow = 5 → t.fatalSet = true)
          ∧ ControlAnd (fun x => clocked x || windows [.red (die.val - 4), .upd (die.val - 4)] x)
              { s with badPairs := t.badPairs } t)
  ∧ ∀ (s : State) (u : Shuttle) (mr4 : BitVec 64),
    let vs := (List.range 8).map fun i => mr4.toNat / 256 ^ i % 256
    ∃ t, exec (.strMr4Read u mr4) s = .next t ∧ (∀ v ∈ vs, v ≤ t.g (.str u.val) F.STR_STATUS_MR4_MAX)
      ∧ t.g (.str u.val) F.STR_STATUS_MR4_MAX ∈ vs
      ∧ t.gb (.str u.val) F.STR_STATUS_REFRESH = vs.any (fun v => mr4Fast v || mr4Hot v)
      ∧ ((∃ v ∈ vs, mr4Hot v = true) → t.fatalSet = true) ∧ ((∀ v ∈ vs, mr4Hot v = false) → t.fatalSet = s.fatalSet)
      ∧ ControlAnd (windows [.str u.val]) s t

/-! ### Nirid ports and bridges -/

/-- A port trains in order: signal on every lane; 16 valid TRAIN sets with ACK on every lane, in the straight or the reversed order
(2.0 where both ends offer it, else 1.0, precoded where both ask); FEC lock on every lane; deskew to at most 20 ns, at 2.0 with the
frames aligned to slot starts; and at 2.0 eight delay exchanges. Then it is UP with 192 credits and sequence numbers from 1, the
lanes' delays kept. A stage that is not at its end stays. At 1.0 the figure of NIR_DELAY comes with the event (log entry 38, the
model's reading). A valid TRAIN set tells who the partner is, what it offers and which of its lanes is heard; each frame sends one
on every lane, with this port's identity, its lane and what it offers (R251, R252, R267, R271 to R273). -/
def Obligations.PortTraining : Prop :=
  ∀ (s : State) (p : Port),
    let u := s.portU p.val
    let seen := ∀ l : Fin 8, 16 ≤ tget 0 u.caps l.val
    let order := fun r : Bool => ∀ l : Fin 8, tget 0 u.lanes l.val = if r then 8 - l.val else l.val + 1
    (s.portState p.val = 2 → ∃ t, exec (.trainSignalDetect p) s = .next t ∧ t.portState p.val = 3
      ∧ (t.portU p.val).caps = [] ∧ (t.portU p.val).lanes = []
      ∧ t = { s.p (.nir p.val) F.NIR_STATUS_STATE 3 with ports := t.ports })
    ∧ (∀ r, s.portState p.val = 3 → seen → order r → ∃ t, exec (.trainCapsDone p) s = .next t
        ∧ t.portState p.val = (if u.maxVer = 2 ∧ 0x20 ≤ s.g (.nir p.val) F.NIR_PEER_INFO_MAX_VER then 4 else 5)
        ∧ t.gb (.nir p.val) F.NIR_STATUS_REVERSED = r ∧ (t.portU p.val).precoded = (u.askPre && u.precode)
        ∧ OnlyRegs (regsOf [(.nir p.val, F.NIR_STATUS_STATE)]) { s with ports := t.ports } t)
    ∧ (s.portState p.val = 3 → ¬(seen ∧ ∃ r, order r) → exec (.trainCapsDone p) s = .next s)
    ∧ (s.portState p.val = 4 ∨ s.portState p.val = 5 → ∃ t, exec (.trainEqDone p) s = .next t ∧ t.portState p.val = 6
        ∧ t.g (.nir p.val) F.NIR_STATUS_VER = (if s.portState p.val = 4 then 2 else 1)
        ∧ t.g (.nir p.val) F.NIR_STATUS_LANE_LOCK = 0xFF
        ∧ t.g (.nir p.val) F.NIR_STATUS_FALLBACK = s.g (.nir p.val) F.NIR_STATUS_FALLBACK
        ∧ OnlyRegs (regsOf [(.nir p.val, F.NIR_STATUS_STATE)]) s t)
    ∧ (∀ (framed : Bool) (skew : BitVec 16), s.portState p.val = 6 →
        let aligned := skew.toNat ≤ 20 * 256 ∧ (s.g (.nir p.val) F.NIR_STATUS_VER = 2 → framed = true)
        (aligned → ∃ t, exec (.trainAlignDone p framed skew) s = .next t ∧ t.portState p.val = 7
          ∧ t.g (.nir p.val) F.NIR_SKEW_SKEW = skew.toNat
          ∧ t.g (.nir p.val) F.NIR_STATUS_VER = s.g (.nir p.val) F.NIR_STATUS_VER
          ∧ OnlyRegs (regsOf [(.nir p.val, F.NIR_STATUS_STATE), (.nir p.val, F.NIR_SKEW_SKEW)]) s t)
        ∧ (¬aligned → exec (.trainAlignDone p framed skew) s = .next s))
    ∧ (∀ delay : BitVec 24, s.portState p.val = 7 →
        (s.g (.nir p.val) F.NIR_STATUS_VER ≠ 2 ∨ 8 ≤ u.delays.length → ∃ t, exec (.trainDelayDone p delay) s = .next t
          ∧ t.portState p.val = 8 ∧ t.g (.nir p.val) F.NIR_CTL_CREDITS = 192 ∧ (t.portU p.val).delays = u.delays
          ∧ t.g (.nir p.val) F.NIR_DELAY_DELAY
              = (if s.g (.nir p.val) F.NIR_STATUS_VER = 2 then s.g (.nir p.val) F.NIR_DELAY_DELAY else delay.toNat)
          ∧ (t.portU p.val).nextSeq = 1 ∧ (t.portU p.val).rxSeq = 0
          ∧ ControlAnd (regsOf [(.nir p.val, F.NIR_STATUS_STATE), (.nir p.val, F.NIR_CTL_CREDITS), (.nir p.val, F.NIR_DELAY_DELAY)])
              s t)
        ∧ (s.g (.nir p.val) F.NIR_STATUS_VER = 2 → u.delays.length < 8 → exec (.trainDelayDone p delay) s = .next s))
    ∧ (∀ (lane : Fin 8) (os : OrdSet) (x : Train), 2 ≤ s.portState p.val → s.portState p.val ≠ 8 → decTrain os = some x →
        ∃ t, exec (.trainReceive p lane os) s = .next t
          ∧ t.g2 (.nir p.val) F.NIR_PEER_LO_ID_LO F.NIR_PEER_HI_ID_HI = x.identity
          ∧ t.g (.nir p.val) F.NIR_PEER_INFO_MAX_VER = x.maxVer ∧ t.g (.nir p.val) F.NIR_PEER_INFO_FWD_SLOTS = x.fwdSlots
          ∧ t.g (.nir p.val) F.NIR_STATUS_PEER_SWITCH = x.switch.toNat ∧ t.portState p.val = s.portState p.val
          ∧ (t.portU p.val).precode = x.precode ∧ tget 0 (t.portU p.val).lanes lane.val = x.lane + 1
          ∧ tget 0 (t.portU p.val).caps lane.val
              = (if x.ack then min 16 (tget 0 (s.portU p.val).caps lane.val + 1) else 0)
          ∧ OnlyRegs (regsOf [(.nir p.val, F.NIR_PEER_LO_ID_LO), (.nir p.val, F.NIR_PEER_HI_ID_HI),
              (.nir p.val, F.NIR_PEER_INFO_MAX_VER), (.nir p.val, F.NIR_STATUS_PEER_SWITCH)]) { s with ports := t.ports } t)
    ∧ ∀ (j : BitVec 16) (l : Fin 8), 2 ≤ s.portState p.val → s.portState p.val < 8 → u.closing = none →
        ∃ t, exec (.frameTransmit p j) s = .next t
          ∧ Out.train p.val l.val (encTrain { state := s.portState p.val, maxVer := u.maxVer * 16, precode := u.askPre
                                              ack := (List.range 8).all fun i => tget 0 u.lanes i != 0, switch := false
                                              identity := s.g2 .dev F.DEV_SERIAL_LO_SERIAL_LO F.DEV_SERIAL_HI_SERIAL_HI
                                                + p.val * 2 ^ 56
                                              fwdSlots := 0, lane := l.val }) ∈ t.out
          ∧ OnlyRegs clocked { s with ports := t.ports, out := t.out, lines := t.lines } t

/-- A stage that times out takes the port to DOWN with its reason, the equalisation only at the third failure of 1.0; the third of
2.0 falls back to 1.0 (R272, R275). At expert level GO starts training from DOWN, with MAX_VER and PRECODE as they stand, and STOP
takes a port that trains or is UP to DOWN with reason 1; GO in any other state is ignored (R272, R274, R278). -/
def Obligations.TrainingTimeoutsGoStop : Prop :=
  (∀ (s : State) (p : Port),
    (s.portState p.val = 2 → ∃ t, exec (.trainDetectTimeout p) s = .next t ∧ WentDown s p.val 2 0 1 t)
    ∧ (s.portState p.val = 3 → ∃ t, exec (.trainCapsTimeout p) s = .next t ∧ WentDown s p.val 3 0 1 t)
    ∧ (s.portState p.val = 6 → ∃ t, exec (.trainAlignTimeout p) s = .next t ∧ WentDown s p.val 5 0 1 t)
    ∧ (s.portState p.val = 4 ∨ s.portState p.val = 5 → (s.portU p.val).eqTries < 2 →
        ∃ t, exec (.trainEqTimeout p) s = .next t ∧ (t.portU p.val).eqTries = (s.portU p.val).eqTries + 1
          ∧ t = { s with ports := t.ports })
    ∧ (s.portState p.val = 4 → 2 ≤ (s.portU p.val).eqTries →
        ∃ t, exec (.trainEqTimeout p) s = .next t ∧ t.portState p.val = 5 ∧ t.g (.nir p.val) F.NIR_STATUS_FALLBACK = 1
          ∧ (t.portU p.val).eqTries = 0
          ∧ OnlyRegs (regsOf [(.nir p.val, F.NIR_STATUS_STATE)]) { s with ports := t.ports } t)
    ∧ (s.portState p.val = 5 → 2 ≤ (s.portU p.val).eqTries →
        ∃ t, exec (.trainEqTimeout p) s = .next t ∧ WentDown s p.val 4 0 1 t))
  ∧ (∀ (s : State) (p : Port), s.hostUp = true → s.fatalSet = false → s.ready = true → s.expert = true →
    (s.portState p.val = 1 → ∃ t, exec (.nirTrainGo p) s = .next t ∧ t.portState p.val = 2
      ∧ (t.portU p.val).maxVer = s.g (.nir p.val) F.NIR_CTRL_MAX_VER ∧ (t.portU p.val).askPre = s.gb (.nir p.val) F.NIR_CTRL_PRECODE
      ∧ t.g (.nir p.val) F.NIR_STATUS_FALLBACK = 0
      ∧ t.g (.nir p.val) F.NIR_DOWN_REASON = s.g (.nir p.val) F.NIR_DOWN_REASON
      ∧ OnlyRegs (regsOf [(.nir p.val, F.NIR_STATUS_STATE)]) { s with ports := t.ports } t)
    ∧ (s.portState p.val ≠ 1 → exec (.nirTrainGo p) s = .next s)
    ∧ (2 ≤ s.portState p.val → ∃ t, exec (.nirStop p) s = .next t ∧ WentDown s p.val 1 0 1 t)
    ∧ (s.portState p.val ≤ 1 → exec (.nirStop p) s = .next s))

/-- A port that is UP goes down when a lane loses FEC lock, the lanes lose deskew, an error limit is reached or the partner says
PORT_DOWN, each with its reason and lane, and closes for 1 µs (R274, R275); a port that is not UP takes no notice of the first
three. -/
def Obligations.PortFailures : Prop :=
  ∀ (s : State) (p : Port),
    (s.portUp p.val = true →
      (∀ lane : Fin 8, ∃ t, exec (.laneLockLoss p lane) s = .next t ∧ WentDown s p.val 6 lane.val 1 t
        ∧ (t.portU p.val).closing = some ((s.grid.time + nsT 1000) % 2 ^ 64, s.g (.nir p.val) F.NIR_STATUS_VER))
      ∧ (∃ t, exec (.deskewLoss p) s = .next t ∧ WentDown s p.val 0xB 0 1 t)
      ∧ (∃ t, exec (.fecErrorLimit p none) s = .next t ∧ WentDown s p.val 7 0 1 t)
      ∧ (∀ lane : Fin 8, ∃ t, exec (.fecErrorLimit p (some lane)) s = .next t ∧ WentDown s p.val 8 lane.val 1 t)
      ∧ ∀ (os : OrdSet) (bs : List Byte), osRx os = .set 7 bs → (osOf 7 os).isSome = true → (s.portU p.val).lastOs ≠ bs →
          ∃ t, exec (.portDownReceive p os) s = .next t ∧ WentDown s p.val 0xA 0 1 t)
    ∧ (s.portUp p.val = false → (∀ lane, exec (.laneLockLoss p lane) s = .next s) ∧ exec (.deskewLoss p) s = .next s
        ∧ ∀ lane, exec (.fecErrorLimit p lane) s = .next s)

/-- A port that is UP sends a frame in each slot. At 2.0: 50 positions, a SLOT_CHECK over them and at most seven ordered sets; without a
scheduled LINK_SEND every position carries control; with one, each position whose piece has landed carries it and its MAP bit. At 1.0:
24 positions and at most three sets, SLOT, KNOT and MAP 0. In the fail-safe state every place carries FAULT, in the 1 µs of a port that
goes down PORT_DOWN, and the positions are NULL. Credits go back once. A port that is DISABLED or DOWN sends nothing. A control flit at
a port that is UP is taken only with the next SEQ: it is acknowledged by it and returns one credit. One that fails its CRC, or skips a
number, sets NAK, is counted and changes nothing else; the three commands take the same flit and differ in its message (R254 to R256,
R259, R261 to R263, R269, R270, R274, R276). -/
def Obligations.FramesSentFlitsInOrder : Prop :=
  (∀ (s : State) (p : Port) (j : BitVec 16),
    let u := s.portU p.val
    let check := fun (ver map : Nat) (flits : List (List Byte)) =>
      let crc := crc32 flits.flatten
      encSlotCheck (if ver = 2 then ⟨j.toNat, s.grid.knot, map, crc, u.rxSeq, min u.credit 192, u.nak⟩
        else ⟨0, 0, 0, crc, u.rxSeq, min u.credit 192, u.nak⟩)
    let full := fun (ver : Nat) (os : List Byte) (t : State) =>
      let flits := List.replicate (positionsOf ver) (encCtl 0 .null)
      t.out = List.replicate (placesOf ver) (Out.ordSet p.val os) ++ Out.frame p.val j.toNat flits (check ver 0 flits) :: s.out
        ∧ (t.portU p.val).credit = u.credit - min u.credit 192
        ∧ OnlyRegs clocked { s with ports := t.ports, out := t.out, lines := t.lines } t
    (s.portUp p.val = true → u.closing = none → s.fatalSet = false →
      (∀ ver, ver = s.g (.nir p.val) F.NIR_STATUS_VER → ver ≠ 2 ∨ (s.sendRun p.val s.grid.knot j.toNat).2 = none →
        ∃ t, ∃ flits : List (List Byte), exec (.frameTransmit p j) s = .next t ∧ flits.length = positionsOf ver
        ∧ Out.frame p.val j.toNat flits (check ver 0 flits) ∈ t.out ∧ t.out.length ≤ s.out.length + 1 + placesOf ver
        ∧ (t.portU p.val).credit = u.credit - min u.credit 192
        ∧ OnlyRegs (fun a => clocked a || windows [.nir p.val] a) { s with ports := t.ports, out := t.out, lines := t.lines } t)
      ∧ ∀ l a f, s.g (.nir p.val) F.NIR_STATUS_VER = 2 → (s.sendRun p.val s.grid.knot j.toNat).2 = some (l, a, f) →
        ∃ t, ∃ flits : List (List Byte), ∃ map : Nat, exec (.frameTransmit p j) s = .next t ∧ flits.length = 50
        ∧ Out.frame p.val j.toNat flits (check 2 map flits) ∈ t.out
        ∧ ∀ q : Fin 50, 256 * (f * 50 + q.val) < l.bytes → ∀ x,
            (s.sendRun p.val s.grid.knot j.toNat).1.sendPiece a l.bytes (f * 50 + q.val) = some x →
            flits.getD q.val [] = x ∧ bit map q.val = true)
    ∧ (s.portUp p.val = true → u.closing = none → s.fatalSet = true → leAt s.faultOs 0 1 = 5 →
      ∃ t, exec (.frameTransmit p j) s = .next t ∧ full (s.g (.nir p.val) F.NIR_STATUS_VER) s.faultOs t)
    ∧ (∀ last ver, u.closing = some (last, ver) →
      (timeBefore last s.grid.time = false → ∃ t, exec (.frameTransmit p j) s = .next t
        ∧ full ver (encPortDown (s.g (.nir p.val) F.NIR_DOWN_REASON)) t)
      ∧ (timeBefore last s.grid.time = true → ∃ t, exec (.frameTransmit p j) s = .next t ∧ (t.portU p.val).closing = none
        ∧ t = { s with ports := t.ports }))
    ∧ (u.closing = none → s.portState p.val < 2 → exec (.frameTransmit p j) s = .next s))
  ∧ (∀ (s : State) (p : Port) (flit : CtlFlit), s.portUp p.val = true → s.fatalSet = false →
    ∃ t, exec (.controlFlitReceive p flit) s = .next t ∧ exec (.joinReport p flit) s = .next t
      ∧ exec (.releaseReceive p flit) s = .next t
      ∧ (∀ seq m, decCtl flit = some (seq, m) → m ≠ .null → seq = ((s.portU p.val).rxSeq + 1) % 65536 →
          (t.portU p.val).rxSeq = seq ∧ (t.portU p.val).credit = (s.portU p.val).credit + 1 ∧ (t.portU p.val).nak = false
          ∧ (∀ id r e h b path, m = .joinReport id r e h b path → s.isRoot = true →
              t.grid.members.getLast? = some ⟨id, b, path⟩ ∧ t.grid.backupId = backupOf t.grid.members)
          ∧ (∀ n, m = .other n → (t.portU p.val).badMsg = (s.portU p.val).badMsg + 1))
      ∧ ((decCtl flit = none ∨ ∃ seq m, decCtl flit = some (seq, m) ∧ m ≠ .null ∧ seq ≠ ((s.portU p.val).rxSeq + 1) % 65536
            ∧ seqBefore seq ((s.portU p.val).rxSeq + 1) = false) →
          (t.portU p.val).nak = true ∧ (t.portU p.val).ctlErrs = (s.portU p.val).ctlErrs + 1 ∧ t = { s with ports := t.ports }))

/-- Every frame adds its corrected and its uncorrectable codewords, and the symbols found wrong on each lane, to the port's counters; more
than UE_LIMIT uncorrectable codewords, or 256 × SER_LIMIT symbols of a lane, within 1 ms take the port down. With a sound SLOT_CHECK,
no NAK and no error the credits it returns are added. A frame that a LINK_RECV expects lands its pieces in the buffer, or, with an
uncorrectable codeword, a wrong CRC or MAP, shows error 1, 2 or 3 and lands nothing; one that nothing expects shows error 6 in a step,
is counted outside one, and is no error of a voided step (R253, R255, R259, R260, R262, R274, R276). -/
def Obligations.FramesReceived : Prop :=
  ∀ (s : State) (p : Port) (f : RxFrame), s.portUp p.val = true →
    let now := s.grid.time
    let b := Blk.nir p.val
    let recent := (s.portU p.val).fecErrs.filter fun e => decide ((now + 2 ^ 64 - e.1 % 2 ^ 64) % 2 ^ 64 < nsT 1000000)
    let lost := recent.foldl (fun n e => n + e.2.1) (rxLost f)
    let wrong := fun l : Nat => recent.foldl (fun n e => n + e.2.2.getD l 0) (rxSymbols f l)
    let fine := rxFixed f + rxLost f = 0 ∨ lost ≤ s.g b F.NIR_CTRL_UE_LIMIT
      ∧ ∀ l : Fin 8, wrong l.val ≤ s.g b F.NIR_CTRL_SER_LIMIT * 256
    ∃ t, exec (.frameReceive p f) s = .next t
      ∧ t.g b F.NIR_FEC_CORR_COUNT = min (s.g b F.NIR_FEC_CORR_COUNT + rxFixed f) (2 ^ 32 - 1)
      ∧ t.g b F.NIR_FEC_UE_COUNT = min (s.g b F.NIR_FEC_UE_COUNT + rxLost f) (2 ^ 32 - 1)
      ∧ (∀ l : Fin 8, t.g b (F.NIR_SYM_ERR_COUNT l.val) = min (s.g b (F.NIR_SYM_ERR_COUNT l.val) + rxSymbols f l.val) (2 ^ 32 - 1))
      ∧ (rxFixed f + rxLost f ≠ 0 → s.g b F.NIR_CTRL_UE_LIMIT < lost →
          t.portState p.val = 1 ∧ t.g b F.NIR_DOWN_REASON = 7 ∧ t.mem = s.mem)
      ∧ (∀ l : Fin 8, rxFixed f + rxLost f ≠ 0 → lost ≤ s.g b F.NIR_CTRL_UE_LIMIT →
          s.g b F.NIR_CTRL_SER_LIMIT * 256 < wrong l.val → (∀ k < l.val, wrong k ≤ s.g b F.NIR_CTRL_SER_LIMIT * 256) →
          t.portState p.val = 1 ∧ t.g b F.NIR_DOWN_REASON = 8 ∧ t.g b F.NIR_DOWN_LANE = l.val ∧ t.mem = s.mem)
      ∧ ∀ c, fine → rxCheck (s.g b F.NIR_STATUS_VER) f = some c → c.nak = false →
        (s.links = [] → s.run = none → rxLost f = 0 → crc32 f.flits.flatten = c.crc → c.map = 0 →
          t.portState p.val = 8 ∧ t.g b F.NIR_CTL_CREDITS = min 192 (s.g b F.NIR_CTL_CREDITS + c.credit)
          ∧ t.g b F.NIR_SLOT_ERR_CODE = s.g b F.NIR_SLOT_ERR_CODE
          ∧ OnlyRegs (fun a => clocked a || windows [.nir p.val] a) { s with ports := t.ports, lines := t.lines } t)
        ∧ (s.g b F.NIR_STATUS_VER = 2 → s.gb b F.NIR_STATUS_FOREIGN = false →
          (∀ l a i, s.linkAt p.val false c.knot c.slot = some (l, a, i) →
            let n := min 50 (ceilDiv l.bytes 256 - i * 50)
            let code := if rxLost f ≠ 0 then 1 else if crc32 f.flits.flatten ≠ c.crc then 2 else if c.map ≠ expectMap l i then 3 else 0
            (code ≠ 0 → t.g b F.NIR_SLOT_ERR_CODE = code ∧ t.g b F.NIR_SLOT_ERR_SLOT = c.slot % 2 ^ 16
              ∧ t.g2 b F.NIR_SLOT_ERR_KNOT_LO_KNOT_LO F.NIR_SLOT_ERR_KNOT_HI_KNOT_HI = c.knot % 2 ^ 48
              ∧ (portDie p.val * 256 + (116 + portIdx p.val)) ∈ t.lines ∧ Voids s 5 t ∧ t.mem = s.mem)
            ∧ (code = 0 → 1 ≤ l.bytes → (min l.bytes (256 * (i * 50 + n)) - 1) / descRowBytes a.desc / descTileRows a.desc
                  < a.freed + descLook a.desc + 1 → 0 < descRowBytes a.desc → 0 < descTileRows a.desc →
                s.badPairs = [] → s.ueHits = [] →
                t.g b F.NIR_SLOT_ERR_CODE = s.g b F.NIR_SLOT_ERR_CODE
                ∧ t.g b F.NIR_SCHED_RX_COUNT = min (s.g b F.NIR_SCHED_RX_COUNT + n) (2 ^ 32 - 1)
                ∧ (∃ y ∈ t.arms, y.same a = true ∧ i * 50 + n ≤ tget 0 y.pieces p.val)
                ∧ (Memory.wf s.mem → i = 0 → l.bytes ≤ 256 → descRowBytes a.desc = l.bytes → (f.flits.getD 0 []).length = 256 →
                    t.readMem (a.bufRow 0) l.bytes = (f.flits.getD 0 []).take l.bytes
                    ∧ ∀ z, z < a.bufRow 0 ∨ a.bufRow 0 + l.bytes ≤ z → t.readByte z = s.readByte z)))
          ∧ (s.linkAt p.val false c.knot c.slot = none → rxLost f = 0 → crc32 f.flits.flatten = c.crc → c.map ≠ 0 →
            t.mem = s.mem
            ∧ (s.liveRun.isSome = true → t.g b F.NIR_SLOT_ERR_CODE = 6 ∧ Voids s 5 t)
            ∧ (s.run = none → (t.portU p.val).strayFrames = (s.portU p.val).strayFrames + 1
                ∧ Logged s ⟨0x30, 2, b.die, b.index, p.val, 6, c.slot⟩ t)
            ∧ (s.liveRun = none → t.g b F.NIR_SLOT_ERR_CODE = s.g b F.NIR_SLOT_ERR_CODE ∧ t.run = s.run)))

/-- A LINK_RECV whose SLOT_CHECK has not come by the end of the next slot, in the knot before where its slot was that knot's last:
NIR_SLOT_ERR takes code 4, the slot and the knot, and the port's slot-error line is raised; where nothing is owed, nothing changes
(R276). A FAULT at a port that is UP, not a repeat of the set before: PEER_FAULT is set, its line raised and its PEER_FAULT event
logged with the code, the rank and the die that the set carries (R269, R276). -/
def Obligations.SlotCheckAndPeerFault : Prop :=
  (∀ (s : State) (p : Port) (j : BitVec 16),
    let old := (s.grid.knot + 2 ^ 48 - 1) % 2 ^ 48
    (∀ knot x, (knot = old ∨ knot = s.grid.knot ∧ s.linkAt p.val false old j.toNat = none) →
      s.linkAt p.val false knot j.toNat = some x →
      ∃ t, exec (.slotCheckTimeout p j) s = .next t ∧ t.g (.nir p.val) F.NIR_SLOT_ERR_CODE = 4
        ∧ t.g (.nir p.val) F.NIR_SLOT_ERR_SLOT = j.toNat
        ∧ t.g2 (.nir p.val) F.NIR_SLOT_ERR_KNOT_LO_KNOT_LO F.NIR_SLOT_ERR_KNOT_HI_KNOT_HI = knot % 2 ^ 48
        ∧ (portDie p.val * 256 + (116 + portIdx p.val)) ∈ t.lines ∧ Voids s 5 t
        ∧ t.portState p.val = s.portState p.val ∧ t.mem = s.mem)
    ∧ (s.linkAt p.val false old j.toNat = none → s.linkAt p.val false s.grid.knot j.toNat = none →
      exec (.slotCheckTimeout p j) s = .next s))
  ∧ (∀ (s : State) (p : Port) (os : OrdSet) (ty : Nat) (bs : List Byte) (x : FaultSet), s.portUp p.val = true →
    s.gb (.nir p.val) F.NIR_STATUS_PEER_FAULT = false → osRx os = .set ty bs → (s.portU p.val).lastOs ≠ bs → decFault os = some x →
    ∃ t, exec (.faultReceive p os) s = .next t ∧ t.g (.nir p.val) F.NIR_STATUS_PEER_FAULT = 1
      ∧ t.portState p.val = s.portState p.val
      ∧ (portDie p.val * 256 + (120 + portIdx p.val)) ∈ t.lines
      ∧ Logged s ⟨0x41, 2, (Blk.nir p.val).die, (Blk.nir p.val).index, p.val, x.code,
          x.rank + (if x.noPricking then 2 ^ 15 else 0) + x.die * 2 ^ 16⟩ t
      ∧ ControlAnd (regsOf [(.nir p.val, F.NIR_STATUS_PEER_FAULT)]) s t)

/-- A corrected bridge flit is counted and raises source 8 + b of its die; one the code cannot correct voids a running step; a
bridge that no longer answers is fatal, code 0x0F, with its die and bridge in DETAIL (R22, R424). -/
def Obligations.BridgeErrors : Prop :=
  ∀ (s : State) (d : Die) (b : Fin 3), b.val < bridgesOf d.val →
    exec (.bridgeFlitReceive d b .clean) s = .next s
    ∧ (∃ t, exec (.bridgeFlitReceive d b .corrected) s = .next t ∧ (d.val * 256 + (8 + b.val)) ∈ t.lines
        ∧ tget 0 t.bridgeCe (4 * d.val + b.val) = tget 0 s.bridgeCe (4 * d.val + b.val) + 1
        ∧ t = { s with lines := t.lines, bridgeCe := t.bridgeCe })
    ∧ (∃ t, exec (.bridgeFlitReceive d b .uncorrectable) s = .next t ∧ OnlyControl s t
        ∧ Voids s 5 t ∧ (s.liveRun = none → t = s))
    ∧ ∃ t, exec (.bridgeTimeout d b) s = .next t ∧ WentFatal s d.val 0x0F (d.val + b.val * 256) t

/-! ### The grid -/

/-- ACQUIRING and no beacon within 1 ms: a device that may be root, and need not wait for GRIDSYNC, becomes root at epoch 0 under
its own identity, LOCKED at once, with knot 0 at the first multiple of its interval at least one interval ahead; one with
SYNC_EN waits for the edges (R32, R33, R40, R57). The lock states end as R40 and R39 say: ACQUIRING by its timeout, with
GRID_JOIN gone; LOCKED of a member in HOLDOVER when beacons fail; HOLDOVER in FREE after 10 s; and the announced backup takes
over as root, one epoch on, still LOCKED. A device of priority 0xFF becomes root neither way. -/
def Obligations.RootsAndLockStates : Prop :=
  (∀ s : State, s.lockState = 1 → s.grid.adopted = false → s.isRoot = false → s.g .grid F.GRID_CTRL_ROOT_PRIO ≠ 0xFF →
    (s.gb .grid F.GRID_CTRL_SYNC_EN = true → ∃ t, exec .beaconListenTimeout s = .next t ∧ t.grid.waitSync = true
      ∧ t = { s with grid := { s.grid with waitSync := true } })
    ∧ (s.gb .grid F.GRID_CTRL_SYNC_EN = false → s.img = none → 0 < s.g .grid F.GRID_KNOT_INT_INTERVAL →
      s.grid.time + 2 * nsT (s.g .grid F.GRID_KNOT_INT_INTERVAL) < 2 ^ 64 →
      ∃ t, exec .beaconListenTimeout s = .next t ∧ t.isRoot = true ∧ t.lockState = 2 ∧ t.g .grid F.GRID_STATUS_EPOCH = 0
        ∧ t.g .grid F.GRID_STATUS_HOP_COUNT = 0 ∧ t.beaconPort = 0x1F
        ∧ t.g2 .grid F.GRID_ROOT_ID_LO_ID_LO F.GRID_ROOT_ID_HI_ID_HI = s.identity % 2 ^ 64
        ∧ t.g .grid F.GRID_EFF_INT_INTERVAL = s.g .grid F.GRID_KNOT_INT_INTERVAL ∧ t.grid.nextKnot = 0
        ∧ nsT (s.g .grid F.GRID_KNOT_INT_INTERVAL) ∣ t.grid.next0
        ∧ s.grid.time + nsT (s.g .grid F.GRID_KNOT_INT_INTERVAL) ≤ t.grid.next0
        ∧ t.grid.next0 < s.grid.time + 2 * nsT (s.g .grid F.GRID_KNOT_INT_INTERVAL)
        ∧ ControlAnd (windows [.grid]) s t))
  ∧ (∀ s : State,
    (s.lockState = 1 → s.isRoot = false → (s.cmdOf 0x21).isSome = true → ∃ t, exec .lockTimeout s = .next t ∧ t.lockState = 0
      ∧ t.isRoot = false ∧ t.cmdOf 0x21 = none ∧ t.img = none
      ∧ (∀ c, s.cmdOf 0x21 = some c → Ended s c Code.lockTimeout 0 t)
      ∧ ControlAnd (fun a => portStatus a || regsOf [(.grid, F.GRID_HOLDOVER_ELAPSED)] a) s t)
    ∧ (s.lockState = 2 → s.isRoot = false → ∃ t, exec .beaconLoss s = .next t ∧ t.lockState = 3 ∧ t.grid.holdAt = s.grid.time
      ∧ Logged s ⟨0x10, 0, 7, 1, 2, 3, s.beaconPort⟩ t ∧ OnlyControl s t)
    ∧ (s.lockState = 3 → ∃ t, exec .holdoverExpiry s = .next t ∧ t.lockState = 0 ∧ t.isRoot = false ∧ t.img = none
      ∧ ControlAnd (fun a => portStatus a || regsOf [(.grid, F.GRID_HOLDOVER_ELAPSED)] a) s t)
    ∧ (2 ≤ s.lockState → s.isRoot = false → s.grid.backupId = s.identity → neverRoot s.identity = false →
      ∃ t, exec .backupRootTakeover s = .next t
      ∧ (t.fatalSet = false → t.lockState = 2 ∧ t.isRoot = true
          ∧ t.g .grid F.GRID_STATUS_EPOCH = (s.g .grid F.GRID_STATUS_EPOCH + 1) % 256
          ∧ t.g .grid F.GRID_STATUS_HOP_COUNT = 0 ∧ t.beaconPort = 0x1F
          ∧ t.g2 .grid F.GRID_ROOT_ID_LO_ID_LO F.GRID_ROOT_ID_HI_ID_HI = s.identity % 2 ^ 64 ∧ t.grid.takeover = 2
          ∧ t.grid.knot = s.grid.knot ∧ t.grid.next0 = s.grid.next0 ∧ t.grid.next1 = s.grid.next1)
      ∧ ControlAnd (windows [.grid]) s t)
    ∧ (s.g .grid F.GRID_CTRL_ROOT_PRIO = 0xFF → exec .beaconListenTimeout s = .next s)
    ∧ (neverRoot s.identity = true → exec .backupRootTakeover s = .next s))

/-- While it follows a root or is one, ACQUIRING or LOCKED, the device queues its beacon on every port that is UP at 2.0 and on no other;
else it queues none (R35, R265; that HOLDOVER sends none is log entry 11, the model's reading). A delay exchange, on a port that is UP
at 2.0 or trains in DELAY: the request carries its number; the answer that number, the times of request and receipt, and the path of a
LOCKED device; the partner's answer to the request that waits gives half of what the round trip took beyond the partner's turn as one
more delay, and NIR_DELAY the mean of the last eight once there are eight. Each set takes the time at which it is sent: a BEACON as
SEND_TIME, a request as T1, an answer as T3 (R38, R265, R267, R272). -/
def Obligations.BeaconsAndDelays : Prop :=
  (∀ s : State,
    (s.lockState = 1 ∨ s.lockState = 2 → s.grid.adopted = true → s.fatalSet = false → ∃ t, exec .beaconSend s = .next t
      ∧ (∀ p : Port, (t.portU p.val).osq = (s.portU p.val).osq ++ (if s.portUp2 p.val then [encBeacon s.beaconNow] else []))
      ∧ t = { s with ports := t.ports })
    ∧ (s.lockState = 0 ∨ s.lockState = 3 ∨ s.grid.adopted = false ∨ s.fatalSet = true → exec .beaconSend s = .next s))
  ∧ (∀ (s : State) (p : Port), s.delayOn p.val = true → s.fatalSet = false →
    (∃ t, exec (.delayReqSend p) s = .next t ∧ (t.portU p.val).req = none
      ∧ (t.portU p.val).osq = (s.portU p.val).osq ++ [encDelayReq ⟨((s.portU p.val).reqSeq + 1) % 256, 0⟩]
      ∧ t = { s with ports := t.ports })
    ∧ (∀ (os : OrdSet) (rx : BitVec 64) (bs : List Byte) (q : DelayReq), osRx os = .set 2 bs → decDelayReq os = some q →
      (s.portU p.val).lastOs ≠ bs → ∃ t, exec (.delayReqReceive p os rx) s = .next t
        ∧ (t.portU p.val).osq = (s.portU p.val).osq ++ [encDelayResp ⟨q.seq, q.t1, rx.toNat, 0,
            if s.isRoot then 0 else s.g .grid F.GRID_PATH_ROOT_PATH, s.lockState == 2⟩]
        ∧ ControlAnd clocked (movedTo s t) t)
    ∧ ∀ (os : OrdSet) (rx : BitVec 64) (bs : List Byte) (x : DelayResp), osRx os = .set 3 bs → decDelayResp os = some x →
      (s.portU p.val).lastOs ≠ bs → (s.portU p.val).req = some (x.seq, x.t1) →
      ∃ t, exec (.delayRespReceive p os rx) s = .next t ∧ (t.portU p.val).req = none
        ∧ (t.portU p.val).delays = (((signed 64 ((rx.toNat + 2 ^ 64 - x.t1) % 2 ^ 64) - signed 64 ((x.t3 + 2 ^ 64 - x.t2) % 2 ^ 64))
              / 2 / 256).toNat :: (s.portU p.val).delays).take 8
        ∧ t.g (.nir p.val) F.NIR_DELAY_DELAY
            = (if (t.portU p.val).delays.length < 8 then s.g (.nir p.val) F.NIR_DELAY_DELAY
                else min ((t.portU p.val).delays.foldl (· + ·) 0 / 8) (2 ^ 24 - 1))
        ∧ (x.valid = true → (p.val, x.path) ∈ t.grid.partnerPath)
        ∧ ControlAnd (fun a => clocked a || regsOf [(.nir p.val, F.NIR_DELAY_DELAY)] a) (movedTo s t) t)
  ∧ ∀ (s : State) (p : Port) (j : BitVec 16), s.portUp2 p.val = true → s.fatalSet = false → (s.portU p.val).closing = none →
    (s.sendRun p.val s.grid.knot j.toNat).2 = none →
    (∀ b, (s.portU p.val).osq = [encBeacon b] → ∃ t, exec (.frameTransmit p j) s = .next t
      ∧ Out.ordSet p.val (encBeacon { b with sendTime := s.grid.time }) ∈ t.out)
    ∧ (∀ q, (s.portU p.val).osq = [encDelayReq q] → ∃ t, exec (.frameTransmit p j) s = .next t
      ∧ Out.ordSet p.val (encDelayReq { q with t1 := s.grid.time }) ∈ t.out
      ∧ (t.portU p.val).req = some (q.seq % 256, s.grid.time))
    ∧ ∀ x, (s.portU p.val).osq = [encDelayResp x] → ∃ t, exec (.frameTransmit p j) s = .next t
      ∧ Out.ordSet p.val (encDelayResp { x with t3 := s.grid.time }) ∈ t.out

/-- A valid beacon, not a repeat of the set before, on a port that is UP at 2.0. A device that looks for a root adopts it, with its
knots, and counts itself one hop further; from 16 hops on it stays ACQUIRING with DEPTH_FAIL. A LOCKED member whose beacon port it
comes on takes over its offset, stretch and backup, and stays LOCKED while the offset is within 1.5 ns; the root, and a member that
has been LOCKED, hear another root's as FOREIGN, and the root its own as no longer so (R33, R34, R36, R37, R40 to R42, R52). -/
def Obligations.BeaconsHeard : Prop :=
  ∀ (s : State) (p : Port) (os : OrdSet) (rx : BitVec 64) (bs : List Byte) (b : Beacon), s.portUp2 p.val = true → s.fatalSet = false →
    osRx os = .set 1 bs → decBeacon os = some b → (s.portU p.val).lastOs ≠ bs →
    let root := s.g2 .grid F.GRID_ROOT_ID_LO_ID_LO F.GRID_ROOT_ID_HI_ID_HI
    let anyGrid := fun t : State => ControlAnd (fun a => clocked a || portStatus a || windows [.grid] a) (movedTo s t) t
    (s.lockState = 1 → s.isRoot = false → s.grid.adopted = false →
      (b.hop < 16 → s.gb (.nir p.val) F.NIR_STATUS_PEER_FAULT = false →
        ∃ t, exec (.beaconReceive p os rx) s = .next t ∧ t.grid.adopted = true ∧ t.beaconPort = p.val ∧ t.lockState = 1
          ∧ t.g2 .grid F.GRID_ROOT_ID_LO_ID_LO F.GRID_ROOT_ID_HI_ID_HI = b.rootId
          ∧ t.g .grid F.GRID_STATUS_EPOCH = b.epoch ∧ t.g .grid F.GRID_STATUS_HOP_COUNT = b.hop + 1
          ∧ t.grid.next0 = b.t0 ∧ t.grid.next1 = b.t1 ∧ t.grid.nextKnot = b.nextKnot
          ∧ (b.intChg = 0 → t.g .grid F.GRID_EFF_INT_INTERVAL = b.interval) ∧ anyGrid t)
      ∧ (16 ≤ b.hop → ∃ t, exec (.beaconReceive p os rx) s = .next t ∧ t.grid.adopted = true ∧ t.lockState = 1
          ∧ t.gb .grid F.GRID_STATUS_DEPTH_FAIL = true ∧ anyGrid t))
    ∧ (s.lockState = 2 → s.isRoot = false → s.grid.adopted = true → b.rootId = root → b.epoch = s.g .grid F.GRID_STATUS_EPOCH →
      b.voidStep = false → b.hop < 16 →
      ∃ t, exec (.beaconReceive p os rx) s = .next t
        ∧ (t.beaconPort = p.val →
            let ofs : Int := signed 64 ((b.sendTime + s.g (.nir p.val) F.NIR_DELAY_DELAY * 256 + 2 ^ 64 - t.grid.time) % 2 ^ 64)
            t.g .grid F.GRID_STATUS_HOP_COUNT = b.hop + 1 ∧ t.grid.backupId = b.backupId
            ∧ t.g .grid F.GRID_STRETCH_TOTAL_QUANTA = b.stretch
            ∧ t.g .grid F.GRID_OFFSET_OFFSET = unsigned 16 (max (-32768) (min 32767 (ofs / 256)))
            ∧ (-98304 ≤ ofs → ofs ≤ 98304 → t.grid.bad = 0 ∧ t.lockState = 2))
        ∧ anyGrid t)
    ∧ ((s.lockState ≠ 0 ∧ s.isRoot = true
          ∨ s.lockState ≠ 0 ∧ s.isRoot = false ∧ s.grid.adopted = true ∧ s.grid.joined = true ∧ b.rootId ≠ s.grid.backupId) →
      b.rootId ≠ root → ∃ t, exec (.beaconReceive p os rx) s = .next t ∧ t.gb (.nir p.val) F.NIR_STATUS_FOREIGN = true
        ∧ t.gb .grid F.GRID_STATUS_FOREIGN = true ∧ t.lockState = s.lockState
        ∧ ControlAnd (fun a => clocked a || regsOf [(.nir p.val, F.NIR_STATUS_STATE)] a) (movedTo s t) t)
    ∧ (s.lockState ≠ 0 → s.isRoot = true → b.rootId = root → ∃ t, exec (.beaconReceive p os rx) s = .next t
        ∧ t.gb (.nir p.val) F.NIR_STATUS_FOREIGN = false ∧ t.isRoot = true ∧ t.lockState = s.lockState
        ∧ ControlAnd (fun a => clocked a || regsOf [(.nir p.val, F.NIR_STATUS_STATE)] a) (movedTo s t) t)

/-- GRIDSYNC, with SYNC_EN in force on a root or a device that has adopted none: the first edge sets the time to one period; an edge
within 100 ns of its due time, a whole number of periods after the last good one, counts, and the fourth good one sets SYNC_SEEN; with
it a device that waits becomes root at the next. A stray edge moves nothing; two missing ones, or a stray one two periods after the
last good one, clear SYNC_SEEN. Else edges only let time pass (R57, R58). -/
def Obligations.SyncEdges : Prop :=
  ∀ s : State,
    (s.syncOn = true → s.isRoot = false → ∀ at_ : BitVec 64,
      let period := nsT (s.g .grid F.GRID_SYNC_PERIOD_PERIOD)
      let since := (at_.toNat + 2 ^ 64 - s.grid.syncAt % 2 ^ 64) % 2 ^ 64
      let due := s.grid.syncAt + nearestMultiple since period
      let off : Int := signed 64 ((at_.toNat + 2 ^ 64 - due % 2 ^ 64) % 2 ^ 64)
      let good := -(100 * 65536) ≤ off ∧ off ≤ 100 * 65536
      (s.grid.syncEdges = 0 → ∃ t, exec (.gridsyncEdge at_) s = .next t
        ∧ t.grid.time = period % 2 ^ 64 ∧ t.grid.syncEdges = 1 ∧ t.grid.syncAt = period % 2 ^ 64
        ∧ ControlAnd clocked (movedTo s t) t)
      ∧ (s.grid.syncEdges = 1 → ∃ t, exec (.gridsyncEdge at_) s = .next t ∧ t.grid.syncEdges = 2 ∧ t.grid.syncAt = at_.toNat
        ∧ (since ≠ 0 → -200000 ≤ t.grid.rate ∧ t.grid.rate ≤ 200000) ∧ ControlAnd clocked (movedTo s t) t)
      ∧ (2 ≤ s.grid.syncEdges → good → s.grid.waitSync = false ∨ s.gb .grid F.GRID_STATUS_SYNC_SEEN = false →
        ∃ t, exec (.gridsyncEdge at_) s = .next t ∧ t.grid.syncEdges = min 4 (s.grid.syncEdges + 1) ∧ t.grid.syncAt = at_.toNat
          ∧ (3 ≤ s.grid.syncEdges → t.gb .grid F.GRID_STATUS_SYNC_SEEN = true) ∧ ControlAnd clocked (movedTo s t) t)
      ∧ (2 ≤ s.grid.syncEdges → good → s.grid.waitSync = true → s.gb .grid F.GRID_STATUS_SYNC_SEEN = true →
        ∃ t, exec (.gridsyncEdge at_) s = .next t ∧ t.isRoot = true ∧ t.lockState = 2
          ∧ ControlAnd (fun a => clocked a || windows [.grid] a) (movedTo s t) t)
      ∧ (2 ≤ s.grid.syncEdges → ¬good → ∃ t, exec (.gridsyncEdge at_) s = .next t
        ∧ (since < 2 * period → t.grid.syncAt = s.grid.syncAt
            ∧ t.gb .grid F.GRID_STATUS_SYNC_SEEN = s.gb .grid F.GRID_STATUS_SYNC_SEEN)
        ∧ (2 * period ≤ since → t.gb .grid F.GRID_STATUS_SYNC_SEEN = false) ∧ ControlAnd clocked (movedTo s t) t))
    ∧ (s.syncOn = true → s.grid.syncEdges ≠ 0 →
      ∃ t, exec .gridsyncEdgeMissing s = .next t ∧ (1 ≤ s.grid.syncMiss → t.gb .grid F.GRID_STATUS_SYNC_SEEN = false)
        ∧ (s.grid.syncMiss = 0 → t.gb .grid F.GRID_STATUS_SYNC_SEEN = s.gb .grid F.GRID_STATUS_SYNC_SEEN)
        ∧ OnlyControl s t)
    ∧ (s.syncOn = false → exec .gridsyncEdgeMissing s = .next s
        ∧ ∀ at_ : BitVec 64, exec (.gridsyncEdge at_) s = .next (s.advanceTo at_.toNat))

/-- A knot event moves the grid on by one knot at its announced time, pulses interrupt source 0 of every die, and expects the following
knot as announced, at the root later by the stretch that is due; FREE and ACQUIRING have none. Their local tick comes at
the next multiple of 50,000 ns and is counted (R45, R47, R51, R67). -/
def Obligations.KnotsAndTicks : Prop :=
  ∀ s : State,
    (∀ late fail, 2 ≤ s.lockState → ∃ t, exec (.knotEvent late fail) s = .next t ∧ t.grid.knot = s.grid.nextKnot
      ∧ t.grid.knotAt = s.grid.next0 ∧ (∀ d : Die, (d.val * 256 + 0) ∈ t.lines)
      ∧ (timeBefore s.grid.time s.grid.next0 = true → t.grid.time = s.grid.next0 % 2 ^ 64)
      ∧ t.grid.next0 = (s.grid.next1
          + (if s.isRoot then tget 0 s.grid.pend ((s.grid.nextKnot + 1) % 2 ^ 48) else 0) * nsT 256) % 2 ^ 64
      ∧ t.pending = s.pending)
    ∧ (∀ late fail, s.lockState < 2 → exec (.knotEvent late fail) s = .next s)
    ∧ (s.lockState < 2 → s.pwrRuns = true → (s.grid.time / nsT 50000 + 1) * nsT 50000 < 2 ^ 64 → ∃ t, exec .localTick s = .next t
      ∧ t.grid.ticks = s.grid.ticks + 1 ∧ t.grid.time = (s.grid.time / nsT 50000 + 1) * nsT 50000 ∧ t.pending = s.pending)
    ∧ (2 ≤ s.lockState → exec .localTick s = .next s)

/-- A snag with a valid CRC travels unchanged, twice, on the beacon port of a member, in HOLDOVER too; the root stretches the
interval that ends two knots on by the lateness not yet granted, voids the step where the lateness cannot be met or the cause says
so, and drops a reserved cause. A late slot raises one snag; a projection that finds none raises none (R48 to R53, R265). -/
def Obligations.SnagsTravel : Prop :=
  (∀ (s : State) (p : Port) (os : OrdSet) (bs : List Byte) (x : Snag), s.portUp2 p.val = true → s.fatalSet = false →
    osRx os = .set 4 bs → decSnag os = some x → (s.portU p.val).lastOs ≠ bs →
    (s.isRoot = false → s.beaconPort < 18 → s.portUp2 s.beaconPort = true →
      ∃ t, exec (.snagForward p os) s = .next t
        ∧ (t.portU s.beaconPort).osq = (s.portU s.beaconPort).osq ++ [leBytes 64 os.toNat, leBytes 64 os.toNat]
        ∧ t = { s with ports := t.ports })
    ∧ (s.isRoot = true → ∃ t, exec (.snagRootReceive p os) s = .next t ∧ OnlyControl s t
      ∧ (x.cause = 0 ∨ 7 < x.cause → t.grid.dropped = s.grid.dropped + 1 ∧ t.grid.pend = s.grid.pend)
      ∧ (1 ≤ x.cause → x.cause < 4 → 2 ≤ (x.target + 2 ^ 16 - s.grid.knot % 2 ^ 16) % 2 ^ 16 →
          (s.stretch + 2 ^ 32 - x.sSeen) % 2 ^ 24 < x.lateness →
          tget 0 t.grid.pend ((s.grid.knot + 2) % 2 ^ 48)
            = max (tget 0 s.grid.pend ((s.grid.knot + 2) % 2 ^ 48)) (x.lateness - (s.stretch + 2 ^ 32 - x.sSeen) % 2 ^ 24))
      ∧ (4 ≤ x.cause → x.cause ≤ 7 → x.stepEnd ≠ 0 → knotBefore s.grid.knot x.stepEnd = true → s.grid.voidEnd = none →
          t.fatalSet = false → t.grid.voidEnd = some x.stepEnd)))
  ∧ (∀ (s : State) (late : List Projection), s.liveRun = none ∨ s.img = none ∨ late = [] →
      exec (.snagReprojection late) s = .next s)
  ∧ ∀ (s : State) (x : Projection) (r : Run) (p : Pricking) (d : Nat × Nat), s.liveRun = some r → s.img = some p →
      s.lateBy p r x = some d → s.grid.raised = [] → ∃ t, exec (.snagReprojection [x]) s = .next t
        ∧ t.g .grid F.GRID_SNAG_COUNT_SENT = min (s.g .grid F.GRID_SNAG_COUNT_SENT + 1) (2 ^ 16 - 1)
        ∧ (x.die.val * 256 + 4) ∈ t.lines ∧ OnlyControl s t

/-! ### Power and cooling -/

/-- One power sample: input voltage and current as read; P_meas, in units of 10 µW, sets the power duty by R361: to 1 while
PWRBRAKE# is asserted; else, where P_meas exceeds P_target or the duty is below the rated one, to the present duty scaled by
(P_target − P_fixed) / (P_meas − P_fixed), at least 1 and at most the rated duty; else it stays. Every throttle reason shows
whether it holds (R348, R360, R361, R369). -/
def Obligations.PowerSampled : Prop :=
  ∀ (s : State) (r : PowerReading), s.pwrRuns = true →
    let cur : Nat := min s.powerDuty s.ratedDuty
    let p : Int := (r.vinMv.toNat * r.iin10mA.toNat : Nat)
    ∃ t, exec (.powerSample r) s = .next t ∧ t.g .pwr F.PWR_INPUT_VIN_MV = r.vinMv.toNat ∧ t.g .pwr F.PWR_INPUT_IIN = r.iin10mA.toNat
      ∧ t.pwr.samples = (r.vinMv.toNat * r.iin10mA.toNat :: s.pwr.samples).take 1000
      ∧ (s.gb .pwr F.PWR_STATUS_BRAKE = true → t.powerDuty = 1)
      ∧ (s.gb .pwr F.PWR_STATUS_BRAKE = false → t.powerTarget < p ∨ cur < s.ratedDuty → s.fixedPower < t.powerTarget →
          s.fixedPower + 100000 < p →
          (t.powerDuty : Int) = max 1 (min ((cur : Int) * (t.powerTarget - s.fixedPower) / (p - s.fixedPower)) s.ratedDuty))
      ∧ (s.gb .pwr F.PWR_STATUS_BRAKE = false → p ≤ t.powerTarget → s.ratedDuty ≤ s.powerDuty → t.powerDuty = s.powerDuty)
      ∧ (∀ n : Fin 7, t.gb .pwr ⟨0x3C, n.val, 1⟩ = t.reasonActive n.val)
      ∧ t.g .pwr F.PWR_CAP_IN_FORCE = s.g .pwr F.PWR_CAP_IN_FORCE ∧ ControlAnd (windows [.pwr]) s t

/-- The slow loop: one operating point down after 100 samples with the duty below the rated one, one up after 1,000 at it where the
predicted power fits; the HBM3 request duty one down at the floor of points and duty with the power above target, one up with
power to spare (R362). -/
def Obligations.SlowLoopMoves : Prop :=
  ∀ s : State, s.pwrRuns = true → ∃ t, exec .slowLoop s = .next t
    ∧ (100 ≤ s.pwr.below → 0 < s.pwr.op → t.pwr.op = s.pwr.op - 1)
    ∧ (s.pwr.below < 100 → 1000 ≤ s.pwr.equal → s.pwr.op < s.ratedOp → s.fitsAbove s.pwr.op = true → t.pwr.op = s.pwr.op + 1)
    ∧ (s.pwr.below < 100 → s.pwr.equal < 1000 → t.pwr.op = s.pwr.op)
    ∧ ((∀ a : ArrayId, s.g (.arr a.val) F.ARR_STATUS_OP = 0) → s.powerDuty = 1 → 100 ≤ s.pwr.overAim →
        8 < s.g .pwr F.PWR_THR_ACTIVE_MEM_DUTY →
        t.g .pwr F.PWR_THR_ACTIVE_MEM_DUTY = s.g .pwr F.PWR_THR_ACTIVE_MEM_DUTY - 1)
    ∧ (s.pwr.overAim < 100 → 100 ≤ s.pwr.underAim → s.g .pwr F.PWR_THR_ACTIVE_MEM_DUTY < 16 →
        t.g .pwr F.PWR_THR_ACTIVE_MEM_DUTY = s.g .pwr F.PWR_THR_ACTIVE_MEM_DUTY + 1)
    ∧ t.powerDuty = s.powerDuty ∧ OnlyControl s t

/-- A raised operating point takes effect once its voltage has settled. A droop, and a regulator's phase limit for both arrays of a
Hoop, set the droop duty to 1; it then rises by one a time until it no longer limits the array (R23, R359, R364, R365).
PWRBRAKE# asserted puts BRAKE_W among the caps and the power duty at 1; released, it is no cap any more. The cap in force is the
least of the caps, with its source (R355, R367). -/
def Obligations.DroopCurrentAndBrake : Prop :=
  (∀ s : State,
    (∀ (a : ArrayId) (op : Nat), op < 16 → (tget {} s.arrays a.val).opTarget = some op → ∃ t, exec (.opChangeComplete a) s = .next t
      ∧ t.g (.arr a.val) F.ARR_STATUS_OP = op ∧ (tget {} t.arrays a.val).opTarget = none ∧ OnlyControl s t)
    ∧ (∀ a : ArrayId, s.arrayOn a.val = true → ∃ t, exec (.droopTrip a) s = .next t ∧ (tget {} t.arrays a.val).droop = 1
      ∧ t.g (.arr a.val) F.ARR_STATUS_DUTY ≤ 1 ∧ a.val ∉ t.pwr.regLimit ∧ OnlyControl s t)
    ∧ (∀ a : ArrayId, (tget {} s.arrays a.val).droop < 16 → ∃ t, exec (.droopRecovery a) s = .next t
      ∧ (tget {} t.arrays a.val).droop
          = (if s.dutyBut a.val ≤ (tget {} s.arrays a.val).droop + 1 then 16 else (tget {} s.arrays a.val).droop + 1)
      ∧ OnlyControl s t)
    ∧ ∀ h : Hoop, ∃ t, exec (.regulatorCurrentLimit h) s = .next t ∧ OnlyControl s t
      ∧ ∀ k : Fin 2, s.arrayOn (2 * h.val + k.val) = true →
          (tget {} t.arrays (2 * h.val + k.val)).droop = 1 ∧ 2 * h.val + k.val ∈ t.pwr.regLimit)
  ∧ (∀ s : State,
    (s.pwrRuns = true →
      (∃ t, exec .pwrbrakeAssert s = .next t ∧ t.brakePin = true ∧ t.gb .pwr F.PWR_STATUS_BRAKE = true ∧ t.powerDuty = 1
        ∧ t.g .pwr F.PWR_CAP_IN_FORCE ≤ s.g .pwr F.PWR_BRAKE_CFG_BRAKE_W
        ∧ (t.g .pwr F.PWR_CAP_IN_FORCE, t.g .pwr F.PWR_CAP_SOURCE) ∈ t.caps ∧ (∀ c ∈ t.caps, t.g .pwr F.PWR_CAP_IN_FORCE ≤ c.1)
        ∧ OnlyControl { s with brakePin := true } t)
      ∧ ∃ t, exec .pwrbrakeRelease s = .next t ∧ t.brakePin = false ∧ t.gb .pwr F.PWR_STATUS_BRAKE = false
        ∧ (t.g .pwr F.PWR_CAP_IN_FORCE, t.g .pwr F.PWR_CAP_SOURCE) ∈ t.caps ∧ (∀ c ∈ t.caps, t.g .pwr F.PWR_CAP_IN_FORCE ≤ c.1)
        ∧ OnlyControl { s with brakePin := false } t)
    ∧ (s.pwrRuns = false → exec .pwrbrakeAssert s = .next { s with brakePin := true }
        ∧ exec .pwrbrakeRelease s = .next { s with brakePin := false }))

/-- Sixteen reads of CLS[2:0] in a row that agree change the class, with its event and interrupt; a differing read starts the count
afresh and shows as pending (R353, R354). Hoop temperatures are kept as read: a Hoop is held from HOOP_THR_C until it is below
it by more than HYST_C, its duty is 1 from HOOP_CRIT_C; each further step at HOOP_THR_C lowers both its arrays by THR_STEP
points, and once the critical level is left the duty rises by one. Two reads in a row at 120 °C are fatal, of a Hoop and of a
Shuttle (R366). -/
def Obligations.CoolingAndThermalLimits : Prop :=
  (∀ (s : State) (c : BitVec 3), s.pwrRuns = true →
    (c.toNat ≠ s.g .pwr F.PWR_STATUS_CLS_RAW ∨ s.pwr.clsReads < 15 → ∃ t, exec (.clsRead c) s = .next t
      ∧ t.g .pwr F.PWR_STATUS_CLS_RAW = c.toNat ∧ t.g .pwr F.PWR_STATUS_CLASS = s.g .pwr F.PWR_STATUS_CLASS
      ∧ t.gb .pwr F.PWR_STATUS_CLS_PEND = (c.toNat != s.g .pwr F.PWR_STATUS_CLASS)
      ∧ t.pwr.clsReads = (if c.toNat = s.g .pwr F.PWR_STATUS_CLS_RAW then s.pwr.clsReads + 1 else 1)
      ∧ OnlyRegs (regsOf [(.pwr, F.PWR_STATUS_CLASS)]) { s with pwr := t.pwr } t)
    ∧ (c.toNat = s.g .pwr F.PWR_STATUS_CLS_RAW → 15 ≤ s.pwr.clsReads → c.toNat ≠ s.g .pwr F.PWR_STATUS_CLASS →
      ∃ t, exec (.clsRead c) s = .next t ∧ t.g .pwr F.PWR_STATUS_CLASS = c.toNat ∧ t.g .pwr F.PWR_STATUS_CLS_PEND = 0
        ∧ (5 * 256 + 7) ∈ t.lines ∧ Logged s ⟨0x50, 0, 7, 3, s.g .pwr F.PWR_STATUS_CLASS, c.toNat, 0⟩ t
        ∧ OnlyControl s t))
  ∧ (∀ s : State, s.pwrRuns = true →
    (∀ v : Vector (BitVec 8) 4, ∃ t, exec (.hoopTempRead v) s = .next t
      ∧ ∀ h : Hoop, t.g .pwr ⟨0x34, 8 * h.val, 8⟩ = v[h].toNat
        ∧ (s.g .pwr F.PWR_THERM_CFG_HOOP_THR_C ≤ v[h].toNat → h.val ∈ t.pwr.hot)
        ∧ (v[h].toNat + s.g .pwr F.PWR_THERM_CFG_HYST_C < s.g .pwr F.PWR_THERM_CFG_HOOP_THR_C → h.val ∉ t.pwr.hot)
        ∧ (s.g .pwr F.PWR_THERM_CFG_HOOP_CRIT_C ≤ v[h].toNat → h.val ∈ t.pwr.crit ∧ tget 16 t.pwr.thermDuty h.val = 1)
        ∧ (120 ≤ v[h].toNat → 1 ≤ tget 0 s.pwr.at120 h.val → t.fatalSet = true)
        ∧ ControlAnd (windows [.pwr]) s t)
    ∧ (∀ v : Vector (BitVec 8) 2, ∃ t, exec (.shuttleTempRead v) s = .next t
      ∧ t.g .pwr F.PWR_SHUTTLE_TEMP_S0 = v[0].toNat ∧ t.g .pwr F.PWR_SHUTTLE_TEMP_S1 = v[1].toNat
      ∧ (∀ k : Shuttle, 120 ≤ v[k].toNat → 1 ≤ tget 0 s.pwr.at120 (4 + k.val) → t.fatalSet = true)
      ∧ ControlAnd (windows [.pwr]) s t)
    ∧ ∀ h : Hoop, ∃ t, exec (.hoopThermalStep h) s = .next t ∧ OnlyControl s t
      ∧ (h.val ∈ s.pwr.hot → s.g .pwr F.PWR_THERM_CFG_HOOP_THR_C ≤ s.g .pwr ⟨0x34, 8 * h.val, 8⟩ →
          tget 15 t.pwr.thermOp h.val = min s.pwr.op (tget 15 s.pwr.thermOp h.val) - s.g .pwr F.PWR_CTRL_CFG_THR_STEP)
      ∧ (h.val ∉ s.pwr.crit → tget 16 t.pwr.thermDuty h.val = min 16 (tget 16 s.pwr.thermDuty h.val + 1)))

/-! ### Supply, reset and start-up -/

/-- Loss of the input loses every register, memory and ring, and keeps the part and what has left the device; power-up brings up
every domain but the arrays', with PERST# held (R349, R351, R378). While the power controller runs, an undervoltage, an
overvoltage, a regulator fault, the loss of REFCLK and a control processor that misses its watchdog are fatal, with their codes
and details; the supply's are kept in PWR_ERR (R349, R376, R420, R424). While PERST# is asserted a fault of the supply only
drives FAULT# low (R379; log entry 40, DEDUCED). -/
def Obligations.SupplyAndItsFaults : Prop :=
  (∀ s : State,
    (s.supplied = true → ∃ t, exec .inputLoss s = .next t ∧ t.supplied = false ∧ t.perst = true ∧ (∀ a, t.rd a = regReset a)
      ∧ (∀ a, t.readByte a = memDefault) ∧ t.rings = [] ∧ t.pages = [] ∧ t.run = none ∧ t.img = none ∧ t.part = s.part
      ∧ t.brakePin = s.brakePin ∧ t.out = s.out ∧ t.pending = s.pending)
    ∧ (s.supplied = false → ∃ t, exec .inputPowerUp s = .next t ∧ t.supplied = true ∧ t.perst = true
      ∧ (∀ n : Fin 36, t.domainOn n.val = !(decide (n.val < 28) && decide (n.val % 7 < 2)))
      ∧ (∀ a, regsOf [(.pwr, F.PWR_DOMAINS_LO_ON), (.pwr, F.PWR_DOMAINS_HI_ON)] a = false → t.rd a = regReset a)
      ∧ (∀ a, t.readByte a = memDefault) ∧ t.part = s.part ∧ t.out = s.out ∧ t.pending = s.pending))
  ∧ (∀ s : State, s.pwrRuns = true →
    (∀ mv : BitVec 16, ∃ u t, exec (.supplyUv mv) s = .next t ∧ OnlyRegs (regsOf [(.pwr, F.PWR_ERR_CODE)]) s u
      ∧ t.g .pwr F.PWR_ERR_CODE = 1 ∧ t.g .pwr F.PWR_ERR_DOMAIN = 0 ∧ WentFatal u 5 3 mv.toNat t)
    ∧ (∀ mv : BitVec 16, ∃ u t, exec (.supplyOv mv) s = .next t ∧ OnlyRegs (regsOf [(.pwr, F.PWR_ERR_CODE)]) s u
      ∧ t.g .pwr F.PWR_ERR_CODE = 2 ∧ t.g .pwr F.PWR_ERR_DOMAIN = 0 ∧ WentFatal u 5 4 mv.toNat t)
    ∧ (∀ n : Fin 36, ∃ u t, exec (.regFault n) s = .next t ∧ OnlyRegs (regsOf [(.pwr, F.PWR_ERR_CODE)]) s u
      ∧ t.g .pwr F.PWR_ERR_CODE = 3 ∧ t.g .pwr F.PWR_ERR_DOMAIN = n.val ∧ WentFatal u 5 5 n.val t)
    ∧ (∃ t, exec .refclkLoss s = .next t ∧ WentFatal s 5 0x0A 0 t)
    ∧ ∀ d : Die, ∃ t, exec (.controlWatchdog d) s = .next t ∧ WentFatal s d.val 0x10 d.val t)
  ∧ ∀ (s : State) (mv : BitVec 16) (n : Fin 36), s.supplied = true → s.perst = true →
    exec (.supplyUv mv) s = .next { s with pinFault := true } ∧ exec (.supplyOv mv) s = .next { s with pinFault := true }
    ∧ exec (.regFault n) s = .next { s with pinFault := true }

/-- Release of PERST#: no byte of memory, ring or step is kept, registers outside the device, power, security and interrupt windows
and the status words of `ControlReg` are at their reset values, and the stages run in order. A part that is sound reaches
HBM_TRAIN once its dies are ready (DIES until then), the identity key in SRAM unless the port was unlocked, and the extension that
R397 accepts in force with its slot, SVN and digest. A bad ROM, bad OTP, a bad identity key and a missing extension that
EXT_REQUIRED asks for stop start-up with ERR 1 to 4, and code 2 with ERR and ERR_DETAIL in IRQ_FATAL (R76, R392 to R398,
R401 to R403). -/
def Obligations.PerstRelease : Prop :=
  ∀ (s : State) (ready : Bool) (rom : List (Die × BitVec 16 × Word)), s.supplied = true → s.perst = true →
    let token := s.test.token && !s.part.debugDisable
    let stopped (t : State) (err detail : Nat) : Prop := t.g .sec F.SEC_BOOT_STATUS_ERR = err
      ∧ t.g .sec F.SEC_BOOT_STATUS_ERR_DETAIL = detail ∧ t.fatalSet = true
      ∧ ∀ d : Die, t.g (.irq d.val) F.IRQ_FATAL_CODE = 2 ∧ t.g (.irq d.val) F.IRQ_FATAL_DETAIL_DETAIL = err + 256 * detail
    ∃ t, exec (.perstRelease ready rom) s = .next t ∧ t.perst = false ∧ t.test.token = false ∧ t.mem = []
      ∧ t.rings = [] ∧ t.run = none ∧ t.part.certs = s.part.certs ∧ t.part.serial = s.part.serial ∧ t.pending = s.pending
      ∧ t.g2 .dev F.DEV_SERIAL_LO_SERIAL_LO F.DEV_SERIAL_HI_SERIAL_HI = s.part.serial % 2 ^ 56
      ∧ t.g .dev F.DEV_STATUS_READY = 0
      ∧ (∀ a, ¬ControlReg a → windows ([.dev, .pwr, .sec] ++ (List.range 6).map .irq) a = false → t.rd a = regReset a)
      ∧ (s.part.romGood = false → stopped t 1 0 ∧ t.stage_ = 1)
      ∧ (s.part.romGood = true → s.part.otpGood = false → stopped t 2 0 ∧ t.stage_ = 2)
      ∧ (s.part.romGood = true → s.part.otpGood = true → s.part.keyGood = false → token = false → stopped t 3 0 ∧ t.stage_ = 2)
      ∧ (s.part.romGood = true → s.part.otpGood = true → s.part.keyGood = true ∨ token = true →
          t.g .sec F.SEC_BOOT_STATUS_REJ_A = s.part.extChoose.1 ∧ t.g .sec F.SEC_BOOT_STATUS_REJ_B = s.part.extChoose.2.1
          ∧ t.g .sec F.SEC_ID_KEY_OK = (!token).toNat ∧ t.g .sec F.SEC_ID_SIGN_EN = (!token).toNat
          ∧ t.gb .sec F.SEC_ID_CERT_OK = (!token && s.part.certGood)
          ∧ t.idKey = (if token then none else some s.part.seed) ∧ t.mgt.live = true
          ∧ t.g .sec F.SEC_DEBUG_STATE = (if s.part.debugDisable then 2 else if token then 1 else 0)
          ∧ (∀ b : Bool, s.part.extChoose.2.2 = some b →
              let h := flashRead (if b then s.part.slotB else s.part.slotA) 0 9216
              t.g .sec F.SEC_BOOT_STATUS_EXT_STATE = 1 ∧ t.gb .sec F.SEC_BOOT_STATUS_EXT_SLOT = b
              ∧ t.g .sec F.SEC_EXT_SVN_SVN = extSvn h % 256
              ∧ ∀ i : Fin 8, t.g .sec (F.SEC_EXT_DIGEST_DIGEST i.val) = leAt h (0x40 + 4 * i.val) 4)
          ∧ (s.part.extChoose.2.2 = none → t.g .sec F.SEC_BOOT_STATUS_EXT_STATE
              = if s.part.extChoose.1 = 1 ∧ s.part.extChoose.2.1 = 1 then 0 else 2)
          ∧ (s.part.extChoose.2.2 = none → s.part.extRequired = true →
              stopped t 4 (s.part.extChoose.1 + 16 * s.part.extChoose.2.1) ∧ t.stage_ = 3)
          ∧ (s.part.extChoose.2.2.isSome = true ∨ s.part.extRequired = false →
              t.g .sec F.SEC_BOOT_STATUS_ERR = 0 ∧ t.stage_ = (if ready then 5 else 4) ∧ t.fatalSet = false))

/-- The later stages: every stack trained; each stack zeroed, its bytes reading 0 and no other byte changed; the slow tier trained;
then READY with the module's fixed power, where it lies between 250 and 700 W, else ERR 8 (R233, R392, R394). A stage that
reaches its bound stops start-up: ERR 5 with the die, 6 with the stack that does not train or is not zeroed, 7 with the channel.
Each of these failures is fatal with code 2 and ERR and ERR_DETAIL in IRQ_FATAL (R394, R420). -/
def Obligations.StartUpStages : Prop :=
  (∀ s : State,
    (s.booting 5 = true → ∃ t, exec .hbmTrainingDone s = .next t ∧ t.stage_ = 6
      ∧ (∀ m : Stack, t.g (.hbm m.val) F.HBM_STATUS_TRAINED = 1)
      ∧ OnlyRegs (fun a => regsOf [(.sec, F.SEC_BOOT_STATUS_STAGE)] a
          || regsOf ((List.range 24).map fun m => (.hbm m, F.HBM_STATUS_TRAINED)) a) s t)
    ∧ (∀ m : Stack, s.booting 6 = true ∨ s.booting 7 = true → s.g (.hbm m.val) F.HBM_STATUS_INIT_DONE = 0 →
      ∃ t, exec (.hbmZeroDone m) s = .next t ∧ t.g (.hbm m.val) F.HBM_STATUS_INIT_DONE = 1
        ∧ (∀ a, a < 4 * hoopHbm → hbmStack a = m.val → t.readByte a = 0 ∧ a ∉ t.badPairs)
        ∧ (∀ a, ¬(a < 4 * hoopHbm ∧ hbmStack a = m.val) → t.readByte a = s.readByte a)
        ∧ OnlyRegs (regsOf [(.hbm m.val, F.HBM_STATUS_INIT_DONE)]) { s with mem := t.mem, badPairs := t.badPairs } t)
    ∧ (s.booting 6 = true → ∃ t, exec .slowTierTrained s = .next t ∧ t.stage_ = 7
      ∧ t.g (.str 0) F.STR_STATUS_TRAINED = 1 ∧ t.g (.str 1) F.STR_STATUS_TRAINED = 1
      ∧ OnlyRegs (regsOf [(.sec, F.SEC_BOOT_STATUS_STAGE), (.str 0, F.STR_STATUS_TRAINED), (.str 1, F.STR_STATUS_TRAINED)]) s t)
    ∧ (∀ w : BitVec 12, s.booting 7 = true → (∀ m : Stack, s.g (.hbm m.val) F.HBM_STATUS_INIT_DONE = 1) →
      (250 ≤ w.toNat → w.toNat ≤ 700 → ∃ t, exec (.calibrationDone w) s = .next t ∧ t.ready = true ∧ t.stage_ = 8
        ∧ t.g .pwr F.PWR_FIXED_W_FIXED = w.toNat ∧ t.g .mgt F.MGT_STATUS_VDM_UP = 1
        ∧ ControlAnd (regsOf [(.pwr, F.PWR_FIXED_W_FIXED), (.sec, F.SEC_BOOT_STATUS_STAGE)]) s t)
      ∧ (w.toNat < 250 ∨ 700 < w.toNat → ∃ u t, exec (.calibrationDone w) s = .next t ∧ t.ready = s.ready
        ∧ t.g .sec F.SEC_BOOT_STATUS_ERR = 8 ∧ t.g .sec F.SEC_BOOT_STATUS_ERR_DETAIL = 0
        ∧ OnlyRegs (regsOf [(.sec, F.SEC_BOOT_STATUS_ERR)]) s u ∧ WentFatal u 4 2 8 t)))
  ∧ (∀ (s : State) (hbm : Bool) (d : BitVec 8),
    (s.booting 4 = true → d.toNat < 6 → ∃ u t, exec (.startUpBoundExpiry hbm d) s = .next t
      ∧ t.g .sec F.SEC_BOOT_STATUS_ERR = 5 ∧ t.g .sec F.SEC_BOOT_STATUS_ERR_DETAIL = d.toNat
      ∧ OnlyRegs (regsOf [(.sec, F.SEC_BOOT_STATUS_ERR)]) s u ∧ WentFatal u 4 2 (5 + d.toNat * 256) t)
    ∧ (s.booting 5 = true → d.toNat < 24 → ∃ u t, exec (.startUpBoundExpiry hbm d) s = .next t
      ∧ t.g .sec F.SEC_BOOT_STATUS_ERR = 6 ∧ t.g .sec F.SEC_BOOT_STATUS_ERR_DETAIL = d.toNat
      ∧ OnlyRegs (regsOf [(.sec, F.SEC_BOOT_STATUS_ERR)]) s u ∧ WentFatal u 4 2 (6 + d.toNat * 256) t)
    ∧ (s.booting 6 = true ∨ s.booting 7 = true → hbm = true → d.toNat < 24 → s.g (.hbm d.toNat) F.HBM_STATUS_INIT_DONE = 0 →
      ∃ u t, exec (.startUpBoundExpiry hbm d) s = .next t
      ∧ t.g .sec F.SEC_BOOT_STATUS_ERR = 6 ∧ t.g .sec F.SEC_BOOT_STATUS_ERR_DETAIL = d.toNat
      ∧ OnlyRegs (regsOf [(.sec, F.SEC_BOOT_STATUS_ERR)]) s u ∧ WentFatal u 4 2 (6 + d.toNat * 256) t)
    ∧ (s.booting 6 = true → hbm = false → d.toNat < 64 → ∃ u t, exec (.startUpBoundExpiry hbm d) s = .next t
      ∧ t.g .sec F.SEC_BOOT_STATUS_ERR = 7 ∧ t.g .sec F.SEC_BOOT_STATUS_ERR_DETAIL = d.toNat
      ∧ OnlyRegs (regsOf [(.sec, F.SEC_BOOT_STATUS_ERR)]) s u ∧ WentFatal u 4 2 (7 + d.toNat * 256) t))

/-- PERST# asserted: the host port has no link, ports are DOWN, the grid FREE, nothing runs, no memory is kept, the identity key is
erased, and every other register holds until the release (R76, R378, R402). A function-level reset keeps memory, the page map and
the link, drops every ring, command, step and port, and returns each register's bits to reset but for those of `flrMask`: what
R345 lists, and the status of what the reset leaves as it is (log entry 32, DEDUCED). READY clears; on a device that was READY
the first local tick sets it again (the instant is the model's choice, log entry 32). -/
def Obligations.ResetsOfTheFunction : Prop :=
  (∀ s : State, s.supplied = true → s.perst = false →
    ∃ t, exec .perstAssert s = .next t ∧ t.perst = true ∧ t.hostUp = false ∧ (∀ a, t.readByte a = memDefault)
      ∧ (∀ p : Port, t.portState p.val = 1) ∧ t.lockState = 0 ∧ t.run = none ∧ t.rings = [] ∧ t.cmds = [] ∧ t.queue = []
      ∧ t.img = none ∧ t.mgt.live = false ∧ t.test.token = false ∧ t.idKey = none ∧ t.g .mgt F.MGT_STATUS_DA_VALID = 0
      ∧ (∀ a, ¬ControlReg a → portStatus a = false → t.rd a = s.rd a)
      ∧ t.part = s.part ∧ t.pending = s.pending)
  ∧ (∀ s : State, s.hostUp = true →
    ∃ t, exec .functionLevelReset s = .next t ∧ t.mem = s.mem ∧ t.pages = s.pages ∧ t.scale = s.scale ∧ t.hostUp = true
      ∧ t.g .dev F.DEV_STATUS_READY = 0 ∧ t.readyDue = (s.ready || s.readyDue) ∧ t.rings = [] ∧ t.cmds = [] ∧ t.queue = []
      ∧ t.run = none ∧ t.arms = [] ∧ t.img = none ∧ t.lockState = 0 ∧ t.grid.leaving = false
      ∧ (∀ a, ¬ControlReg a → t.rd a = (s.rd a &&& flrMask a) ||| (regReset a &&& ~~~flrMask a))
      ∧ t.idKey = s.idKey ∧ t.part = s.part ∧ t.pending = s.pending)
  ∧ ∀ s : State, s.lockState < 2 → s.pwrRuns = true → s.readyDue = true → ∃ t, exec .localTick s = .next t ∧ t.ready = true
      ∧ t.readyDue = false ∧ t.g .mgt F.MGT_STATUS_VDM_UP = 1

/-! ### Management, attestation and the test port -/

/-- While the module is supplied, each public instruction becomes the one selected. EXTEST and CLAMP drive the pins, HIGHZ floats
them, only while PERST# is asserted; IDCODE shifts its 32 bits out, SAMPLE_PRELOAD loads the boundary cells and shifts as many bits
out (which bits is open, log entry 1, DESIGN CHOICE). Nothing else changes but the count of free values drawn. The test port takes a
token only while PERST# is asserted and DEBUG_DISABLE is clear: one that verifies over the challenge is held, one that does not
changes nothing but that a nonce has been given out. On an unlocked port the first private instruction sets SEC_DEBUG.USED (R412).
-/
def Obligations.TestPortAndDebugUnlock : Prop :=
  (∀ s : State, s.supplied = true →
    (∃ t, exec .bypass s = .next t ∧ t = { s with test := { s.test with ir := .bypass, driven := false, floating := false } })
    ∧ (∃ t, exec .extest s = .next t ∧ t = { s with test := { s.test with ir := JtagIr.extest, driven := s.perst, floating := false } })
    ∧ (∃ t, exec .clamp s = .next t ∧ t = { s with test := { s.test with ir := .clamp, driven := s.perst, floating := false } })
    ∧ (∃ t, exec .highz s = .next t ∧ t = { s with test := { s.test with ir := .highz, driven := false, floating := s.perst } })
    ∧ (∃ t, exec .idcode s = .next t ∧ idcodeBits.length = 32
        ∧ t = { s with test := { s.test with ir := .idcode, driven := false, floating := false }
                       out := .jtag idcodeBits :: s.out })
    ∧ ∀ cells, ∃ t, ∃ bits : List Bool, exec (.samplePreload cells) s = .next t ∧ bits.length = cells.length
        ∧ t = { s with test := { s.test with ir := .samplePreload, cells := cells, driven := false, floating := false }
                       out := .jtag bits :: s.out, fresh := s.fresh + 1 })
  ∧ ((∀ (s : State) (token : List Byte), s.supplied = true → s.perst = true → s.part.debugDisable = false →
    ∃ t, exec (.debugUnlockToken token) s = .next t
      ∧ t.test.token = (s.test.token
          || Config.mldsaVerify Config.debugKey s.withNonce.challengeBytes (ascii "VRM-DEBUG") token)
      ∧ t.test.nonce ≠ []
      ∧ t = { s with test := { s.test with token := t.test.token, nonce := t.test.nonce }, fresh := t.fresh })
  ∧ (∀ (s : State) (token : List Byte), s.perst = false ∨ s.part.debugDisable = true →
      exec (.debugUnlockToken token) s = .next s)
  ∧ (∀ (s : State) (code : BitVec 8), s.supplied = true → s.perst = false → s.g .sec F.SEC_DEBUG_STATE = 1 →
      ∃ t, exec (.debugPrivateInstruction code) s = .next t ∧ t.g .sec F.SEC_DEBUG_USED = 1
        ∧ t.g .sec F.SEC_DEBUG_STATE = 1 ∧ OnlyRegs (regsOf [(.sec, F.SEC_DEBUG_USED)]) s t))

/-- The target, once it answers, takes ENEC and DISEC (bit 0), RSTDAA, the three ways to give it a dynamic address, SETMWL, SETMRL
and RSTACT. A direct command reaches it only under its address, ENTDAA and SETDASA only without one; a length of 0 (R15) or above
261 bytes is not taken (log entry 33, PRESUMED); a target that does not answer yet leaves everything as it is. The direct reads
return their bytes, most significant first, and change nothing else: GETMWL, GETMRL with the IBI payload size, the 48-bit
provisional ID, BCR 0x06, DCR, and the two open bytes of GETSTATUS (R407, log entry 33, PRESUMED). -/
def Obligations.I3cTarget : Prop :=
  (∀ s : State, s.mgt.live = true →
    (∀ (direct : Bool) (ev : BitVec 8), (direct = true → s.gb .mgt F.MGT_STATUS_DA_VALID = true) → bit ev.toNat 0 = true →
      (∃ t, exec (.enec direct ev) s = .next t ∧ t.g .mgt F.MGT_STATUS_IBI_EN = 1
        ∧ t.g .mgt F.MGT_STATUS_DA = s.g .mgt F.MGT_STATUS_DA ∧ OnlyRegs (regsOf [(.mgt, F.MGT_STATUS_IBI_EN)]) s t)
      ∧ (∃ t, exec (.disec direct ev) s = .next t ∧ t.g .mgt F.MGT_STATUS_IBI_EN = 0
        ∧ t.g .mgt F.MGT_STATUS_DA = s.g .mgt F.MGT_STATUS_DA ∧ OnlyRegs (regsOf [(.mgt, F.MGT_STATUS_IBI_EN)]) s t))
    ∧ (∃ t, exec .rstdaa s = .next t ∧ t.g .mgt F.MGT_STATUS_DA = 0 ∧ t.g .mgt F.MGT_STATUS_DA_VALID = 0
        ∧ t.g .mgt F.MGT_STATUS_IBI_EN = s.g .mgt F.MGT_STATUS_IBI_EN ∧ OnlyRegs (regsOf [(.mgt, F.MGT_STATUS_DA)]) s t)
    ∧ (∀ a : BitVec 7, s.g .mgt F.MGT_STATUS_DA_VALID = 0 →
      (∃ t, exec (.setdasa a) s = .next t ∧ t.g .mgt F.MGT_STATUS_DA = a.toNat ∧ t.g .mgt F.MGT_STATUS_DA_VALID = 1
        ∧ OnlyRegs (regsOf [(.mgt, F.MGT_STATUS_DA)]) s t)
      ∧ (∃ t, exec (.entdaa a) s = .next t ∧ t.g .mgt F.MGT_STATUS_DA = a.toNat ∧ t.g .mgt F.MGT_STATUS_DA_VALID = 1
        ∧ t.out = .i3c (beBytes 6 s.pid ++ [0x06, Config.mctpDcr]) :: s.out
        ∧ OnlyRegs (regsOf [(.mgt, F.MGT_STATUS_DA)]) { s with out := t.out } t))
    ∧ (∀ a : BitVec 7, s.gb .mgt F.MGT_STATUS_DA_VALID = true →
      ∃ t, exec (.setnewda a) s = .next t ∧ t.g .mgt F.MGT_STATUS_DA = a.toNat ∧ t.g .mgt F.MGT_STATUS_DA_VALID = 1
        ∧ OnlyRegs (regsOf [(.mgt, F.MGT_STATUS_DA)]) s t)
    ∧ (∀ n : BitVec 16, 0 < n.toNat → n.toNat ≤ 261 →
      (∃ t, exec (.setmwl n) s = .next t ∧ t = { s with mgt := { s.mgt with mwl := n.toNat } })
      ∧ ∀ k : BitVec 8, ∃ t, exec (.setmrl n k) s = .next t
          ∧ t = { s with mgt := { s.mgt with mrl := n.toNat, ibiLen := k.toNat } })
    ∧ ∀ a : BitVec 8, ∃ t, exec (.rstact a) s = .next t ∧ t = { s with mgt := { s.mgt with rstact := a.toNat } })
  ∧ (∀ s : State, s.mgt.live = true → s.gb .mgt F.MGT_STATUS_DA_VALID = true →
    (∃ t, exec .getmwl s = .next t ∧ t = { s with out := .i3c (beBytes 2 s.mgt.mwl) :: s.out })
    ∧ (∃ t, exec .getmrl s = .next t ∧ t = { s with out := .i3c (beBytes 2 s.mgt.mrl ++ leBytes 1 s.mgt.ibiLen) :: s.out })
    ∧ (∃ t, exec .getpid s = .next t
        ∧ t = { s with out := .i3c (beBytes 6 (Config.mipiId % 2 ^ 15 * 2 ^ 33 + 2 ^ 32 + s.part.serial % 2 ^ 32)) :: s.out })
    ∧ (∃ t, exec .getbcr s = .next t ∧ t = { s with out := .i3c [0x06] :: s.out })
    ∧ (∃ t, exec .getdcr s = .next t ∧ t = { s with out := .i3c [Config.mctpDcr] :: s.out })
    ∧ ∃ t, ∃ bytes : List Byte, exec .getstatus s = .next t ∧ bytes.length = 2
        ∧ t = { s with out := .i3c bytes :: s.out, fresh := s.fresh + 1 })
  ∧ ∀ s : State,
    (∀ (a : BitVec 7) (ev : BitVec 8), s.mgt.live = false ∨ s.gb .mgt F.MGT_STATUS_DA_VALID = false →
      ∀ c ∈ [Instr.enec true ev, .disec true ev, .setnewda a, .getmwl, .getmrl, .getpid, .getbcr, .getdcr, .getstatus],
        exec c s = .next s)
    ∧ (∀ a : BitVec 7, s.mgt.live = false ∨ s.gb .mgt F.MGT_STATUS_DA_VALID = true →
        exec (.setdasa a) s = .next s ∧ exec (.entdaa a) s = .next s)
    ∧ (∀ (n : BitVec 16) (k : BitVec 8), s.mgt.live = false ∨ n.toNat = 0 ∨ 261 < n.toNat →
        exec (.setmwl n) s = .next s ∧ exec (.setmrl n k) s = .next s)
    ∧ (∀ ev : BitVec 8, s.mgt.live = false ∨ bit ev.toNat 0 = false →
        exec (.enec false ev) s = .next s ∧ exec (.disec false ev) s = .next s)
    ∧ (s.mgt.live = false → exec .rstdaa s = .next s ∧ ∀ a : BitVec 8, exec (.rstact a) s = .next s)

/-- A message that reaches the endpoint counts in MGT_RX_MSGS and is answered on the same transport. The MCTP control commands
answer with the endpoint ID, the message types 0x01, 0x05 and 0x7E and Celholt's vendor ID; SET_ENDPOINT_ID writes the
transport's MGT_EID field. PLDM base: the terminus ID, which SET_TID changes, and the types 0 and 2 with their commands; the
version number and its checksum are open (R409, log entries 1, DESIGN CHOICE, and 33, PRESUMED). An identifier of 0x00 or 0xFF and
another type are answered with an error and change nothing but the count. -/
def Obligations.MctpAndPldmBase : Prop :=
  (∀ (s : State) (pcie : Bool), s.mctpIn pcie = true →
    let counted (t : State) : Prop := t.g .mgt F.MGT_RX_MSGS_COUNT = min (s.g .mgt F.MGT_RX_MSGS_COUNT + 1) (2 ^ 32 - 1)
    (∀ (op : BitVec 2) (eid : BitVec 8), op.toNat < 2 → eid ≠ 0x00 → eid ≠ 0xFF →
      ∃ t, exec (.setEndpointId pcie op eid) s = .next t ∧ t.g .mgt (eidFld pcie) = eid.toNat
        ∧ t.g .mgt (eidFld !pcie) = s.g .mgt (eidFld !pcie)
        ∧ t.out = .mctp pcie [0x00, 0x01, 0x00, 0x00, eid, 0x00] :: s.out
        ∧ counted t ∧ OnlyRegs (regsOf [(.mgt, F.MGT_EID_EID_I3C), (.mgt, F.MGT_RX_MSGS_COUNT)]) { s with out := t.out } t)
    ∧ (∃ t, exec (.getEndpointId pcie) s = .next t
        ∧ t.out = .mctp pcie ([0x00, 0x02, 0x00] ++ leBytes 1 (s.g .mgt (eidFld pcie)) ++ [0x00, 0x00]) :: s.out
        ∧ counted t ∧ OnlyRegs (regsOf [(.mgt, F.MGT_RX_MSGS_COUNT)]) { s with out := t.out } t)
    ∧ (∀ ty : BitVec 8, ty.toNat ∈ [0xFF, 0x00, 0x01, 0x05, 0x7E] → ∃ t, ∃ v : List Byte, exec (.getMctpVersionSupport pcie ty) s = .next t
        ∧ v.length = 4 ∧ t.out = .mctp pcie ([0x00, 0x04, 0x00, 0x01] ++ v) :: s.out
        ∧ counted t ∧ OnlyRegs (regsOf [(.mgt, F.MGT_RX_MSGS_COUNT)]) { s with out := t.out, fresh := s.fresh + 1 } t)
    ∧ (∃ t, exec (.getMessageTypeSupport pcie) s = .next t
        ∧ t.out = .mctp pcie [0x00, 0x05, 0x00, 0x03, 0x01, 0x05, 0x7E] :: s.out
        ∧ counted t ∧ OnlyRegs (regsOf [(.mgt, F.MGT_RX_MSGS_COUNT)]) { s with out := t.out } t)
    ∧ ∃ t, ∃ v : List Byte, exec (.getVendorDefinedMessageSupport pcie 0) s = .next t ∧ v.length = 2
        ∧ t.out = .mctp pcie ([0x00, 0x06, 0x00, 0xFF, 0x00] ++ beBytes 2 Config.vendorId ++ v) :: s.out
        ∧ counted t ∧ OnlyRegs (regsOf [(.mgt, F.MGT_RX_MSGS_COUNT)]) { s with out := t.out, fresh := s.fresh + 1 } t)
  ∧ (∀ (s : State) (pcie : Bool), s.mctpIn pcie = true →
    let counted (t : State) : Prop := t.g .mgt F.MGT_RX_MSGS_COUNT = min (s.g .mgt F.MGT_RX_MSGS_COUNT + 1) (2 ^ 32 - 1)
    (∀ tid : BitVec 8, tid ≠ 0x00 → tid ≠ 0xFF → ∃ t, exec (.setTid pcie tid) s = .next t ∧ t.mgt.tid = tid.toNat
        ∧ t.out = .mctp pcie [0x01, 0x00, 0x01, 0x00] :: s.out
        ∧ counted t ∧ OnlyRegs (regsOf [(.mgt, F.MGT_RX_MSGS_COUNT)]) { s with out := t.out, mgt := { s.mgt with tid := t.mgt.tid } } t)
    ∧ (∃ t, exec (.getTid pcie) s = .next t ∧ t.out = .mctp pcie ([0x01, 0x00, 0x02, 0x00] ++ leBytes 1 s.mgt.tid) :: s.out
        ∧ counted t ∧ OnlyRegs (regsOf [(.mgt, F.MGT_RX_MSGS_COUNT)]) { s with out := t.out } t)
    ∧ (∃ t, exec (.getPldmTypes pcie) s = .next t
        ∧ t.out = .mctp pcie [0x01, 0x00, 0x04, 0x00, 0x05, 0x00, 0x00, 0x00, 0x00, 0x00, 0x00, 0x00] :: s.out
        ∧ counted t ∧ OnlyRegs (regsOf [(.mgt, F.MGT_RX_MSGS_COUNT)]) { s with out := t.out } t)
    ∧ (∀ ty : BitVec 8, ty = 0 ∨ ty = 2 →
      (∃ t, ∃ v : List Byte, exec (.getPldmVersion pcie ty) s = .next t ∧ v.length = 8
        ∧ t.out = .mctp pcie ([0x01, 0x00, 0x03, 0x00] ++ leBytes 4 0 ++ [0x05] ++ v) :: s.out
        ∧ counted t ∧ OnlyRegs (regsOf [(.mgt, F.MGT_RX_MSGS_COUNT)]) { s with out := t.out, fresh := s.fresh + 1 } t)
      ∧ ∃ t, ∃ l : List Byte, exec (.getPldmCommands pcie ty) s = .next t ∧ l.length = 32
        ∧ t.out = .mctp pcie ([0x01, 0x00, 0x05, 0x00] ++ l) :: s.out
        ∧ (∀ n, n < 256 → (bit (leAt l 0 32) n = true ↔ n ∈ pldmCommands ty.toNat))
        ∧ counted t ∧ OnlyRegs (regsOf [(.mgt, F.MGT_RX_MSGS_COUNT)]) { s with out := t.out } t)
    ∧ (∀ (op : BitVec 2) (eid : BitVec 8), 2 ≤ op.toNat ∨ eid = 0x00 ∨ eid = 0xFF → ∃ t, exec (.setEndpointId pcie op eid) s = .next t
        ∧ t.out = .mctp pcie [0x00, 0x01, 0x02] :: s.out
        ∧ counted t ∧ OnlyRegs (regsOf [(.mgt, F.MGT_RX_MSGS_COUNT)]) { s with out := t.out } t)
    ∧ (∀ tid : BitVec 8, tid = 0x00 ∨ tid = 0xFF → ∃ t, exec (.setTid pcie tid) s = .next t
        ∧ t.out = .mctp pcie [0x01, 0x00, 0x01, 0x02] :: s.out
        ∧ counted t ∧ OnlyRegs (regsOf [(.mgt, F.MGT_RX_MSGS_COUNT)]) { s with out := t.out } t)
    ∧ ∀ ty : BitVec 8, ty ≠ 0 → ty ≠ 2 →
      (∃ t, exec (.getPldmVersion pcie ty) s = .next t ∧ t.out = .mctp pcie [0x01, 0x00, 0x03, 0x83] :: s.out
        ∧ counted t ∧ OnlyRegs (regsOf [(.mgt, F.MGT_RX_MSGS_COUNT)]) { s with out := t.out } t)
      ∧ ∃ t, exec (.getPldmCommands pcie ty) s = .next t ∧ t.out = .mctp pcie [0x01, 0x00, 0x05, 0x83] :: s.out
        ∧ counted t ∧ OnlyRegs (regsOf [(.mgt, F.MGT_RX_MSGS_COUNT)]) { s with out := t.out } t)

/-- PLDM reads: the repository's size, a part of a record, every numeric sensor, every state sensor and the composite of the seven
throttle reasons (one that is not available before READY answers so), and effecter 1 with the management cap it is about to take and
has (R409, R410). Another record, sensor or effecter is refused. The bytes that the spec leaves to the DMTF or gives nowhere are
open (log entries 1, DESIGN CHOICE, and 33, PRESUMED). Setting effecter 1 to 600 W to 3,400 W keeps the cap for the next knot or
tick and counts in MGT_CAP_SETS, and is refused outside that range (R355, R409); the event receiver, its enable and the buffer size
are kept for the events to come. -/
def Obligations.PldmReadsAndSettings : Prop :=
  (∀ (s : State) (pcie : Bool), s.mctpIn pcie = true →
    (∃ t, ∃ v : List Byte, exec (.getPdrRepositoryInfo pcie) s = .next t ∧ v.length = 26
        ∧ t.out = .mctp pcie ([0x01, 0x02, 0x50, 0x00, 0x00] ++ v ++ leBytes 4 23
            ++ leBytes 4 (((List.range 23).map fun i => (Config.pdr (i + 1)).length).foldl (· + ·) 0)
            ++ leBytes 4 (((List.range 23).map fun i => (Config.pdr (i + 1)).length).foldl max 0) ++ [0x00]) :: s.out
        ∧ OnlyRegs (regsOf [(.mgt, F.MGT_RX_MSGS_COUNT)]) { s with out := t.out, fresh := s.fresh + 1 } t)
    ∧ (∀ (h o : BitVec 32) (n : BitVec 16), 1 ≤ h.toNat → h.toNat ≤ 23 → o.toNat ≤ (Config.pdr h.toNat).length →
        ∃ t, ∃ head : List Byte, exec (.getPdr pcie h o n) s = .next t ∧ head.length = 12
          ∧ t.out = .mctp pcie ([0x01, 0x02, 0x51] ++ (head ++ ((Config.pdr h.toNat).drop o.toNat).take n.toNat)) :: s.out
          ∧ OnlyRegs (regsOf [(.mgt, F.MGT_RX_MSGS_COUNT)]) { s with out := t.out } t)
    ∧ (∀ (h o : BitVec 32) (n : BitVec 16), 23 < h.toNat → ∃ t, exec (.getPdr pcie h o n) s = .next t
        ∧ t.out = .mctp pcie [0x01, 0x02, 0x51, 0x82] :: s.out
        ∧ OnlyRegs (regsOf [(.mgt, F.MGT_RX_MSGS_COUNT)]) { s with out := t.out } t)
    ∧ (∀ (k : BitVec 16) (rearm : Bool), 1 ≤ k.toNat → k.toNat ≤ 15 → lateSensor k.toNat = false ∨ s.ready = true →
        ∃ t, ∃ v : List Byte, exec (.getSensorReading pcie k rearm) s = .next t ∧ v.length = 4
          ∧ t.out = .mctp pcie ([0x01, 0x02, 0x11, 0x00, 0x02, 0x00] ++ v ++ leBytes 2 (s.reading k.toNat)) :: s.out
          ∧ OnlyRegs (regsOf [(.mgt, F.MGT_RX_MSGS_COUNT)]) { s with out := t.out, fresh := s.fresh + 1 } t)
    ∧ (∀ (k : BitVec 16) (rearm : Bool), k.toNat = 20 ∨ k.toNat = 21 → s.ready = true →
        ∃ t, ∃ v : List Byte, exec (.getSensorReading pcie k rearm) s = .next t ∧ v.length = 4
          ∧ t.out = .mctp pcie ([0x01, 0x02, 0x11, 0x00, 0x04, 0x00] ++ v ++ leBytes 4 (s.reading k.toNat)) :: s.out
          ∧ OnlyRegs (regsOf [(.mgt, F.MGT_RX_MSGS_COUNT)]) { s with out := t.out, fresh := s.fresh + 1 } t)
    ∧ (∀ (k : BitVec 16) (rearm : Bool), lateSensor k.toNat = true → k.toNat ≠ 19 → s.ready = false →
        ∃ t, ∃ v : List Byte, exec (.getSensorReading pcie k rearm) s = .next t ∧ v.length = (if k.toNat < 20 then 6 else 8)
          ∧ t.out = .mctp pcie ([0x01, 0x02, 0x11, 0x00, if k.toNat < 20 then 0x02 else 0x04, 0x02] ++ v) :: s.out
          ∧ OnlyRegs (regsOf [(.mgt, F.MGT_RX_MSGS_COUNT)]) { s with out := t.out, fresh := s.fresh + 1 } t)
    ∧ (∀ (k : BitVec 16) (rearm : Bool), k.toNat = 0 ∨ (16 ≤ k.toNat ∧ k.toNat ≤ 19) ∨ 21 < k.toNat →
        ∃ t, exec (.getSensorReading pcie k rearm) s = .next t ∧ t.out = .mctp pcie [0x01, 0x02, 0x11, 0x80] :: s.out
          ∧ OnlyRegs (regsOf [(.mgt, F.MGT_RX_MSGS_COUNT)]) { s with out := t.out } t)
    ∧ (∃ t, ∃ groups : List Byte, exec (.getStateSensorReadings pcie 19) s = .next t ∧ groups.length = 28
        ∧ t.out = .mctp pcie ([0x01, 0x02, 0x21, 0x00, 0x07] ++ groups) :: s.out
        ∧ (∀ n : Fin 7, if s.ready then leAt groups (4 * n.val) 1 = 0 ∧ leAt groups (4 * n.val + 1) 1 = s.reading (64 + n.val) % 256
            else leAt groups (4 * n.val) 1 = 2)
        ∧ OnlyRegs (regsOf [(.mgt, F.MGT_RX_MSGS_COUNT)]) { s with out := t.out, fresh := s.fresh + 7 } t)
    ∧ (∀ k : BitVec 16, k.toNat < 16 ∨ 19 < k.toNat → ∃ t, exec (.getStateSensorReadings pcie k) s = .next t
        ∧ t.out = .mctp pcie [0x01, 0x02, 0x21, 0x80] :: s.out
        ∧ OnlyRegs (regsOf [(.mgt, F.MGT_RX_MSGS_COUNT)]) { s with out := t.out } t)
    ∧ (∀ k v : BitVec 16, k ≠ 1 →
        (∃ t, exec (.getNumericEffecterValue pcie k) s = .next t ∧ t.out = .mctp pcie [0x01, 0x02, 0x32, 0x80] :: s.out
          ∧ OnlyRegs (regsOf [(.mgt, F.MGT_RX_MSGS_COUNT)]) { s with out := t.out } t)
        ∧ ∃ t, exec (.setNumericEffecterValue pcie k v) s = .next t ∧ t.out = .mctp pcie [0x01, 0x02, 0x31, 0x80] :: s.out
          ∧ OnlyRegs (regsOf [(.mgt, F.MGT_RX_MSGS_COUNT)]) { s with out := t.out } t)
    ∧ (∀ k : BitVec 16, 16 ≤ k.toNat → k.toNat ≤ 18 →
        ∃ t, ∃ v : List Byte, exec (.getStateSensorReadings pcie k) s = .next t ∧ v.length = 2
          ∧ t.out = .mctp pcie ([0x01, 0x02, 0x21, 0x00, 0x01, 0x00] ++ leBytes 1 (s.reading k.toNat) ++ v) :: s.out
          ∧ OnlyRegs (regsOf [(.mgt, F.MGT_RX_MSGS_COUNT)]) { s with out := t.out, fresh := s.fresh + 1 } t)
    ∧ ∃ t, exec (.getNumericEffecterValue pcie 1) s = .next t
        ∧ t.out = .mctp pcie ([0x01, 0x02, 0x32, 0x00, 0x02, if s.pwr.capMgt.isSome then 0x00 else 0x01]
            ++ leBytes 2 (s.pwr.capMgt.getD (s.g .pwr F.PWR_CAP_MGT_CAP)) ++ leBytes 2 (s.g .pwr F.PWR_CAP_MGT_CAP)) :: s.out
        ∧ OnlyRegs (regsOf [(.mgt, F.MGT_RX_MSGS_COUNT)]) { s with out := t.out } t)
  ∧ (∀ (s : State) (pcie : Bool), s.mctpIn pcie = true →
    (∀ v : BitVec 16, 600 ≤ v.toNat → v.toNat ≤ 3400 → ∃ t, exec (.setNumericEffecterValue pcie 1 v) s = .next t
        ∧ t.pwr = { s.pwr with capMgt := some v.toNat }
        ∧ t.g .mgt F.MGT_CAP_SETS_COUNT = min (s.g .mgt F.MGT_CAP_SETS_COUNT + 1) (2 ^ 32 - 1)
        ∧ t.out = .mctp pcie [0x01, 0x02, 0x31, 0x00] :: s.out
        ∧ OnlyRegs (regsOf [(.mgt, F.MGT_RX_MSGS_COUNT), (.mgt, F.MGT_CAP_SETS_COUNT)]) { s with out := t.out, pwr := t.pwr } t)
    ∧ (∀ v : BitVec 16, v.toNat < 600 ∨ 3400 < v.toNat → ∃ t, exec (.setNumericEffecterValue pcie 1 v) s = .next t
        ∧ t.out = .mctp pcie [0x01, 0x02, 0x31, 0x02] :: s.out
        ∧ OnlyRegs (regsOf [(.mgt, F.MGT_RX_MSGS_COUNT)]) { s with out := t.out } t)
    ∧ (∀ (en eid : BitVec 8), en ≠ 0 → en ≠ 2 → ∃ t, exec (.setEventReceiver pcie en eid) s = .next t
        ∧ t.out = .mctp pcie [0x01, 0x02, 0x04, 0x81] :: s.out
        ∧ OnlyRegs (regsOf [(.mgt, F.MGT_RX_MSGS_COUNT)]) { s with out := t.out } t)
    ∧ (∀ (en eid : BitVec 8), en = 0 ∨ en = 2 → ∃ t, exec (.setEventReceiver pcie en eid) s = .next t
        ∧ t.mgt = { s.mgt with evtEnable := en.toNat, evtEid := eid.toNat }
        ∧ t.out = .mctp pcie [0x01, 0x02, 0x04, 0x00] :: s.out
        ∧ OnlyRegs (regsOf [(.mgt, F.MGT_RX_MSGS_COUNT)]) { s with out := t.out, mgt := t.mgt } t)
    ∧ (∀ n : BitVec 16, ∃ t, ∃ v : List Byte, exec (.eventMessageBufferSize pcie n) s = .next t ∧ v.length = 2
        ∧ t.mgt = { s.mgt with evtBuffer := n.toNat } ∧ t.out = .mctp pcie ([0x01, 0x02, 0x0D, 0x00] ++ v) :: s.out
        ∧ OnlyRegs (regsOf [(.mgt, F.MGT_RX_MSGS_COUNT)]) { s with out := t.out, mgt := t.mgt, fresh := s.fresh + 1 } t)
    ∧ ∃ t, exec (.eventMessageSupported pcie) s = .next t
        ∧ t.out = .mctp pcie ([0x01, 0x02, 0x0C, 0x00] ++ leBytes 1 s.mgt.evtEnable ++ [0x05, 0x01, 0x00]) :: s.out
        ∧ OnlyRegs (regsOf [(.mgt, F.MGT_RX_MSGS_COUNT)]) { s with out := t.out } t)

/-- Polling hands out the oldest queued event, or none, and takes one from the queue only when its identity comes back; then the
queue's length stands in MGT_STATUS, and ALERT shows whether an event still waits (R411). SENSOR_REFRESH takes the supply's
readings, the temperatures, the throttle reasons and the states of one instant, and nothing else changes (R410). -/
def Obligations.SensorEventsPolled : Prop :=
  (∀ (s : State) (pcie : Bool) (ack : BitVec 16) (e : SensorEvent) (l : List SensorEvent), s.mctpIn pcie = true →
      s.sensorQ = e :: l → l.length < 64 →
      (ack.toNat = s.mgt.evtId → ∃ t, exec (.pollForPlatformEventMessage pcie ack) s = .next t ∧ t.sensorQ = l
        ∧ t.mgt.evtId = s.mgt.evtId % 0xFFFE + 1
        ∧ t.g .mgt F.MGT_STATUS_EVT_QUEUED = l.length ∧ t.g .mgt F.MGT_STATUS_ALERT = (if l = [] then 0 else 1)
        ∧ t.out = .mctp pcie ([0x01, 0x02, 0x0B, 0x00] ++ leBytes 1 s.mgt.tid ++ match l with
            | [] => leBytes 2 0
            | e' :: _ => leBytes 2 (s.mgt.evtId % 0xFFFE + 1) ++ leBytes 4 0 ++ [0x05, 0x00] ++ leBytes 4 e'.bytes.length ++ e'.bytes)
            :: s.out
        ∧ OnlyRegs (regsOf [(.mgt, F.MGT_RX_MSGS_COUNT), (.mgt, F.MGT_STATUS_ALERT)])
            { s with out := t.out, sensorQ := l, mgt := t.mgt } t)
      ∧ (ack.toNat ≠ s.mgt.evtId → ∃ t, exec (.pollForPlatformEventMessage pcie ack) s = .next t
        ∧ t.out = .mctp pcie ([0x01, 0x02, 0x0B, 0x00] ++ leBytes 1 s.mgt.tid ++ leBytes 2 s.mgt.evtId ++ leBytes 4 0
            ++ [0x05, 0x00] ++ leBytes 4 e.bytes.length ++ e.bytes) :: s.out
        ∧ OnlyRegs (regsOf [(.mgt, F.MGT_RX_MSGS_COUNT)]) { s with out := t.out } t))
  ∧ (∀ (s : State) (pcie : Bool) (ack : BitVec 16), s.mctpIn pcie = true → s.sensorQ = [] →
      ∃ t, exec (.pollForPlatformEventMessage pcie ack) s = .next t
        ∧ t.out = .mctp pcie ([0x01, 0x02, 0x0B, 0x00] ++ leBytes 1 s.mgt.tid ++ leBytes 2 0) :: s.out
        ∧ OnlyRegs (regsOf [(.mgt, F.MGT_RX_MSGS_COUNT)]) { s with out := t.out } t)
  ∧ ∀ s : State, s.mgt.live = true → ∃ t, exec .sensorRefresh s = .next t
      ∧ t.reading 1 = s.g .pwr F.PWR_INPUT_VIN_MV ∧ t.reading 2 = s.g .pwr F.PWR_INPUT_IIN
      ∧ t.reading 3 = s.g .pwr F.PWR_MODULE_W_AVG_W ∧ t.reading 4 = s.g .pwr F.PWR_MODULE_W_PEAK_W
      ∧ t.reading 5 = s.g .pwr F.PWR_CAP_IN_FORCE ∧ (∀ h : Hoop, t.reading (6 + h.val) = s.g .pwr ⟨0x34, 8 * h.val, 8⟩)
      ∧ t.reading 10 = s.g .pwr F.PWR_SHUTTLE_TEMP_S0 ∧ t.reading 11 = s.g .pwr F.PWR_SHUTTLE_TEMP_S1
      ∧ (∀ (h : Hoop) (i : Fin 6), s.g (.hbm (6 * h.val + i.val)) F.HBM_STATUS_TEMP ≤ t.reading (12 + h.val))
      ∧ (∀ n : Fin 7, t.reading (64 + n.val) = if bit (s.g .pwr F.PWR_THR_ACTIVE_REASONS) n.val then 2 else 1)
      ∧ t.reading 18 = s.lockState + 1 ∧ t.reading 17 = (if s.fatalSet then 3 else if s.ready then 2 else 1)
      ∧ t = { s with mgt := { s.mgt with readings := t.mgt.readings } }

/-- A first request opens a connection while fewer than two are held, and a repeated one starts its transcript again; the response
offers SPDM 1.2. A third requester is answered Busy and held by no connection (R405). Capabilities and algorithms follow in
order: the response names CERT_CAP, CHAL_CAP, MEAS_CAP 0b10 and MEAS_FRESH_CAP with transfers of up to 8,192 bytes, then SPDM's
algorithm selection, and both sides enter the transcript. An offer without the algorithms of R404, and one before the capabilities,
get an error and leave the connection where it was; a request above 8,192 bytes is dropped and counted in MGT_RX_ERR. -/
def Obligations.SpdmOpensAndNegotiates : Prop :=
  (∀ (s : State) (pcie : Bool) (eid : BitVec 8), s.mctpIn pcie = true →
    ((s.conn eid.toNat).isSome = true ∨ s.mgt.spdm.length < 2 → ∃ t, exec (.getVersion pcie eid) s = .next t
      ∧ t.conn eid.toNat = some { eid := eid.toNat, phase := 1
                                  nego := [0x10, 0x84, 0x00, 0x00, 0x10, 0x04, 0x00, 0x00, 0x00, 0x01, 0x00, 0x12] }
      ∧ t.out = .mctp pcie [0x05, 0x10, 0x04, 0x00, 0x00, 0x00, 0x01, 0x00, 0x12] :: s.out
      ∧ t.g .mgt F.MGT_SPDM_CONN = t.mgt.spdm.length % 4
      ∧ OnlyRegs (regsOf [(.mgt, F.MGT_RX_MSGS_COUNT), (.mgt, F.MGT_SPDM_CONN)])
          { s with out := t.out, mgt := { s.mgt with spdm := t.mgt.spdm } } t)
    ∧ (s.conn eid.toNat = none → s.mgt.spdm.length = 2 → ∃ t, exec (.getVersion pcie eid) s = .next t
      ∧ t.out = .mctp pcie [0x05, 0x12, 0x7F, 0x03, 0x00] :: s.out
      ∧ OnlyRegs (regsOf [(.mgt, F.MGT_RX_MSGS_COUNT)]) { s with out := t.out } t))
  ∧ (∀ (s : State) (pcie : Bool) (eid : BitVec 8) (body : List Byte) (c : SpdmConn), s.mctpIn pcie = true →
    4 + body.length ≤ 8192 → s.conn eid.toNat = some c →
    (1 ≤ c.phase → ∃ t, ∃ rsp : List Byte, exec (.getCapabilities pcie eid body) s = .next t ∧ t.out = .mctp pcie (0x05 :: rsp) :: s.out
      ∧ leAt rsp 0 4 = 0x6112 ∧ leAt rsp 8 4 = 0x36 ∧ leAt rsp 12 4 = 8192 ∧ leAt rsp 16 4 = 8192
      ∧ t.conn eid.toNat = some { c with phase := max c.phase 2, nego := c.nego ++ [0x12, 0xE1, 0x00, 0x00] ++ body ++ rsp }
      ∧ OnlyRegs (regsOf [(.mgt, F.MGT_RX_MSGS_COUNT), (.mgt, F.MGT_SPDM_CONN)])
          { s with out := t.out, mgt := { s.mgt with spdm := t.mgt.spdm } } t)
    ∧ (2 ≤ c.phase → ∃ t, ∃ rsp : List Byte, exec (.negotiateAlgorithms pcie eid true body) s = .next t
      ∧ t.out = .mctp pcie (0x05 :: rsp) :: s.out ∧ rsp.length = 48 ∧ leAt rsp 0 2 = 0x6312
      ∧ t.conn eid.toNat = some { c with phase := 3, nego := c.nego ++ [0x12, 0xE3, 0x00, 0x00] ++ body ++ rsp }
      ∧ OnlyRegs (regsOf [(.mgt, F.MGT_RX_MSGS_COUNT), (.mgt, F.MGT_SPDM_CONN)])
          { s with out := t.out, mgt := { s.mgt with spdm := t.mgt.spdm } } t)
    ∧ (2 ≤ c.phase → ∃ t, exec (.negotiateAlgorithms pcie eid false body) s = .next t
      ∧ t.out = .mctp pcie [0x05, 0x12, 0x7F, 0x01, 0x00] :: s.out
      ∧ OnlyRegs (regsOf [(.mgt, F.MGT_RX_MSGS_COUNT)]) { s with out := t.out } t)
    ∧ (c.phase < 2 → ∃ t, exec (.negotiateAlgorithms pcie eid true body) s = .next t
      ∧ t.out = .mctp pcie [0x05, 0x12, 0x7F, 0x04, 0x00] :: s.out
      ∧ OnlyRegs (regsOf [(.mgt, F.MGT_RX_MSGS_COUNT)]) { s with out := t.out } t))
  ∧ ∀ (s : State) (pcie : Bool) (eid : BitVec 8) (body : List Byte), s.mctpIn pcie = true → 8192 < 4 + body.length →
    ∀ c ∈ [Instr.getCapabilities pcie eid body, .negotiateAlgorithms pcie eid true body, .getMeasurements pcie eid 0xFF true body],
      ∃ t, exec c s = .next t ∧ t.g .mgt F.MGT_RX_ERR_COUNT = min (s.g .mgt F.MGT_RX_ERR_COUNT + 1) (2 ^ F.MGT_RX_ERR_COUNT.w - 1)
        ∧ OnlyRegs (regsOf [(.mgt, F.MGT_RX_ERR_COUNT)]) s t

/-- On a negotiated connection GET_DIGESTS sends the digest of slot 0's chain and GET_CERTIFICATE at most 4,096 bytes of that chain
with the number that remain, while the device holds a certificate for its key; without one no slot holds a chain (R403, R404).
CHALLENGE and a signed GET_MEASUREMENTS end in a signature with the identity key over the transcript, counted in SEC_SIGN_COUNT;
with signing disabled both get an error. Measurements are taken at the response, all six blocks, one of them or their number, and
only once the EXTENSION stage has ended (R405, R406). The nonces and the summary of trusted components are free values (log entry
1, DESIGN CHOICE). -/
def Obligations.SpdmCertificatesAndSignatures : Prop :=
  (∀ (s : State) (pcie : Bool) (eid : BitVec 8) (c : SpdmConn), s.mctpIn pcie = true → s.conn eid.toNat = some c → 3 ≤ c.phase →
    (s.certOk = true → ∃ t, exec (.getDigests pcie eid) s = .next t
      ∧ t.out = .mctp pcie ([0x05, 0x12, 0x01, 0x00, 0x01] ++ shake384 s.part.chain) :: s.out
      ∧ OnlyRegs (regsOf [(.mgt, F.MGT_RX_MSGS_COUNT), (.mgt, F.MGT_SPDM_CONN)])
          { s with out := t.out, mgt := { s.mgt with spdm := t.mgt.spdm } } t)
    ∧ (s.certOk = false → ∃ t, exec (.getDigests pcie eid) s = .next t ∧ t.out = .mctp pcie [0x05, 0x12, 0x01, 0x00, 0x00] :: s.out
      ∧ OnlyRegs (regsOf [(.mgt, F.MGT_RX_MSGS_COUNT), (.mgt, F.MGT_SPDM_CONN)])
          { s with out := t.out, mgt := { s.mgt with spdm := t.mgt.spdm } } t)
    ∧ (∀ o n : BitVec 16, s.certOk = true → o.toNat < s.part.chain.length → s.part.chain.length < 65536 →
      ∃ t, ∃ part : List Byte, exec (.getCertificate pcie eid 0 o n) s = .next t
        ∧ part = (s.part.chain.drop o.toNat).take (min n.toNat 4096)
        ∧ t.out = .mctp pcie ([0x05, 0x12, 0x02, 0x00, 0x00] ++ leBytes 2 part.length
            ++ leBytes 2 (s.part.chain.length - o.toNat - part.length) ++ part) :: s.out
        ∧ OnlyRegs (regsOf [(.mgt, F.MGT_RX_MSGS_COUNT), (.mgt, F.MGT_SPDM_CONN)])
          { s with out := t.out, mgt := { s.mgt with spdm := t.mgt.spdm } } t)
    ∧ ∀ (k : BitVec 8) (o n : BitVec 16), k ≠ 0 ∨ s.certOk = false → ∃ t, exec (.getCertificate pcie eid k o n) s = .next t
        ∧ t.out = .mctp pcie [0x05, 0x12, 0x7F, 0x01, 0x00] :: s.out
        ∧ OnlyRegs (regsOf [(.mgt, F.MGT_RX_MSGS_COUNT)]) { s with out := t.out } t)
  ∧ (∀ (s : State) (pcie : Bool) (eid : BitVec 8) (body : List Byte) (c : SpdmConn), s.mctpIn pcie = true →
    4 + body.length ≤ 8192 → s.conn eid.toNat = some c → 3 ≤ c.phase → s.signEn = true →
    (s.certOk = true → ∃ t, ∃ (k : Nat) (nonce summary : List Byte), exec (.challenge pcie eid 0 body) s = .next t
      ∧ nonce.length = 32 ∧ (leAt body 0 1 = 0 → summary = []) ∧ (leAt body 0 1 = 1 → summary.length = 48)
      ∧ (2 ≤ leAt body 0 1 → summary = shake384 (s.measBlocks 0xFF).flatten)
      ∧ (let rsp := [0x12, 0x03, 0x00, 0x01] ++ shake384 s.part.chain ++ nonce ++ summary ++ [0x00, 0x00]
         t.out = .mctp pcie (0x05 :: (rsp ++ Config.mldsaSign (s.idKey.getD []) k
           (shake384 (c.nego ++ c.certs ++ [0x12, 0x83, 0x00] ++ body ++ rsp)) (ascii "responder-challenge_auth signing"))) :: s.out)
      ∧ t.g .sec F.SEC_SIGN_COUNT_COUNT = min (s.g .sec F.SEC_SIGN_COUNT_COUNT + 1) (2 ^ 32 - 1)
      ∧ t.conn eid.toNat = some { c with certs := [] }
      ∧ OnlyRegs (regsOf [(.mgt, F.MGT_RX_MSGS_COUNT), (.mgt, F.MGT_SPDM_CONN), (.sec, F.SEC_SIGN_COUNT_COUNT)])
          { s with out := t.out, fresh := t.fresh, mgt := { s.mgt with spdm := t.mgt.spdm } } t)
    ∧ ∀ slot : BitVec 8, slot ≠ 0 ∨ s.certOk = false → ∃ t, exec (.challenge pcie eid slot body) s = .next t
      ∧ t.out = .mctp pcie [0x05, 0x12, 0x7F, 0x01, 0x00] :: s.out
      ∧ OnlyRegs (regsOf [(.mgt, F.MGT_RX_MSGS_COUNT)]) { s with out := t.out } t)
  ∧ (∀ (s : State) (pcie : Bool) (eid op : BitVec 8) (sign : Bool) (body : List Byte) (c : SpdmConn), s.mctpIn pcie = true →
    4 + body.length ≤ 8192 → s.conn eid.toNat = some c → 3 ≤ c.phase →
    (3 < s.stage_ → sign = false ∨ s.signEn = true → op.toNat ≤ 6 ∨ op = 0xFF →
      ∃ t, ∃ (k : Nat) (nonce : List Byte), exec (.getMeasurements pcie eid op sign body) s = .next t ∧ nonce.length = 32
      ∧ (s.measBlocks op.toNat).length = (if op = 0 then 0 else if op = 0xFF then 6 else 1)
      ∧ (let bs := s.measBlocks op.toNat
         let req := [0x12, 0xE0, if sign then 0x01 else 0x00, op] ++ body
         let rsp := [0x12, 0x60, if op = 0 then 0x06 else 0x00, 0x00] ++ leBytes 1 bs.length ++ leBytes 3 bs.flatten.length
           ++ bs.flatten ++ nonce ++ [0x00, 0x00]
         t.out = .mctp pcie (0x05 :: (rsp ++ if sign then Config.mldsaSign (s.idKey.getD []) k
             (shake384 (c.nego ++ (c.meas ++ req ++ rsp))) (ascii "responder-measurements signing") else [])) :: s.out
         ∧ t.conn eid.toNat = some { c with meas := if sign then [] else c.meas ++ req ++ rsp })
      ∧ t.g .sec F.SEC_SIGN_COUNT_COUNT
          = (if sign then min (s.g .sec F.SEC_SIGN_COUNT_COUNT + 1) (2 ^ 32 - 1) else s.g .sec F.SEC_SIGN_COUNT_COUNT)
      ∧ OnlyRegs (regsOf [(.mgt, F.MGT_RX_MSGS_COUNT), (.mgt, F.MGT_SPDM_CONN), (.sec, F.SEC_SIGN_COUNT_COUNT)])
          { s with out := t.out, fresh := t.fresh, mgt := { s.mgt with spdm := t.mgt.spdm } } t)
    ∧ (s.stage_ ≤ 3 → ∃ t, exec (.getMeasurements pcie eid op sign body) s = .next t
      ∧ t.out = .mctp pcie [0x05, 0x12, 0x7F, 0x03, 0x00] :: s.out
      ∧ OnlyRegs (regsOf [(.mgt, F.MGT_RX_MSGS_COUNT)]) { s with out := t.out } t)
    ∧ (s.signEn = false → (∀ slot : BitVec 8, ∃ t, exec (.challenge pcie eid slot body) s = .next t
        ∧ t.out = .mctp pcie [0x05, 0x12, 0x7F, 0x05, 0x00] :: s.out
        ∧ OnlyRegs (regsOf [(.mgt, F.MGT_RX_MSGS_COUNT)]) { s with out := t.out } t)
      ∧ (3 < s.stage_ → ∃ t, exec (.getMeasurements pcie eid op true body) s = .next t
        ∧ t.out = .mctp pcie [0x05, 0x12, 0x7F, 0x05, 0x00] :: s.out
        ∧ OnlyRegs (regsOf [(.mgt, F.MGT_RX_MSGS_COUNT)]) { s with out := t.out } t)))

/-- EXT_BEGIN, from READY and not for the slot of the running extension, erases the slot and opens a sequence; EXT_DATA appends up
to 1,024 bytes at the next offset; EXT_END closes the sequence and answers with the reject code of the checks; a sequence that
times out leaves the slot erased; EXT_STATUS answers with EXT_STATE, EXT_SLOT, the SVN and VERSION of both slots and MIN_SVN, and
changes nothing. A second EXT_BEGIN, one before READY or for the running extension's slot, a part out of order or too long, and a
part or an end without a sequence are refused (R400); the layout of the answers is log entry 30, DESIGN CHOICE. -/
def Obligations.ExtensionSlotWritten : Prop :=
  (∀ (s : State) (pcie : Bool) (slot : BitVec 8), s.mctpIn pcie = true →
    let runs := s.g .sec F.SEC_BOOT_STATUS_EXT_STATE = 1 ∧ s.g .sec F.SEC_BOOT_STATUS_EXT_SLOT = slot.toNat
    (s.ready = true → slot.toNat ≤ 1 → s.mgt.ext = none → ¬runs →
      ∃ t, exec (.extBegin pcie slot) s = .next t ∧ t.mgt = { s.mgt with ext := some ⟨slot == 1, 0⟩ } ∧ t.extSlot (slot == 1) = []
        ∧ t.extSlot (slot != 1) = s.extSlot (slot != 1)
        ∧ t.part = { s.part with slotA := t.part.slotA, slotB := t.part.slotB }
        ∧ t.out = .mctp pcie ([0x7E] ++ beBytes 2 Config.vendorId ++ [0x01, 0x00]) :: s.out
        ∧ OnlyRegs (regsOf [(.mgt, F.MGT_RX_MSGS_COUNT)]) { s with out := t.out, mgt := t.mgt, part := t.part } t)
    ∧ (s.ready = false ∨ s.mgt.ext.isSome = true ∨ 1 < slot.toNat ∨ runs → ∃ t, exec (.extBegin pcie slot) s = .next t
        ∧ t.out = .mctp pcie ([0x7E] ++ beBytes 2 Config.vendorId ++ [0x01, 0x01]) :: s.out
        ∧ OnlyRegs (regsOf [(.mgt, F.MGT_RX_MSGS_COUNT)]) { s with out := t.out } t))
  ∧ (∀ (s : State) (pcie : Bool) (o : BitVec 32) (bytes : List Byte), s.mctpIn pcie = true →
    (∀ e : ExtSeq, s.mgt.ext = some e → o.toNat = e.next → bytes.length ≤ 1024 → e.next + bytes.length ≤ 0x200000 →
      ∃ t, exec (.extData pcie o bytes) s = .next t ∧ t.mgt = { s.mgt with ext := some { e with next := e.next + bytes.length } }
        ∧ t.extSlot e.slotB = s.extSlot e.slotB ++ bytes ∧ t.extSlot (!e.slotB) = s.extSlot (!e.slotB)
        ∧ t.part = { s.part with slotA := t.part.slotA, slotB := t.part.slotB }
        ∧ t.out = .mctp pcie ([0x7E] ++ beBytes 2 Config.vendorId ++ [0x02, 0x00]) :: s.out
        ∧ OnlyRegs (regsOf [(.mgt, F.MGT_RX_MSGS_COUNT)]) { s with out := t.out, mgt := t.mgt, part := t.part } t)
    ∧ (bytes.length ≤ 8192 → (∀ e, s.mgt.ext = some e → o.toNat ≠ e.next ∨ 1024 < bytes.length ∨ 0x200000 < e.next + bytes.length) →
      ∃ t, exec (.extData pcie o bytes) s = .next t
        ∧ t.out = .mctp pcie ([0x7E] ++ beBytes 2 Config.vendorId ++ [0x02, 0x01]) :: s.out
        ∧ OnlyRegs (regsOf [(.mgt, F.MGT_RX_MSGS_COUNT)]) { s with out := t.out } t))
  ∧ (∀ (s : State) (pcie : Bool), s.mctpIn pcie = true →
    (∀ e : ExtSeq, s.mgt.ext = some e →
      ∃ t, ∃ code : Nat, exec (.extEnd pcie) s = .next t ∧ t.mgt = { s.mgt with ext := none } ∧ code ≤ 9
        ∧ (s.part.extReject (s.extSlot e.slotB) ≠ 0 → code = s.part.extReject (s.extSlot e.slotB))
        ∧ (s.part.extReject (s.extSlot e.slotB) = 0 → code = if extBodyOk (s.extSlot e.slotB) then 0 else 9)
        ∧ t.out = .mctp pcie ([0x7E] ++ beBytes 2 Config.vendorId ++ [0x03] ++ ([0x00] ++ leBytes 1 code)) :: s.out
        ∧ OnlyRegs (regsOf [(.mgt, F.MGT_RX_MSGS_COUNT)]) { s with out := t.out, mgt := t.mgt } t)
    ∧ (s.mgt.ext = none → ∃ t, exec (.extEnd pcie) s = .next t
        ∧ t.out = .mctp pcie ([0x7E] ++ beBytes 2 Config.vendorId ++ [0x03, 0x01]) :: s.out
        ∧ OnlyRegs (regsOf [(.mgt, F.MGT_RX_MSGS_COUNT)]) { s with out := t.out } t)
    ∧ ∃ t, exec (.extStatus pcie) s = .next t
        ∧ (let head (l : List Byte) : List Byte := flashRead l 0x10 4 ++ flashRead l 0x18 8
           t.out = .mctp pcie ([0x7E] ++ beBytes 2 Config.vendorId ++ [0x04] ++ ([0x00]
             ++ leBytes 1 (s.g .sec F.SEC_BOOT_STATUS_EXT_STATE) ++ leBytes 1 (s.g .sec F.SEC_BOOT_STATUS_EXT_SLOT)
             ++ head s.part.slotA ++ head s.part.slotB ++ leBytes 4 s.part.minSvn)) :: s.out)
        ∧ OnlyRegs (regsOf [(.mgt, F.MGT_RX_MSGS_COUNT)]) { s with out := t.out } t)
  ∧ ∀ (s : State) (e : ExtSeq), s.mgt.ext = some e → ∃ t, exec .extSequenceTimeout s = .next t ∧ t.mgt = { s.mgt with ext := none }
      ∧ t.extSlot e.slotB = [] ∧ t.extSlot (!e.slotB) = s.extSlot (!e.slotB)
      ∧ t.part = { s.part with slotA := t.part.slotA, slotB := t.part.slotB } ∧ t = { s with mgt := t.mgt, part := t.part }

/-! ### Interrupts and counters -/

/-- A filtered high level of a driven line sets LINE and makes an edge source, or a level source that is not active, pending: each
core that the source is enabled for and targets is interrupted unless masked, and woken where it sleeps. A low level clears
LINE, and PEND too of a level source. ACK by a core the source targets turns pending into active and is reported in IRQ_ACK; DONE
by the core that holds it ends that, and the source is pending again at once where its level is still high. A level that the
filter shows already, a line that nothing drives, an ACK of a source that is not pending, does not target the core or is held by
another, and a DONE by a core that does not hold the source change nothing. -/
def Obligations.InterruptStates : Prop :=
  (∀ (s : State) (d : Die) (n : BitVec 8), s.pwrRuns = true → s.irqLine d.val n.toNat = false → s.irqDriven d.val n.toNat = true →
      ∃ t, exec (.irqLineFiltered d n true) s = .next t ∧ t.irqLine d.val n.toNat = true
        ∧ (s.irqEdge d.val n.toNat = true ∨ s.irqActive d.val n.toNat = false → t.irqPending d.val n.toNat = true
          ∧ ∀ c : Fin 4, s.irqEnabled d.val n.toNat = true → s.irqTargets d.val n.toNat c.val = true →
            (n = 2 ∨ s.irqBit d.val (F.IRQ_MASK_MASK c.val) n.toNat = false → Out.coreInterrupt d.val c.val n.toNat ∈ t.out)
            ∧ (bit (s.g (.irq d.val) F.IRQ_STATUS_ASLEEP) c.val = true → Out.coreWake d.val c.val n.toNat ∈ t.out
                ∧ bit (t.g (.irq d.val) F.IRQ_STATUS_ASLEEP) c.val = false))
        ∧ OnlyReports (windows [.irq d.val]) s t)
  ∧ (∀ (s : State) (d : Die) (n : BitVec 8), s.pwrRuns = true → s.irqLine d.val n.toNat = true →
      ∃ t, exec (.irqLineFiltered d n false) s = .next t ∧ t.irqLine d.val n.toNat = false
        ∧ (s.irqEdge d.val n.toNat = false → t.irqPending d.val n.toNat = false)
        ∧ (s.irqEdge d.val n.toNat = true → t.irqPending d.val n.toNat = s.irqPending d.val n.toNat)
        ∧ (d.val * 256 + n.toNat) ∉ t.lines ∧ OnlyRegs (windows [.irq d.val]) { s with lines := t.lines } t)
  ∧ (∀ (s : State) (d : Die) (n : BitVec 8) (v : Bool),
      s.irqLine d.val n.toNat = v ∨ v = true ∧ s.irqDriven d.val n.toNat = false → exec (.irqLineFiltered d n v) s = .next s)
  ∧ (∀ (s : State) (d : Die) (c : Fin 4) (n : BitVec 8), s.pwrRuns = true → s.irqPending d.val n.toNat = true →
      s.irqTargets d.val n.toNat c.val = true →
      s.irqActive d.val n.toNat = false ∨ tget 0 s.irqHeld (d.val * 256 + n.toNat) = c.val + 1 →
      ∃ t, exec (.irqAck d c n) s = .next t ∧ t.irqPending d.val n.toNat = false ∧ t.irqActive d.val n.toNat = true
        ∧ t.g (.irq d.val) (F.IRQ_ACK_SOURCE c.val) = n.toNat ∧ t.g (.irq d.val) (F.IRQ_ACK_HELD c.val) = 1
        ∧ tget 0 t.irqHeld (d.val * 256 + n.toNat) = c.val + 1
        ∧ OnlyRegs (windows [.irq d.val]) { s with irqHeld := t.irqHeld } t)
  ∧ (∀ (s : State) (d : Die) (c : Fin 4) (n : BitVec 8), s.irqPending d.val n.toNat = false ∨ s.irqTargets d.val n.toNat c.val = false
      ∨ s.irqActive d.val n.toNat = true ∧ tget 0 s.irqHeld (d.val * 256 + n.toNat) ≠ c.val + 1 →
      exec (.irqAck d c n) s = .next s)
  ∧ (∀ (s : State) (d : Die) (c : Fin 4) (n : BitVec 8), s.pwrRuns = true → s.irqActive d.val n.toNat = true →
      tget 0 s.irqHeld (d.val * 256 + n.toNat) = c.val + 1 →
      ∃ t, exec (.irqDone d c n) s = .next t ∧ t.irqActive d.val n.toNat = false ∧ tget 0 t.irqHeld (d.val * 256 + n.toNat) = 0
        ∧ (s.irqPending d.val n.toNat = true ∨ s.irqEdge d.val n.toNat = false ∧ s.irqLine d.val n.toNat = true →
            t.irqPending d.val n.toNat = true)
        ∧ OnlyRegs (windows [.irq d.val]) { s with irqHeld := t.irqHeld, out := t.out } t)
  ∧ ∀ (s : State) (d : Die) (c : Fin 4) (n : BitVec 8), s.irqActive d.val n.toNat = false
      ∨ tget 0 s.irqHeld (d.val * 256 + n.toNat) ≠ c.val + 1 → exec (.irqDone d c n) s = .next s

/-- A counter of a set that wraps pulses source 128 + k. The end of a window in ns, at local time once it has come there, copies
each windowed counter to its result and restarts it, adds one to the window's sequence number, pulses source 152 and sets the next
end NS later; a set without such a window is left alone (R439, R440; a window in knots ends at its knots). A host write to
PMU_SET_CTRL clears the set's counters, cycle counter, results and sequence number (R436, R437). Selecting a record of a Hoop's
sample buffer shows it in PMU_SMP_DATA; writing the tail, within the range from TAIL to HEAD in ring order, frees the places up to
it; any other tail is ignored (R447). -/
def Obligations.CountersAndSamples : Prop :=
  ((∀ (s : State) (d : Die) (k : Fin 17), k.val < setsOf d.val → ∃ t, exec (.pmuCounterWrap d k) s = .next t
      ∧ (d.val * 256 + (128 + k.val)) ∈ t.lines ∧ t = { s with lines := t.lines })
  ∧ (∀ (s : State) (d : Die) (k : Fin 17), k.val < setsOf d.val → s.g (.pmu d.val) (setFld k.val F.PMU_WIN_CFG_UNIT) = 1 →
      s.g (.pmu d.val) (setFld k.val F.PMU_WIN_NS_NS) ≠ 0 →
      let e := tget 0 s.winEnd (32 * d.val + k.val)
      let u := s.advanceTo e
      u.winOn d.val k.val = true → ∃ t, exec (.pmuWindowEnd d k) s = .next t
        ∧ (∀ n : Fin 8, u.gb (.pmu d.val) (setFld k.val (F.PMU_EVT_WIN n.val)) = true →
            t.g (.pmu d.val) (setFld k.val (F.PMU_RES_LO_RES_LO n.val)) = u.g (.pmu d.val) (setFld k.val (F.PMU_CTR_LO_CTR_LO n.val))
            ∧ t.g (.pmu d.val) (setFld k.val (F.PMU_RES_HI_RES_HI n.val)) = u.g (.pmu d.val) (setFld k.val (F.PMU_CTR_HI_CTR_HI n.val))
            ∧ t.g (.pmu d.val) (setFld k.val (F.PMU_CTR_LO_CTR_LO n.val)) = 0
            ∧ t.g (.pmu d.val) (setFld k.val (F.PMU_CTR_HI_CTR_HI n.val)) = 0)
        ∧ t.g (.pmu d.val) (setFld k.val F.PMU_WIN_SEQ_SEQ) = (u.g (.pmu d.val) (setFld k.val F.PMU_WIN_SEQ_SEQ) + 1) % 2 ^ 32
        ∧ (d.val * 256 + 152) ∈ t.lines
        ∧ tget 0 t.winEnd (32 * d.val + k.val) = (e + nsT (s.g (.pmu d.val) (setFld k.val F.PMU_WIN_NS_NS))) % 2 ^ 64
        ∧ OnlyRegs (windows [.pmu d.val]) { u with lines := t.lines, winEnd := t.winEnd } t)
  ∧ (∀ (s : State) (d : Die) (k : Fin 17), s.g (.pmu d.val) (setFld k.val F.PMU_WIN_CFG_UNIT) = 0
      ∨ s.g (.pmu d.val) (setFld k.val F.PMU_WIN_NS_NS) = 0 → exec (.pmuWindowEnd d k) s = .next s)
  ∧ ∀ (s : State) (d : Die) (k : Fin 17), k.val < setsOf d.val → s.hostUp = true → s.ready = true → s.fatalSet = false →
      ∃ t, exec (.pmuSetClear d k) s = .next t
        ∧ (∀ n : Fin 8, t.g (.pmu d.val) (setFld k.val (F.PMU_CTR_LO_CTR_LO n.val)) = 0
            ∧ t.g (.pmu d.val) (setFld k.val (F.PMU_CTR_HI_CTR_HI n.val)) = 0
            ∧ t.g (.pmu d.val) (setFld k.val (F.PMU_RES_LO_RES_LO n.val)) = 0
            ∧ t.g (.pmu d.val) (setFld k.val (F.PMU_RES_HI_RES_HI n.val)) = 0)
        ∧ t.g (.pmu d.val) (setFld k.val F.PMU_WIN_SEQ_SEQ) = 0
        ∧ t.cycOf d.val k.val = 0
        ∧ OnlyRegs (windows [.pmu d.val]) { s with cycAcc := t.cycAcc, cycFrom := t.cycFrom } t)
  ∧ (∀ (s : State) (h : Hoop) (i : BitVec 12), s.hostUp = true → s.ready = true → s.fatalSet = false →
    (∃ t, exec (.pmuSampleSelect h i) s = .next t ∧ t.g (.pmu h.val) F.PMU_SMP_SEL_INDEX = i.toNat
      ∧ (∀ w : Fin 16, t.g (.pmu h.val) (F.PMU_SMP_DATA_DATA w.val)
          = leAt (tget [] (tget {} s.samplers h.val).recs i.toNat) (4 * w.val) 4)
      ∧ OnlyRegs (windows [.pmu h.val]) s t)
    ∧ ((i.toNat + 4096 - s.g (.pmu h.val) F.PMU_SMP_TAIL_TAIL) % 4096
          ≤ (s.g (.pmu h.val) F.PMU_SMP_HEAD_HEAD + 4096 - s.g (.pmu h.val) F.PMU_SMP_TAIL_TAIL) % 4096 →
      ∃ t, exec (.pmuSampleTailWrite h i) s = .next t ∧ t.g (.pmu h.val) F.PMU_SMP_TAIL_TAIL = i.toNat
        ∧ t.g (.pmu h.val) F.PMU_SMP_STATUS_FULL
          = (if (s.g (.pmu h.val) F.PMU_SMP_HEAD_HEAD + 4096 - i.toNat) % 4096 = 4095 then 1 else 0)
        ∧ t.g (.pmu h.val) F.PMU_SMP_HEAD_HEAD = s.g (.pmu h.val) F.PMU_SMP_HEAD_HEAD
        ∧ OnlyRegs (regsOf [(.pmu h.val, F.PMU_SMP_TAIL_TAIL), (.pmu h.val, F.PMU_SMP_STATUS_FULL)]) s t)
    ∧ ((s.g (.pmu h.val) F.PMU_SMP_HEAD_HEAD + 4096 - s.g (.pmu h.val) F.PMU_SMP_TAIL_TAIL) % 4096
          < (i.toNat + 4096 - s.g (.pmu h.val) F.PMU_SMP_TAIL_TAIL) % 4096 → exec (.pmuSampleTailWrite h i) s = .next s))
end

