-- ==== Sys2Proof/Laws/Memory.lean ====
section
/-! SUPPORT. Sparse tables and device memory: what a read finds after a write, and that every write keeps the canonical form. -/

namespace Sys2Proof.Machine

/-! ### The canonical form -/

/-- The canonical form: keys strictly rising, no entry equal to the default. -/
theorem tableWf_iff {α : Type} [DecidableEq α] (d : α) (t : Table α) :
    tableWf d t = true ↔ t.Pairwise (fun p q => p.1 < q.1) ∧ ∀ p ∈ t, p.2 ≠ d := by
  induction t with
  | nil => simp [tableWf]
  | cons x r ih =>
    obtain ⟨k, v⟩ := x
    cases r with
    | nil => simp [tableWf]
    | cons y r =>
      obtain ⟨k', v'⟩ := y
      simp only [tableWf, Bool.and_eq_true, bne_iff_ne, decide_eq_true_eq, ih, List.pairwise_cons, List.mem_cons, forall_eq_or_imp]
      constructor
      · rintro ⟨⟨h1, h2⟩, ⟨h3, h4⟩, h5, h6⟩
        exact ⟨⟨⟨h2, fun p hp => Nat.lt_trans h2 (h3 p hp)⟩, h3, h4⟩, h1, h5, h6⟩
      · rintro ⟨⟨⟨h2, -⟩, h3, h4⟩, h1, h5, h6⟩
        exact ⟨⟨h1, h2⟩, ⟨h3, h4⟩, h5, h6⟩

theorem mem_tinsert {α : Type} (k : Nat) (v : α) (t : Table α) (p : Nat × α) :
    p ∈ tinsert k v t ↔ p = (k, v) ∨ p ∈ t := by
  induction t with
  | nil => simp [tinsert]
  | cons x r ih =>
    obtain ⟨a, y⟩ := x
    simp only [tinsert]
    split <;> simp only [List.mem_cons, ih]
    exact or_left_comm

theorem tinsert_pairwise {α : Type} (k : Nat) (v : α) (t : Table α) (h : t.Pairwise fun p q => p.1 < q.1)
    (hk : ∀ p ∈ t, p.1 ≠ k) : (tinsert k v t).Pairwise fun p q => p.1 < q.1 := by
  induction t with
  | nil => simp [tinsert]
  | cons x r ih =>
    obtain ⟨a, y⟩ := x
    rw [List.pairwise_cons] at h
    have ha : a ≠ k := hk (a, y) (List.mem_cons_self ..)
    simp only [tinsert]
    split
    · refine List.pairwise_cons.2 ⟨?_, List.pairwise_cons.2 h⟩
      intro p hp
      rcases List.mem_cons.1 hp with rfl | hp
      · show k < a
        omega
      · have := h.1 p hp
        simp only at this ⊢
        omega
    · refine List.pairwise_cons.2 ⟨?_, ih h.2 fun p hp => hk p (List.mem_cons_of_mem _ hp)⟩
      intro p hp
      rcases (mem_tinsert k v r p).1 hp with rfl | hp
      · show a < k
        omega
      · exact h.1 p hp

/-- Writing a key keeps the canonical form. -/
theorem tput_wf {α : Type} [DecidableEq α] (d : α) (t : Table α) (k : Nat) (v : α) (h : tableWf d t = true) :
    tableWf d (tput d t k v) = true := by
  rw [tableWf_iff] at h ⊢
  have hf : (t.filter fun p => p.1 != k).Pairwise fun p q => p.1 < q.1 := h.1.filter _
  have hd : ∀ p ∈ t.filter (fun p => p.1 != k), p.2 ≠ d := fun p hp => h.2 p (List.mem_filter.1 hp).1
  unfold tput
  dsimp only
  split
  · exact ⟨hf, hd⟩
  · refine ⟨tinsert_pairwise k v _ hf fun p hp => by simpa using (List.mem_filter.1 hp).2, ?_⟩
    intro p hp
    rcases (mem_tinsert k v _ p).1 hp with rfl | hp
    · assumption
    · exact hd p hp

theorem cellsOf_mem (a : Nat) (bs : List Byte) : ∀ c ∈ cellsOf a bs, a ≤ c.1 ∧ c.1 < a + bs.length ∧ c.2 ≠ memDefault := by
  induction bs generalizing a with
  | nil => simp [cellsOf]
  | cons b r ih =>
    intro c hc
    simp only [cellsOf] at hc
    have step : ∀ c ∈ cellsOf (a + 1) r, a ≤ c.1 ∧ c.1 < a + (b :: r).length ∧ c.2 ≠ memDefault := by
      intro c hc
      have := ih (a + 1) c hc
      simp only [List.length_cons]
      exact ⟨by omega, by omega, this.2.2⟩
    split at hc
    · exact step c hc
    · rcases List.mem_cons.1 hc with rfl | hc
      · exact ⟨Nat.le_refl _, by simp, by assumption⟩
      · exact step c hc

theorem cellsOf_pairwise (a : Nat) (bs : List Byte) : (cellsOf a bs).Pairwise fun p q => p.1 < q.1 := by
  induction bs generalizing a with
  | nil => simp [cellsOf]
  | cons b r ih =>
    simp only [cellsOf]
    split
    · exact ih _
    · exact List.pairwise_cons.2 ⟨fun c hc => (cellsOf_mem _ _ c hc).1, ih _⟩

/-- Writing a run of bytes keeps the canonical form. -/
theorem memWrite_wf (m : List Host.Cell) (a : Nat) (bs : List Byte) (h : Memory.wf m) : Memory.wf (memWrite m a bs) := by
  unfold Memory.wf memWfList at h ⊢
  rw [tableWf_iff] at h ⊢
  unfold memWrite
  constructor
  · refine List.pairwise_append.2 ⟨List.pairwise_append.2 ⟨h.1.filter _, cellsOf_pairwise a bs, ?_⟩, h.1.filter _, ?_⟩
    · intro p hp q hq
      have h1 := (cellsOf_mem a bs q hq).1
      have h2 := (List.mem_filter.1 hp).2
      simp only [decide_eq_true_eq] at h2
      omega
    · intro p hp q hq
      have h2 := (List.mem_filter.1 hq).2
      simp only [decide_eq_true_eq] at h2
      rcases List.mem_append.1 hp with hp | hp
      · have h1 := (List.mem_filter.1 hp).2
        simp only [decide_eq_true_eq] at h1
        omega
      · have h1 := (cellsOf_mem a bs p hp).2.1
        omega
  · intro p hp
    rcases List.mem_append.1 hp with hp | hp
    · rcases List.mem_append.1 hp with hp | hp
      · exact h.2 p (List.mem_filter.1 hp).1
      · exact (cellsOf_mem a bs p hp).2.2
    · exact h.2 p (List.mem_filter.1 hp).1

/-! ### A read after a write -/

theorem tget_tinsert {α : Type} (d : α) (k : Nat) (v : α) (t : Table α) (j : Nat) (hk : ∀ p ∈ t, p.1 ≠ k) :
    tget d (tinsert k v t) j = if k = j then v else tget d t j := by
  induction t with
  | nil => simp [tinsert, tget]
  | cons x r ih =>
    obtain ⟨a, y⟩ := x
    have ha : a ≠ k := hk (a, y) (List.mem_cons_self ..)
    simp only [tinsert]
    split
    · simp only [tget]
    · simp only [tget, ih fun p hp => hk p (List.mem_cons_of_mem _ hp)]
      by_cases h1 : a = j <;> by_cases h2 : k = j <;> simp [h1, h2] <;> omega

theorem tget_filter {α : Type} (d : α) (t : Table α) (k j : Nat) :
    tget d (t.filter fun p => p.1 != k) j = if k = j then d else tget d t j := by
  induction t with
  | nil => simp [tget]
  | cons x r ih =>
    obtain ⟨a, y⟩ := x
    by_cases h : a = k
    · subst h
      simp only [List.filter_cons, bne_self_eq_false, Bool.false_eq_true, if_false, ih, tget]
      split <;> rfl
    · simp only [List.filter_cons, bne_iff_ne, ne_eq, h, not_false_eq_true, if_true, tget, ih]
      by_cases h1 : a = j <;> by_cases h2 : k = j <;> simp [h1, h2] <;> omega

/-- A read of a table after a write: the value at the key written, elsewhere what was there. -/
@[simp] theorem tget_tput {α : Type} [DecidableEq α] (d : α) (t : Table α) (k : Nat) (v : α) (j : Nat) :
    tget d (tput d t k v) j = if k = j then v else tget d t j := by
  unfold tput
  dsimp only
  split
  · rename_i h
    rw [tget_filter, h]
  · rw [tget_tinsert _ _ _ _ _ fun p hp => by simpa using (List.mem_filter.1 hp).2, tget_filter]
    split <;> rfl

/-- A read of a byte after a write of a byte (R225). -/
@[simp] theorem readByte_writeByte (s : State) (a : Nat) (v : Byte) (b : Nat) :
    (s.writeByte a v).readByte b = if a = b then v else s.readByte b := by
  simp only [State.readByte, State.writeByte, tget_tput]

theorem tget_append {α : Type} (d : α) (t u : Table α) (j : Nat) :
    tget d (t ++ u) j = if t.any (fun p => p.1 == j) then tget d t j else tget d u j := by
  induction t with
  | nil => simp
  | cons x r ih =>
    obtain ⟨a, y⟩ := x
    by_cases h : a = j
    · simp [tget, h]
    · have hb : (a == j) = false := beq_eq_false_iff_ne.2 h
      simp only [List.cons_append, tget, h, if_false, List.any_cons, hb, Bool.false_or, ih]

theorem tget_of_not_any {α : Type} (d : α) (t : Table α) (j : Nat) (h : t.any (fun p => p.1 == j) = false) :
    tget d t j = d := by
  induction t with
  | nil => rfl
  | cons x r ih =>
    obtain ⟨a, y⟩ := x
    simp only [List.any_cons, Bool.or_eq_false_iff, beq_eq_false_iff_ne] at h
    simp [tget, h.1, ih h.2]

theorem tget_filter_key {α : Type} (d : α) (t : Table α) (f : Nat → Bool) (j : Nat) (h : f j = true) :
    tget d (t.filter fun p => f p.1) j = tget d t j := by
  induction t with
  | nil => rfl
  | cons x r ih =>
    obtain ⟨a, y⟩ := x
    by_cases hj : a = j
    · subst hj
      simp [h, tget]
    · by_cases ha : f a = true <;> simp [ha, tget, hj, ih]

/-- A byte outside the run written reads as before (R225). -/
theorem tget_memWrite_outside (m : List Host.Cell) (a : Nat) (bs : List Byte) (j : Nat) (h : j < a ∨ a + bs.length ≤ j) :
    tget memDefault (memWrite m a bs) j = tget memDefault m j := by
  have hc : (cellsOf a bs).any (fun p => p.1 == j) = false := by
    rw [List.any_eq_false]
    intro p hp
    have := cellsOf_mem a bs p hp
    simp only [beq_iff_eq]
    omega
  unfold memWrite
  rw [tget_append, tget_append]
  rcases h with h | h
  · have hu : (m.filter fun c => decide (a + bs.length ≤ c.1)).any (fun p => p.1 == j) = false := by
      rw [List.any_eq_false]
      intro p hp
      have := (List.mem_filter.1 hp).2
      simp only [decide_eq_true_eq] at this
      simp only [beq_iff_eq]
      omega
    rw [tget_of_not_any _ _ _ hu, tget_of_not_any _ _ _ hc, tget_filter_key memDefault m (fun k => decide (k < a)) j (by simpa using h)]
    simp only [List.any_append, hc, Bool.or_false]
    split
    · rfl
    · rename_i hn
      rw [← tget_filter_key memDefault m (fun k => decide (k < a)) j (by simpa using h)]
      rw [tget_of_not_any _ _ _ (Bool.eq_false_iff.2 hn)]
  · have hu : (m.filter fun c => decide (c.1 < a)).any (fun p => p.1 == j) = false := by
      rw [List.any_eq_false]
      intro p hp
      have := (List.mem_filter.1 hp).2
      simp only [decide_eq_true_eq] at this
      simp only [beq_iff_eq]
      omega
    simp only [List.any_append, hc, hu, Bool.or_false, Bool.false_eq_true, if_false]
    exact tget_filter_key memDefault m (fun k => decide (a + bs.length ≤ k)) j (by simpa using h)

end Sys2Proof.Machine
end

