-- ==== Sys2Proof/Laws/Regs.lean ====
section
/-! SUPPORT. What reading a register field gives after a write of another, and what the operations that report to the host (an
event, an interrupt line, a message) leave alone. -/

namespace Sys2Proof.Machine

/-! ### Words and fields -/

theorem tget_tput_ne {α : Type} [DecidableEq α] (d d' : α) (t : Table α) (k : Nat) (v : α) (j : Nat) (h : j ≠ k) :
    tget d (tput d' t k v) j = tget d t j := by
  have e : tget d (t.filter fun p => p.1 != k) j = tget d t j := by
    rw [tget_filter]; simp [Ne.symm h]
  unfold tput
  dsimp only
  split
  · exact e
  · rw [tget_tinsert]
    · simp [Ne.symm h, e]
    · intro p hp; simpa using (List.mem_filter.1 hp).2

@[simp] theorem rd_wr_self (s : State) (a : Nat) (v : Word) : (s.wr a v).rd a = v := by
  simp [State.wr, State.rd]

theorem rd_wr_ne (s : State) (a b : Nat) (v : Word) (h : b ≠ a) : (s.wr a v).rd b = s.rd b := by
  simp [State.wr, State.rd, tget_tput_ne _ _ _ _ _ _ h]

/-- A word with one field written: the bits above, the field, the bits below. -/
theorem fldPut_toNat (f : Fld) (w : Word) (v : Nat) (h : f.lo + f.w ≤ 32) : (fldPut f w v).toNat
    = 2 ^ f.lo * (2 ^ f.w * (w.toNat / 2 ^ f.lo / 2 ^ f.w) + v % 2 ^ f.w) + w.toNat % 2 ^ f.lo := by
  have e1 := Nat.div_add_mod w.toNat (2 ^ f.lo)
  have e2 := Nat.div_add_mod (w.toNat / 2 ^ f.lo) (2 ^ f.w)
  have hw := w.isLt
  have hv : v % 2 ^ f.w < 2 ^ f.w := Nat.mod_lt _ (Nat.two_pow_pos _)
  have hl : w.toNat % 2 ^ f.lo < 2 ^ f.lo := Nat.mod_lt _ (Nat.two_pow_pos _)
  have hp : (2 : Nat) ^ 32 = 2 ^ f.lo * (2 ^ f.w * 2 ^ (32 - f.lo - f.w)) := by
    rw [← Nat.pow_add, ← Nat.pow_add]; congr 1; omega
  have hh : w.toNat / 2 ^ f.lo / 2 ^ f.w < 2 ^ (32 - f.lo - f.w) := by
    rw [Nat.div_lt_iff_lt_mul (Nat.two_pow_pos _), Nat.div_lt_iff_lt_mul (Nat.two_pow_pos _)]
    rw [Nat.mul_comm _ (2 ^ f.w), Nat.mul_comm _ (2 ^ f.lo), ← hp]; exact hw
  generalize w.toNat / 2 ^ f.lo / 2 ^ f.w = H at *
  generalize hW : w.toNat = W at *
  unfold fldPut
  rw [BitVec.toNat_ofNat, hW]
  generalize W / 2 ^ f.lo % 2 ^ f.w = x at *
  generalize W / 2 ^ f.lo = y at *
  generalize W % 2 ^ f.lo = l at *
  have b1 : 2 ^ f.w * H + v % 2 ^ f.w + 1 ≤ 2 ^ f.w * 2 ^ (32 - f.lo - f.w) := by
    have := Nat.mul_le_mul_left (2 ^ f.w) (Nat.succ_le_of_lt hh)
    rw [Nat.mul_succ] at this; omega
  have b2 := Nat.mul_le_mul_left (2 ^ f.lo) b1
  rw [Nat.mul_add, Nat.mul_one, ← hp] at b2
  rw [Nat.mod_eq_of_lt]
  · subst e2
    rw [← e1, Nat.mul_add, Nat.mul_add, Nat.mul_comm x, Nat.mul_comm (v % 2 ^ f.w)]; omega
  · subst e2
    rw [← e1, Nat.mul_add, Nat.mul_comm x, Nat.mul_comm (v % 2 ^ f.w)]
    rw [Nat.mul_add] at b2; omega

theorem fldGet_fldPut_self (f : Fld) (w : Word) (v : Nat) (h : f.lo + f.w ≤ 32) : fldGet f (fldPut f w v) = v % 2 ^ f.w := by
  rw [fldGet, fldPut_toNat f w v h, Nat.mul_add_div (Nat.two_pow_pos _), Nat.div_eq_of_lt (Nat.mod_lt _ (Nat.two_pow_pos _)),
    Nat.add_zero, Nat.mul_add_mod, Nat.mod_mod]

theorem fldGet_fldPut_ne (f g : Fld) (w : Word) (v : Nat) (h : f.lo + f.w ≤ 32) (h' : g.lo + g.w ≤ f.lo ∨ f.lo + f.w ≤ g.lo) :
    fldGet g (fldPut f w v) = fldGet g w := by
  apply Nat.eq_of_testBit_eq
  intro i
  simp only [fldGet, Nat.testBit_mod_two_pow, Nat.testBit_div_two_pow]
  by_cases hi : i < g.w
  · simp only [hi, decide_true, Bool.true_and]
    rw [fldPut_toNat f w v h, Nat.testBit_two_pow_mul_add _ (Nat.mod_lt _ (Nat.two_pow_pos _))]
    split
    · rw [Nat.testBit_mod_two_pow]; simp [*]
    · rw [Nat.testBit_two_pow_mul_add _ (Nat.mod_lt _ (Nat.two_pow_pos _)), if_neg (by omega)]
      simp only [Nat.testBit_div_two_pow]
      congr 1; omega
  · simp [hi]

/-- A field reads what was written, cut to its width. -/
theorem g_p_self (s : State) (b : Blk) (f : Fld) (v : Nat) (h : f.lo + f.w ≤ 32) : (s.p b f v).g b f = v % 2 ^ f.w := by
  simp [State.g, State.p, fldGet_fldPut_self f _ _ h]

/-- Another field of the same block reads as before. -/
theorem g_p_ne (s : State) (b : Blk) (f g : Fld) (v : Nat)
    (h : g.off ≠ f.off ∨ (f.lo + f.w ≤ 32 ∧ (g.lo + g.w ≤ f.lo ∨ f.lo + f.w ≤ g.lo))) : (s.p b f v).g b g = s.g b g := by
  by_cases e : g.off = f.off
  · rcases h with h | ⟨h, h'⟩
    · exact absurd e h
    · simp [State.g, State.p, e, fldGet_fldPut_ne f g _ _ h h']
  · simp only [State.g, State.p]
    rw [rd_wr_ne _ _ _ _ (by omega)]

/-- A field of another register reads as before. -/
theorem g_p_far (s : State) (b c : Blk) (f g : Fld) (v : Nat) (h : c.base + g.off ≠ b.base + f.off) :
    (s.p b f v).g c g = s.g c g := by
  simp only [State.g, State.p]
  rw [rd_wr_ne _ _ _ _ h]

/-! ### OnlyRegs of Safety.lean -/

theorem regs_refl (R : Nat → Bool) (s : State) : OnlyRegs R s s := ⟨fun _ _ => rfl, rfl⟩

theorem regs_wr {R : Nat → Bool} {a s : State} (h : OnlyRegs R a s) (x : Nat) (v : Word) (hx : R x = true) :
    OnlyRegs R a (s.wr x v) :=
  ⟨fun y hy => (rd_wr_ne s x y v fun e => by subst e; simp [hx] at hy).trans (h.regs y hy), by rw [h.rest]; rfl⟩

theorem regs_p {R : Nat → Bool} {a s : State} (h : OnlyRegs R a s) (b : Blk) (f : Fld) (v : Nat)
    (hb : R (b.base + f.off) = true) : OnlyRegs R a (s.p b f v) := regs_wr h _ _ hb

theorem regs_pb {R : Nat → Bool} {a s : State} (h : OnlyRegs R a s) (b : Blk) (f : Fld) (v : Bool)
    (hb : R (b.base + f.off) = true) : OnlyRegs R a (s.pb b f v) := regs_wr h _ _ hb

theorem regs_inc {R : Nat → Bool} {a s : State} (h : OnlyRegs R a s) (b : Blk) (f : Fld) (n : Nat)
    (hb : R (b.base + f.off) = true) : OnlyRegs R a (s.inc b f n) := regs_wr h _ _ hb

theorem regs_p2 {R : Nat → Bool} {a s : State} (h : OnlyRegs R a s) (b : Blk) (f g : Fld) (v : Nat)
    (hb : R (b.base + f.off) = true) (hc : R (b.base + g.off) = true) : OnlyRegs R a (s.p2 b f g v) :=
  regs_p (regs_p h _ _ _ hb) _ _ _ hc

end Sys2Proof.Machine
end

