-- ==== Sys2Proof/Laws/ControlBase.lean ====
section
/-! SUPPORT. Rules of OnlyControl (Safety.lean): record updates, folds, branches and register writes. One lemma per operation
follows in Control.lean. -/

namespace Sys2Proof.Machine

theorem controlReg_of {b : Blk} {o : Nat} (h : controlOff b o = true) : ControlReg (b.base + o) := ⟨b, o, rfl, h⟩

theorem ctl_refl (s : State) : OnlyControl s s := ⟨fun _ _ => rfl, rfl⟩

theorem ctl_trans {a s t : State} (h : OnlyControl a s) (h' : OnlyControl s t) : OnlyControl a t :=
  ⟨fun x hx => (h'.regs x hx).trans (h.regs x hx), by rw [h'.rest, h.rest]⟩

@[simp] theorem ctl_foldl {α : Type} {a s : State} (h : OnlyControl a s) (l : List α) (f : State → α → State)
    (hf : ∀ t x, x ∈ l → OnlyControl a t → OnlyControl a (f t x)) : OnlyControl a (l.foldl f s) := by
  induction l generalizing s with
  | nil => exact h
  | cons x l ih => exact ih (hf s x (List.mem_cons_self ..) h) fun t y hy => hf t y (List.mem_cons_of_mem _ hy)

@[simp] theorem ctl_ite {a s t : State} {c : Prop} [Decidable c] (h : c → OnlyControl a s) (h' : ¬c → OnlyControl a t) :
    OnlyControl a (if c then s else t) := by
  split
  · exact h ‹_›
  · exact h' ‹_›

@[simp] theorem ctl_forN {a s : State} (h : OnlyControl a s) (n : Nat) (f : Nat → State → State)
    (hf : ∀ i t, i < n → OnlyControl a t → OnlyControl a (f i t)) : OnlyControl a (s.forN n f) :=
  ctl_foldl h _ _ fun t i hi ht => hf i t (List.mem_range.1 hi) ht

@[simp] theorem ctl_with {a s : State} (h : OnlyControl a s) (v8 : List Page) (v9 : List (Nat × Nat)) (v10 : List (Nat × Nat)) (v11 : List Page) (v12 : List (Page × Nat)) (v18 : List Arm) (v20 : Table PortUnit) (v21 : List LinkRun) (v22 : Grid) (v23 : Bool) (v24 : Bool) (v26 : Table Nat) (v27 : List Nat) (v28 : Table (Option Ring)) (v30 : List Cmd) (v31 : List QStep) (v32 : Option Run) (v33 : Option Save) (v34 : Nat) (v37 : Option Admitting) (v38 : Option Pricking) (v40 : Option (Nat × List Byte)) (v41 : Option EndedRun) (v42 : Bool) (v43 : List Byte) (v44 : Bool) (v45 : List SensorEvent) (v46 : Table ArrayUnit) (v47 : Table XpbBuf) (v48 : Table (Option UnitRun)) (v50 : Table StepStat) (v52 : List Nat) (v55 : Table Nat) (v56 : Table Nat) (v64 : PowerUnit) (v67 : MgtUnit) (v70 : List Out) (v69 : Nat) :
    OnlyControl a (State.mk s.regs s.shadows s.snaps s.latch s.mem s.badPairs s.ueHits s.pages v8 v9 v10 v11 v12 s.ceSeen s.hbmHot s.hbmMiss s.scrubPos s.bridgeCe v18 s.silent v20 v21 v22 v23 v24 s.msix v26 v27 v28 s.kickRun v30 v31 v32 v33 v34 s.modeReq s.modeRevert v37 v38 s.tableOwner v40 v41 v42 v43 v44 v45 v46 v47 v48 s.scale v50 s.scaleJob v52 s.irqHeld s.samplers v55 v56 s.winEnd s.edges s.hostGo s.supplied s.readyDue s.perst s.brakePin v64 s.part s.idKey v67 s.test v69 v70 s.pending) :=
  ⟨fun x hx => h.regs x hx, by rw [h.rest]⟩

theorem ctl_wr {a s : State} (h : OnlyControl a s) (x : Nat) (v : Word) (hx : ControlReg x) : OnlyControl a (s.wr x v) :=
  ⟨fun y hy => (rd_wr_ne s x y v fun e => hy (e ▸ hx)).trans (h.regs y hy), by rw [h.rest]; rfl⟩

@[simp] theorem ctl_p {a s : State} (h : OnlyControl a s) (b : Blk) (f : Fld) (v : Nat) (hb : controlOff b f.off = true) :
    OnlyControl a (s.p b f v) := ctl_wr h _ _ (controlReg_of hb)

@[simp] theorem ctl_pb {a s : State} (h : OnlyControl a s) (b : Blk) (f : Fld) (v : Bool) (hb : controlOff b f.off = true) :
    OnlyControl a (s.pb b f v) := ctl_p h _ _ _ hb

@[simp] theorem ctl_inc {a s : State} (h : OnlyControl a s) (b : Blk) (f : Fld) (n : Nat) (hb : controlOff b f.off = true) :
    OnlyControl a (s.inc b f n) := ctl_p h _ _ _ hb

@[simp] theorem ctl_p2 {a s : State} (h : OnlyControl a s) (b : Blk) (f g : Fld) (v : Nat) (hb : controlOff b f.off = true)
    (hc : controlOff b g.off = true) : OnlyControl a (s.p2 b f g v) := ctl_p (ctl_p h _ _ _ hb) _ _ _ hc

end Sys2Proof.Machine
end

