-- ==== Sys2Proof/Laws/Control.lean ====
section
/-! SUPPORT. What the operations that control steps, commands, the grid, power and faults leave alone: OnlyControl
(Safety.lean) of each. -/

namespace Sys2Proof.Machine

section

-- One proof at a time: proofs that wait for one another's unfolding lemmas each hold a thread and its stack.
set_option Elab.async false

@[simp] theorem ctl_line {z0 s : State} (hk : OnlyControl z0 s) (die : Nat) (src : Nat) :
    OnlyControl z0 (State.line s die src) := by
  simp (maxDischargeDepth := 60) +contextual [controlOff, State.line, State.forN, hk]

@[simp] theorem ctl_emit {z0 s : State} (hk : OnlyControl z0 s) (o : Out) :
    OnlyControl z0 (State.emit s o) := by
  simp (maxDischargeDepth := 60) +contextual [controlOff, State.emit, State.forN, hk]

@[simp] theorem ctl_sendMsix {z0 s : State} (hk : OnlyControl z0 s) (v : Nat) :
    OnlyControl z0 (State.sendMsix s v) := by
  unfold State.sendMsix
  dsimp only
  split
  · exact hk
  · have e : v / 32 = 0 ∨ v / 32 = 1 := by omega
    have w := ctl_wr hk (Blk.hst.base + 0x9000 + 4 * (v / 32))
      (s.rd (Blk.hst.base + 0x9000 + 4 * (v / 32)) ||| (1 <<< (v % 32)))
      (by rcases e with e | e <;> rw [e]; exact ⟨.hst, 0x9000, rfl, by decide⟩; exact ⟨.hst, 0x9004, rfl, by decide⟩)
    split
    · exact w
    · split <;> simp (maxDischargeDepth := 60) [hk]

@[simp] theorem ctl_flushMsix {z0 s : State} (hk : OnlyControl z0 s)  :
    OnlyControl z0 (State.flushMsix s) := by
  simp (maxDischargeDepth := 60) +contextual [controlOff, State.flushMsix, State.forN, hk]

@[simp] theorem ctl_evtWrite {z0 s : State} (hk : OnlyControl z0 s) (e : Event) :
    OnlyControl z0 (State.evtWrite s e) := by
  simp (maxDischargeDepth := 60) +contextual [controlOff, F.DEV_EVT_BASE_HI_BASE_HI, F.DEV_EVT_BASE_LO_BASE_LO, F.DEV_EVT_HEAD_HEAD, State.evtWrite, State.forN, hk]

@[simp] theorem ctl_evtSettle {z0 s : State} (hk : OnlyControl z0 s)  :
    OnlyControl z0 (State.evtSettle s) := by
  simp (maxDischargeDepth := 60) +contextual [controlOff, F.DEV_EVT_STATUS_DROPPED, F.DEV_EVT_STATUS_OVERFLOW, State.evtSettle, State.forN, hk]

@[simp] theorem ctl_event {z0 s : State} (hk : OnlyControl z0 s) (e : Event) :
    OnlyControl z0 (State.event s e) := by
  simp (maxDischargeDepth := 60) +contextual [controlOff, F.DEV_EVT_STATUS_DROPPED, F.DEV_EVT_STATUS_OVERFLOW, F.IRQ_HOST_EVT_EVT_VECTOR, F.IRQ_HOST_EVT_MIN_CLASS, State.event, State.forN, hk]

@[simp] theorem ctl_setRing {z0 s : State} (hk : OnlyControl z0 s) (i : Nat) (r : Option Ring) :
    OnlyControl z0 (State.setRing s i r) := by
  unfold State.setRing
  dsimp only
  split
  all_goals simp (maxDischargeDepth := 60) +contextual [controlOff, F.HST_RINGS_HI_EXISTS, F.HST_RINGS_LO_EXISTS, hk]

@[simp] theorem ctl_cqWrite {z0 s : State} (hk : OnlyControl z0 s) (i : Nat) (r : Ring) (c : Completion) :
    OnlyControl z0 (State.cqWrite s i r c) := by
  simp (maxDischargeDepth := 60) +contextual [controlOff, State.cqWrite, State.forN, hk]

@[simp] theorem ctl_postTo {z0 s : State} (hk : OnlyControl z0 s) (i : Nat) (c : Completion) :
    OnlyControl z0 (State.postTo s i c) := by
  unfold State.postTo
  split
  · exact hk
  · exact ctl_ite (fun _ => hk) fun _ => ctl_ite (fun _ => ctl_setRing hk ..) fun _ => ctl_cqWrite hk ..

@[simp] theorem ctl_agentsReport {z0 s : State} (hk : OnlyControl z0 s)  :
    OnlyControl z0 (State.agentsReport s) := by
  simp (maxDischargeDepth := 60) +contextual [controlOff, State.agentsReport, State.forN, hk]

@[simp] theorem ctl_ringFree {z0 s : State} (hk : OnlyControl z0 s) (i : Nat) : OnlyControl z0 (State.ringFree s i) := by
  unfold State.ringFree
  split
  · exact hk
  · exact ctl_setRing hk ..

@[simp] theorem ctl_complete {z0 s : State} (hk : OnlyControl z0 s) (c : Cmd) (status : Nat) (result : Nat) :
    OnlyControl z0 (State.complete s c status result) := by
  simp (maxDischargeDepth := 60) +contextual [controlOff, F.HST_CMDS_COUNT, State.complete, State.forN, hk]

@[simp] theorem ctl_completeStep {z0 s : State} (hk : OnlyControl z0 s) (q : QStep) (status : Nat) (result : Nat) :
    OnlyControl z0 (State.completeStep s q status result) := by
  simp (maxDischargeDepth := 60) +contextual [controlOff, F.HST_CMDS_COUNT, State.completeStep, State.forN, hk]

@[simp] theorem ctl_hostErr {z0 s : State} (hk : OnlyControl z0 s) (code : Nat) (ring : Nat) :
    OnlyControl z0 (State.hostErr s code ring) := by
  simp (maxDischargeDepth := 60) +contextual [controlOff, F.HST_HOST_ERR_CODE, F.HST_HOST_ERR_RING, F.HST_HOST_ERR_VALID, State.hostErr, State.forN, hk]

@[simp] theorem ctl_domainSet {z0 s : State} (hk : OnlyControl z0 s) (n : Nat) (on : Bool) :
    OnlyControl z0 (State.domainSet s n on) := by
  simp (maxDischargeDepth := 60) +contextual [controlOff, F.PWR_DOMAINS_HI_ON, F.PWR_DOMAINS_LO_ON, State.domainSet, State.forN, hk]

@[simp] theorem ctl_cycSet {z0 s : State} (hk : OnlyControl z0 s) (die : Nat) (k : Nat) (v : Nat) :
    OnlyControl z0 (State.cycSet s die k v) := by
  simp (maxDischargeDepth := 60) +contextual [controlOff, State.cycSet, State.forN, hk]

@[simp] theorem ctl_keepCycles {z0 s : State} (hk : OnlyControl z0 s) (a : Nat) (f : State → State) (hf : ∀ t : State, OnlyControl z0 t → OnlyControl z0 (f t)) :
    OnlyControl z0 (State.keepCycles s a f) := by
  unfold State.keepCycles
  dsimp only
  repeat' split
  all_goals simp (maxDischargeDepth := 60) +contextual [controlOff, *]

@[simp] theorem ctl_gateArrays {z0 s : State} (hk : OnlyControl z0 s)  :
    OnlyControl z0 (State.gateArrays s) := by
  simp (maxDischargeDepth := 60) +contextual [controlOff, F.PWR_CTRL_CFG_ARR_GATE, State.gateArrays, State.forN, hk]

@[simp] theorem ctl_arrayOp {z0 s : State} (hk : OnlyControl z0 s) (a op : Nat) (ha : a < 8) :
    OnlyControl z0 (State.arrayOp s a op) := by
  unfold State.arrayOp
  dsimp only
  refine ctl_ite (fun _ => ctl_keepCycles (ctl_with hk ..) _ _ fun t ht => ctl_p ht _ _ _ ?_) fun _ => ctl_with hk ..
  simp [controlOff, F.ARR_STATUS_OP, ha]

@[simp] theorem ctl_arrayRates {z0 s : State} (hk : OnlyControl z0 s)  :
    OnlyControl z0 (State.arrayRates s) := by
  simp (maxDischargeDepth := 60) +contextual [controlOff, F.ARR_STATUS_DUTY, F.PWR_STATUS_RATED_DUTY, F.PWR_THR_ACTIVE_POWER_DUTY, State.arrayRates, State.forN, hk]

@[simp] theorem ctl_refreshPower {z0 s : State} (hk : OnlyControl z0 s)  :
    OnlyControl z0 (State.refreshPower s) := by
  simp (maxDischargeDepth := 60) +contextual [controlOff, F.PWR_CAP_IN_FORCE, F.PWR_CAP_SOURCE, F.PWR_STATUS_CLASS, F.PWR_STATUS_EFF_CLASS, F.PWR_STATUS_RATED_DUTY, F.PWR_STATUS_RATED_OP, F.PWR_THR_ACTIVE_POWER_DUTY, State.refreshPower, State.forN, hk]

@[simp] theorem ctl_sensor {z0 s : State} (hk : OnlyControl z0 s) (e : SensorEvent) :
    OnlyControl z0 (State.sensor s e) := by
  simp (maxDischargeDepth := 60) +contextual [controlOff, F.MGT_EVT_DROPPED_COUNT, F.MGT_STATUS_ALERT, F.MGT_STATUS_DA_VALID, F.MGT_STATUS_EVT_QUEUED, F.MGT_STATUS_IBI_EN, State.sensor, State.forN, hk]

@[simp] theorem ctl_sensorState {z0 s : State} (hk : OnlyControl z0 s) (id : Nat) (offset : Nat) (old : Nat) (new : Nat) :
    OnlyControl z0 (State.sensorState s id offset old new) := by
  simp (maxDischargeDepth := 60) +contextual [controlOff, State.sensorState, State.forN, hk]

@[simp] theorem ctl_unitErr {z0 s : State} (hk : OnlyControl z0 s) (b : Blk) (inst : Nat) (cls : Nat) (code : Nat) (slot : Nat) :
    OnlyControl z0 (State.unitErr s b inst cls code slot) := by
  simp (maxDischargeDepth := 60) +contextual [controlOff, State.unitErr, State.forN, hk]

@[simp] theorem ctl_bobSync {z0 s : State} (hk : OnlyControl z0 s) (die n : Nat) (hd : die < 6) (hn : n < 32) :
    OnlyControl z0 (State.bobSync s die n) := by
  have h1 : controlOff (.bob die) (64 * n) = true := by simp [controlOff, hd]; omega
  have h2 : controlOff (.bob die) 2048 = true := by simp [controlOff, hd]
  unfold State.bobSync
  dsimp only
  rw [Nat.zero_add]
  exact ctl_pb (ctl_pb (ctl_p hk _ _ _ h1) _ _ _ h1) _ _ _ h2

theorem bobbins_le (d : Nat) : bobbins d ≤ 32 := by unfold bobbins; split <;> omega

@[simp] theorem ctl_bobSyncAll {z0 s : State} (hk : OnlyControl z0 s)  :
    OnlyControl z0 (State.bobSyncAll s) := by
  unfold State.bobSyncAll
  refine ctl_forN hk _ _ fun d t hd ht => ctl_forN ht _ _ fun n u hn hu => ctl_bobSync hu d n hd ?_
  exact Nat.lt_of_lt_of_le hn (bobbins_le d)

@[simp] theorem ctl_ctrAdd {z0 s : State} (hk : OnlyControl z0 s) (die k n amount : Nat) (hd : die < 4) (hs : k ≤ 1) (hn : n < 8) :
    OnlyControl z0 (State.ctrAdd s die k n amount) := by
  have h (o : Nat) (ho : 8 ≤ o) (ho' : o < 0x48) : controlOff (.pmu die) (o + 0x1000 + 0x100 * k) = true := by
    rcases (by omega : k = 0 ∨ k = 1) with rfl | rfl <;> simp [controlOff, hd] <;> omega
  have h1 := h (0x8 + 0x8 * n) (by omega) (by omega)
  have h2 := h (0xC + 0x8 * n) (by omega) (by omega)
  unfold State.ctrAdd
  exact ctl_ite (fun _ => ctl_line (ctl_p2 hk _ _ _ _ h1 h2) ..) fun _ => ctl_p2 hk _ _ _ _ h1 h2

@[simp] theorem ctl_count {z0 s : State} (hk : OnlyControl z0 s) (die k ev amount : Nat) (hd : die < 4) (hs : k ≤ 1) :
    OnlyControl z0 (State.count s die k ev amount) := by
  unfold State.count
  refine ctl_ite (fun _ => hk) fun _ => ctl_forN hk _ _ fun n t hn ht => ctl_ite (fun _ => ht) fun _ => ctl_ctrAdd ht _ _ _ _ hd hs hn

@[simp] theorem ctl_arrFreezes {z0 s : State} (hk : OnlyControl z0 s) (a : Nat) (ha : a < 8) :
    OnlyControl z0 (State.arrFreezes s a) := by
  have h (o : Nat) (ho : [0x0, 0x8, 0x10, 0x14, 0x18].contains o = true) : controlOff (.arr a) o = true := by
    simp only [controlOff, ha, decide_true, Bool.true_and]; exact ho
  unfold State.arrFreezes
  refine ctl_ite (fun _ => hk) fun _ => ?_
  have h1 := fun x y z => ctl_count (ctl_count (ctl_inc (ctl_inc (ctl_inc hk _ F.ARR_FRZ_FEED_CYCLES x (h _ (by decide))) _
    F.ARR_FRZ_DRAIN_CYCLES y (h _ (by decide))) _ F.ARR_FRZ_HOLD_CYCLES z (h _ (by decide))) (a / 2) (a % 2) 3 x (by omega) (by omega))
    (a / 2) (a % 2) 4 y (by omega) (by omega)
  have d : ∀ t : State, OnlyControl z0 t → OnlyControl z0 t.draw := fun t h => ctl_with h ..
  exact d _ (d _ (d _ (h1 _ _ _)))

@[simp] theorem ctl_stopArrays {z0 s : State} (hk : OnlyControl z0 s)  :
    OnlyControl z0 (State.stopArrays s) := by
  simp (maxDischargeDepth := 60) +contextual [controlOff, F.ARR_CUR_SLOT_VALID, F.ARR_STATUS_BUSY, F.ARR_STATUS_EMPTY, F.ARR_STATUS_HOLD, State.stopArrays, State.forN, hk]

@[simp] theorem ctl_stopVectors {z0 s : State} (hk : OnlyControl z0 s)  :
    OnlyControl z0 (State.stopVectors s) := by
  simp (maxDischargeDepth := 60) +contextual [controlOff, F.VEC_OP_SLOT_VALID, F.VEC_OP_STATUS_BUSY, F.VEC_OP_STATUS_EMPTY, State.stopVectors, State.forN, hk]

@[simp] theorem ctl_stopXpbs {z0 s : State} (hk : OnlyControl z0 s)  :
    OnlyControl z0 (State.stopXpbs s) := by
  unfold State.stopXpbs
  refine ctl_forN hk 8 _ fun k t hk ht => ?_
  have h : k / 2 < 4 := by omega
  have h2 : k % 2 = 0 ∨ k % 2 = 1 := by omega
  dsimp only
  split
  · exact ctl_with ht ..
  · refine ctl_ite (fun _ => ?_) fun _ => ctl_p ?_ _ _ _ ?_
    · exact ctl_with ht ..
    · exact ctl_with ht ..
    · rcases h2 with h2 | h2 <;> split <;>
        simp [controlOff, h, h2, F.XPB_STATUS_HALF0, F.XPB_STATUS_HALF1]

@[simp] theorem ctl_stopBobbins {z0 s : State} (hk : OnlyControl z0 s)  :
    OnlyControl z0 (State.stopBobbins s) := by
  unfold State.stopBobbins
  dsimp only
  refine ctl_forN (ctl_bobSyncAll (ctl_with hk ..)) _ _ fun d t hd ht => ctl_forN ht _ _ fun n u hn hu => ctl_p hu _ _ _ ?_
  have := bobbins_le d
  simp [controlOff, hd]; omega

@[simp] theorem ctl_redIdle {z0 s : State} (hk : OnlyControl z0 s) (k : Nat) (h : k < 2) : OnlyControl z0 (State.redIdle s k) := by
  have e : controlOff (.red k) 0 = true := by simp [controlOff, h]
  have h1 : OnlyControl z0 { s with units := tput none s.units (8 * (4 + k) + 1) none } := ctl_with hk ..
  exact ctl_p (ctl_p h1 _ _ _ e) _ _ _ e

@[simp] theorem ctl_stopReduction {z0 s : State} (hk : OnlyControl z0 s)  :
    OnlyControl z0 (State.stopReduction s) := by
  simp (maxDischargeDepth := 60) +contextual [controlOff, F.RED_STATUS_BUSY, F.RED_STATUS_EMPTY, State.stopReduction, State.forN, hk]

@[simp] theorem ctl_stopUpdate {z0 s : State} (hk : OnlyControl z0 s)  :
    OnlyControl z0 (State.stopUpdate s) := by
  simp (maxDischargeDepth := 60) +contextual [controlOff, F.UPD_STATUS_BUSY, F.UPD_STATUS_EMPTY, F.UPD_STATUS_KIND, State.stopUpdate, State.forN, hk]

@[simp] theorem ctl_stopUnits {z0 s : State} (hk : OnlyControl z0 s)  :
    OnlyControl z0 (State.stopUnits s) := by
  simp (maxDischargeDepth := 60) +contextual [controlOff, State.stopUnits, State.forN, hk]

@[simp] theorem ctl_clearEmpty {z0 s : State} (hk : OnlyControl z0 s)  :
    OnlyControl z0 (State.clearEmpty s) := by
  unfold State.clearEmpty
  dsimp only
  refine ctl_forN (ctl_forN (ctl_forN (ctl_forN hk _ _ fun a t ha ht => ctl_p ht _ _ _ ?_) _ _ fun h t hh ht => ctl_p ht _ _ _ ?_)
    _ _ fun d t hd ht => ctl_forN ht _ _ fun n u hn hu => ctl_p hu _ _ _ ?_) _ _ fun k t hk ht => ctl_p (ctl_p ht _ _ _ ?_) _ _ _ ?_
  · simp [controlOff, F.ARR_STATUS_EMPTY, ha]
  · simp [controlOff, F.VEC_OP_STATUS_EMPTY, hh]
  · have := bobbins_le d
    simp [controlOff, hd]; omega
  · simp [controlOff, F.RED_STATUS_EMPTY, hk]
  · simp [controlOff, F.UPD_STATUS_EMPTY, hk]

@[simp] theorem ctl_voidRun {z0 s : State} (hk : OnlyControl z0 s) (cause : Nat) (host : Bool) :
    OnlyControl z0 (State.voidRun s cause host) := by
  unfold State.voidRun
  dsimp only
  split
  all_goals simp (maxDischargeDepth := 60) +contextual [controlOff, F.PRK_STATUS_VOIDED, hk]

@[simp] theorem ctl_leaveStep {z0 s : State} (hk : OnlyControl z0 s) (verdict : Nat) :
    OnlyControl z0 (State.leaveStep s verdict) := by
  unfold State.leaveStep
  dsimp only
  split
  all_goals simp (maxDischargeDepth := 60) +contextual [controlOff, F.HST_STATUS_RUNNING, F.PRK_STATUS_RUNNING, F.PRK_STATUS_VOIDED, hk]

@[simp] theorem ctl_endRun {z0 s : State} (hk : OnlyControl z0 s)  :
    OnlyControl z0 (State.endRun s) := by
  unfold State.endRun
  split
  · exact hk
  · exact ctl_leaveStep hk _

@[simp] theorem ctl_cancelQueue {z0 s : State} (hk : OnlyControl z0 s)  :
    OnlyControl z0 (State.cancelQueue s) := by
  simp (maxDischargeDepth := 60) +contextual [controlOff, F.HST_STATUS_QUEUED, State.cancelQueue, State.forN, hk]

@[simp] theorem ctl_dropAdmission {z0 s : State} (hk : OnlyControl z0 s)  :
    OnlyControl z0 (State.dropAdmission s) := by
  simp (maxDischargeDepth := 60) +contextual [controlOff, F.PRK_STATUS_ADMITTED, State.dropAdmission, State.forN, hk]

@[simp] theorem ctl_queueOs {z0 s : State} (hk : OnlyControl z0 s) (port : Nat) (bs : List Byte) (times : Nat) :
    OnlyControl z0 (State.queueOs s port bs times) := by
  simp (maxDischargeDepth := 60) +contextual [controlOff, F.NIR_STATUS_STATE, F.NIR_STATUS_VER, State.queueOs, State.forN, hk]

@[simp] theorem ctl_sendUp {z0 s : State} (hk : OnlyControl z0 s) (bs : List Byte) :
    OnlyControl z0 (State.sendUp s bs) := by
  simp (maxDischargeDepth := 60) +contextual [controlOff, State.sendUp, State.forN, hk]

@[simp] theorem ctl_noteFatal {z0 s : State} (hk : OnlyControl z0 s) (origin code detail knot d : Nat) (hd : d < 6) :
    OnlyControl z0 (State.noteFatal s origin code detail knot d) := by
  have h (o : Nat) (ho : [0x0, 0x4, 0x8, 0xC, 0x10].contains o = true) : controlOff (.irq d) o = true := by
    simp only [controlOff, hd, decide_true, Bool.true_and]; exact ho
  unfold State.noteFatal
  refine ctl_ite (fun _ => ctl_inc hk _ _ _ (h _ (by decide))) fun _ => ?_
  refine ctl_line (ctl_p (ctl_p2 (ctl_p (ctl_p (ctl_p (ctl_p hk _ _ _ ?_) _ _ _ ?_) _ _ _ ?_) _ _ _ ?_) _ _ _ _ ?_ ?_) _ _ _ ?_) _ _
  all_goals exact h _ (by decide)

@[simp] theorem ctl_gridFree {z0 s : State} (hk : OnlyControl z0 s)  :
    OnlyControl z0 (State.gridFree s) := by
  simp (maxDischargeDepth := 60) +contextual [controlOff, F.GRID_STATUS_BEACON_PORT, F.GRID_STATUS_HOP_COUNT, F.GRID_STATUS_IS_ROOT, F.GRID_STATUS_LOCK_STATE, State.gridFree, State.forN, hk]

@[simp] theorem ctl_completeRun {z0 s : State} (hk : OnlyControl z0 s) (code : Nat) :
    OnlyControl z0 (State.completeRun s code) := by
  unfold State.completeRun
  dsimp only
  split
  all_goals simp (maxDischargeDepth := 60) +contextual [controlOff, F.HST_STATUS_RUNNING, F.PRK_STATUS_RUNNING, F.PRK_STATUS_VOIDED, hk]

@[simp] theorem ctl_completeAll {z0 s : State} (hk : OnlyControl z0 s) (code : Nat) :
    OnlyControl z0 (State.completeAll s code) := by
  simp (maxDischargeDepth := 60) +contextual [controlOff, F.HST_STATUS_QUEUED, State.completeAll, State.forN, hk]

@[simp] theorem ctl_fatal {z0 s : State} (hk : OnlyControl z0 s) (die : Nat) (code : Nat) (detail : Nat) :
    OnlyControl z0 (State.fatal s die code detail) := by
  simp (maxDischargeDepth := 60) +contextual [controlOff, F.DEV_STATUS_FATAL, F.HST_STATUS_GEN, F.HST_STATUS_SUSPENDED, F.HST_STATUS_SUSP_CAUSE, F.HST_STATUS_WIDTH, F.PRK_STATUS_ADMITTING, State.fatal, State.forN, hk]

@[simp] theorem ctl_seeVoid {z0 s : State} (hk : OnlyControl z0 s) (n : Nat) :
    OnlyControl z0 (State.seeVoid s n) := by
  unfold State.seeVoid
  dsimp only
  repeat' split
  all_goals simp (maxDischargeDepth := 60) +contextual [controlOff, F.RED_ERR_CODE, *]

@[simp] theorem ctl_rootVoid {z0 s : State} (hk : OnlyControl z0 s) (stepEnd : Nat) :
    OnlyControl z0 (State.rootVoid s stepEnd) := by
  simp (maxDischargeDepth := 60) +contextual [controlOff, State.rootVoid, State.forN, hk]

@[simp] theorem ctl_rootSnag {z0 s : State} (hk : OnlyControl z0 s) (x : Snag) :
    OnlyControl z0 (State.rootSnag s x) := by
  simp (maxDischargeDepth := 60) +contextual [controlOff, State.rootSnag, State.forN, hk]

@[simp] theorem ctl_raiseSnag {z0 s : State} (hk : OnlyControl z0 s) (die : Nat) (x : Snag) (void : Bool) :
    OnlyControl z0 (State.raiseSnag s die x void) := by
  unfold State.raiseSnag
  dsimp only
  repeat' split
  all_goals simp (maxDischargeDepth := 60) +contextual [controlOff, F.GRID_SNAG_COUNT_SENT, F.GRID_SNAG_COUNT_VOIDS, *]

@[simp] theorem ctl_raiseVoid {z0 s : State} (hk : OnlyControl z0 s) (die : Nat) (cause : Nat) :
    OnlyControl z0 (State.raiseVoid s die cause) := by
  unfold State.raiseVoid
  dsimp only
  split
  all_goals simp (maxDischargeDepth := 60) +contextual [controlOff, hk]

@[simp] theorem ctl_raiseLate {z0 s : State} (hk : OnlyControl z0 s) (die : Nat) (cause : Nat) (target : Nat) (lateness : Nat) :
    OnlyControl z0 (State.raiseLate s die cause target lateness) := by
  simp (maxDischargeDepth := 60) +contextual [controlOff, State.raiseLate, State.forN, hk]

@[simp] theorem ctl_endSnag {z0 s : State} (hk : OnlyControl z0 s) (endKnot : Nat) :
    OnlyControl z0 (State.endSnag s endKnot) := by
  simp (maxDischargeDepth := 60) +contextual [controlOff, State.endSnag, State.forN, hk]

@[simp] theorem ctl_withdraw {z0 s : State} (hk : OnlyControl z0 s) (snag : Bool) :
    OnlyControl z0 (State.withdraw s snag) := by
  unfold State.withdraw
  dsimp only
  repeat' split
  all_goals simp (maxDischargeDepth := 60) +contextual [controlOff, *]

@[simp] theorem ctl_withdrawAtKnot {z0 s : State} (hk : OnlyControl z0 s)  :
    OnlyControl z0 (State.withdrawAtKnot s) := by
  simp (maxDischargeDepth := 60) +contextual [controlOff, State.withdrawAtKnot, State.forN, hk]

@[simp] theorem ctl_setLock {z0 s : State} (hk : OnlyControl z0 s) (new : Nat) :
    OnlyControl z0 (State.setLock s new) := by
  simp (maxDischargeDepth := 60) +contextual [controlOff, F.GRID_STATUS_LOCK_STATE, State.setLock, State.forN, hk]

@[simp] theorem ctl_suspend {z0 s : State} (hk : OnlyControl z0 s) (cause : Nat) :
    OnlyControl z0 (State.suspend s cause) := by
  simp (maxDischargeDepth := 60) +contextual [controlOff, F.HST_STATUS_SUSPENDED, F.HST_STATUS_SUSP_CAUSE, State.suspend, State.forN, hk]

@[simp] theorem ctl_queueCtl {z0 s : State} (hk : OnlyControl z0 s) (p : Nat) (m : CtlMsg) :
    OnlyControl z0 (State.queueCtl s p m) := by
  unfold State.queueCtl
  exact ctl_ite (fun _ => ctl_with hk ..) fun _ => hk

@[simp] theorem ctl_sendJoinReport {z0 s : State} (hk : OnlyControl z0 s)  :
    OnlyControl z0 (State.sendJoinReport s) := by
  simp (maxDischargeDepth := 60) +contextual [controlOff, F.GRID_CTRL_BACKUP_EN, F.GRID_PATH_ROOT_PATH, F.GRID_ROOT_ID_HI_ID_HI, F.GRID_ROOT_ID_LO_ID_LO, F.GRID_STATUS_EPOCH, F.GRID_STATUS_HOP_COUNT, State.sendJoinReport, State.forN, hk]

@[simp] theorem ctl_updatePath {z0 s : State} (hk : OnlyControl z0 s)  :
    OnlyControl z0 (State.updatePath s) := by
  unfold State.updatePath
  dsimp only
  repeat' split
  all_goals simp (maxDischargeDepth := 60) +contextual [controlOff, F.GRID_PATH_ROOT_PATH, *]

@[simp] theorem ctl_moveBeacon {z0 s : State} (hk : OnlyControl z0 s)  :
    OnlyControl z0 (State.moveBeacon s) := by
  unfold State.moveBeacon
  refine ctl_ite (fun _ => hk) fun _ => ?_
  split
  · exact ctl_p hk _ _ _ (by decide)
  · exact ctl_ite (fun _ => hk) fun _ => ctl_updatePath (ctl_p (ctl_p hk _ _ _ (by decide)) _ _ _ (by decide))

@[simp] theorem ctl_foreignSync {z0 s : State} (hk : OnlyControl z0 s)  :
    OnlyControl z0 (State.foreignSync s) := by
  simp (maxDischargeDepth := 60) +contextual [controlOff, F.GRID_STATUS_FOREIGN, F.NIR_STATUS_FOREIGN, State.foreignSync, State.forN, hk]

@[simp] theorem ctl_settleTrain {z0 s : State} (hk : OnlyControl z0 s)  :
    OnlyControl z0 (State.settleTrain s) := by
  simp (maxDischargeDepth := 60) +contextual [controlOff, State.settleTrain, State.forN, hk]

end

end Sys2Proof.Machine
end

