-- ==== Sys2Proof/Laws/Free.lean ====
section
/-! SUPPORT. Register windows that OnlyControl (Safety.lean) leaves alone: links, memories, security, and the sample registers. -/

namespace Sys2Proof.Machine

/-- Where a register that control may change lies: never above offset 0x9004 of its window, and in which window. -/
theorem controlReg_lt {a : Nat} (h : ControlReg a) : (a / 0x10000 < 6 ∧ a / 0x10000 ≠ 4) ∨
    (1 ≤ a / 0x800000 ∧ a / 0x800000 ≤ 4 ∧ (a % 0x800000 / 0x10000 ≤ 5 ∨ a % 0x800000 / 0x10000 = 16
      ∨ (a % 0x800000 / 0x10000 = 17 ∧ 0x1008 ≤ a % 0x10000))) ∨
    (5 ≤ a / 0x800000 ∧ a / 0x800000 ≤ 6 ∧ (a % 0x800000 / 0x10000 ≤ 2 ∨ a % 0x800000 / 0x10000 = 4
      ∨ a % 0x800000 / 0x10000 = 6)) := by
  obtain ⟨b, o, rfl, h⟩ := h
  cases b <;> simp [controlOff] at h
  all_goals simp only [Blk.base]
  all_goals first | omega | (split <;> omega)

theorem nir_free {p o : Nat} (hp : p < 18) (ho : o < 0x10000) : ¬ControlReg ((Blk.nir p).base + o) := by
  intro h
  have := controlReg_lt h
  simp only [Blk.base] at this
  split at this <;> omega

theorem hbm_free {m o : Nat} (hm : m < 24) (ho : o < 0x10000) : ¬ControlReg ((Blk.hbm m).base + o) := by
  intro h
  have := controlReg_lt h
  simp only [Blk.base] at this
  omega

theorem str_free {u o : Nat} (hu : u < 2) (ho : o < 0x10000) : ¬ControlReg ((Blk.str u).base + o) := by
  intro h
  have := controlReg_lt h
  simp only [Blk.base] at this
  omega

theorem sec_free {o : Nat} (ho : o < 0x10000) : ¬ControlReg (Blk.sec.base + o) := by
  intro h
  have := controlReg_lt h
  simp only [Blk.base] at this
  omega

/-- Below the array sets' counters, a counter block is free. -/
theorem pmu_free {d o : Nat} (hd : d < 6) (ho : o < 0x1008) : ¬ControlReg ((Blk.pmu d).base + o) := by
  intro h
  have := controlReg_lt h
  simp only [Blk.base] at this
  split at this <;> omega

/-- A field whose register control does not reach reads as before. -/
theorem ctl_g {a s : State} (h : OnlyControl a s) (b : Blk) (f : Fld) (hf : ¬ControlReg (b.base + f.off)) :
    s.g b f = a.g b f := by
  simp only [State.g, h.regs _ hf]

end Sys2Proof.Machine
end

