-- ==== Sys2Proof/Laws/KeepBase.lean ====
section
/-! SUPPORT. What every operation and every command of the device keeps: the relation, and its rules for record updates,
folds and branches. One lemma per operation follows in the other Keep files; `kept` of a command is its lemma there. -/

namespace Sys2Proof.Machine

/-- What every operation of the device keeps, from state `a` on: the invariant of Safety.lean, the queue of waiting commands,
what is fused into the part, the rising minimum security version, what has left the device, and free values already drawn. -/
structure Keep (a s : State) : Prop where
  inv : Inv a → Inv s
  pending : s.pending = a.pending
  fused : s.part.serial = a.part.serial ∧ s.part.extRequired = a.part.extRequired
    ∧ s.part.debugDisable = a.part.debugDisable ∧ s.part.rootRevoke = a.part.rootRevoke
  svn : a.part.minSvn ≤ s.part.minSvn
  out : a.out <:+ s.out
  fresh : a.fresh ≤ s.fresh

theorem keep_refl (s : State) : Keep s s :=
  ⟨fun i => i, rfl, ⟨rfl, rfl, rfl, rfl⟩, Nat.le_refl _, List.suffix_rfl, Nat.le_refl _⟩

@[simp] theorem keep_with {a s : State} (h : Keep a s) (v0 : Table Word) (v1 : Table Word) (v2 : Table (Nat × Table Word)) (v3 : Table Nat) (v5 : List Nat) (v6 : List Nat) (v7 : List Page) (v8 : List Page) (v9 : List (Nat × Nat)) (v10 : List (Nat × Nat)) (v11 : List Page) (v12 : List (Page × Nat)) (v13 : List Nat) (v14 : Table Nat) (v15 : Table Nat) (v16 : Table Nat) (v17 : Table Nat) (v18 : List Arm) (v19 : Table Silence) (v20 : Table PortUnit) (v21 : List LinkRun) (v22 : Grid) (v23 : Bool) (v24 : Bool) (v25 : Table Word) (v26 : Table Nat) (v27 : List Nat) (v28 : Table (Option Ring)) (v29 : Bool) (v30 : List Cmd) (v32 : Option Run) (v33 : Option Save) (v34 : Nat) (v35 : Option (Nat × Bool × Nat)) (v36 : Option (Nat × Nat)) (v37 : Option Admitting) (v38 : Option Pricking) (v39 : Option (Nat × List Byte)) (v40 : Option (Nat × List Byte)) (v41 : Option EndedRun) (v42 : Bool) (v43 : List Byte) (v44 : Bool) (v46 : Table ArrayUnit) (v47 : Table XpbBuf) (v48 : Table (Option UnitRun)) (v49 : Table ScaleEntry) (v50 : Table StepStat) (v51 : Option ScaleJob) (v52 : List Nat) (v53 : Table Nat) (v54 : Table Sampler) (v55 : Table Nat) (v56 : Table Nat) (v57 : Table Nat) (v58 : List Nat) (v59 : List Nat) (v60 : Bool) (v61 : Bool) (v63 : Bool) (v64 : PowerUnit) (v66 : Option (List Byte)) :
    Keep a (State.mk v0 v1 v2 v3 s.mem v5 v6 v7 v8 v9 v10 v11 v12 v13 v14 v15 v16 v17 v18 v19 v20 v21 v22 v23 v24 v25 v26 v27 v28 v29 v30 s.queue v32 v33 v34 v35 v36 v37 v38 v39 v40 v41 v42 v43 v44 s.sensorQ v46 v47 v48 v49 v50 v51 v52 v53 v54 v55 v56 v57 v58 v59 v60 v61 s.perst v63 v64 s.part v66 s.mgt s.test s.fresh s.out s.pending) :=
  ⟨fun i => ⟨(h.inv i).mem, (h.inv i).events, (h.inv i).connections, (h.inv i).steps, (h.inv i).port⟩, h.pending, h.fused, h.svn, h.out, h.fresh⟩

/-- A state function that keeps, folded over a list, keeps. -/
@[simp] theorem keep_foldl {α : Type} {a s : State} (h : Keep a s) (l : List α) (f : State → α → State)
    (hf : ∀ t x, Keep a t → Keep a (f t x)) : Keep a (l.foldl f s) := by
  induction l generalizing s with
  | nil => exact h
  | cons x l ih => exact ih (hf s x h)

/-- The same over an accumulator that carries the state. -/
theorem keep_foldlOn {α β : Type} {a : State} (g : β → State) {b : β} (h : Keep a (g b)) (l : List α) (f : β → α → β)
    (hf : ∀ b x, Keep a (g b) → Keep a (g (f b x))) : Keep a (g (l.foldl f b)) := by
  induction l generalizing b with
  | nil => exact h
  | cons x l ih => exact ih (hf b x h)

@[simp] theorem keep_ite {a s t : State} {c : Prop} [Decidable c] (h : c → Keep a s) (h' : ¬c → Keep a t) :
    Keep a (if c then s else t) := by
  split
  · exact h ‹_›
  · exact h' ‹_›

theorem keep_out {a s : State} (h : Keep a s) (o : Out) : Keep a { s with out := o :: s.out } :=
  ⟨fun i => ⟨(h.inv i).mem, (h.inv i).events, (h.inv i).connections, (h.inv i).steps, (h.inv i).port⟩, h.pending,
    h.fused, h.svn, h.out.trans (List.suffix_cons _ _), h.fresh⟩

theorem keep_mem {a s : State} (h : Keep a s) (m : List Host.Cell) (b u : List Nat) (hm : Memory.wf s.mem → Memory.wf m) :
    Keep a { s with mem := m, badPairs := b, ueHits := u } :=
  ⟨fun i => ⟨hm (h.inv i).mem, (h.inv i).events, (h.inv i).connections, (h.inv i).steps, (h.inv i).port⟩, h.pending,
    h.fused, h.svn, h.out, h.fresh⟩

theorem keep_queue {a s : State} (h : Keep a s) (q : List QStep) (hq : s.queue.length ≤ 4 → q.length ≤ 4) :
    Keep a { s with queue := q } :=
  ⟨fun i => ⟨(h.inv i).mem, (h.inv i).events, (h.inv i).connections, hq (h.inv i).steps, (h.inv i).port⟩, h.pending,
    h.fused, h.svn, h.out, h.fresh⟩

theorem keep_queue_of_inv {a s : State} (h : Keep a s) (q : List QStep) (hq : Inv a → q.length ≤ 4) :
    Keep a { s with queue := q } :=
  ⟨fun i => ⟨(h.inv i).mem, (h.inv i).events, (h.inv i).connections, hq i, (h.inv i).port⟩, h.pending,
    h.fused, h.svn, h.out, h.fresh⟩

theorem keep_sensorQ {a s : State} (h : Keep a s) (q : List SensorEvent) (hq : s.sensorQ.length ≤ 32 → q.length ≤ 32) :
    Keep a { s with sensorQ := q } :=
  ⟨fun i => ⟨(h.inv i).mem, hq (h.inv i).events, (h.inv i).connections, (h.inv i).steps, (h.inv i).port⟩, h.pending,
    h.fused, h.svn, h.out, h.fresh⟩

theorem keep_mgt {a s : State} (h : Keep a s) (m : MgtUnit) (hm : s.mgt.spdm.length ≤ 2 → m.spdm.length ≤ 2) :
    Keep a { s with mgt := m } :=
  ⟨fun i => ⟨(h.inv i).mem, (h.inv i).events, hm (h.inv i).connections, (h.inv i).steps, (h.inv i).port⟩, h.pending,
    h.fused, h.svn, h.out, h.fresh⟩

theorem keep_test {a s : State} (h : Keep a s) (t : TestPort) (p : Bool)
    (ht : portSafe s → portSafe { s with test := t, perst := p }) : Keep a { s with test := t, perst := p } :=
  ⟨fun i => ⟨(h.inv i).mem, (h.inv i).events, (h.inv i).connections, (h.inv i).steps, ht (h.inv i).port⟩, h.pending,
    h.fused, h.svn, h.out, h.fresh⟩

theorem keep_part {a s : State} (h : Keep a s) (p : Part)
    (hp : p.serial = s.part.serial ∧ p.extRequired = s.part.extRequired ∧ p.debugDisable = s.part.debugDisable
      ∧ p.rootRevoke = s.part.rootRevoke) (hm : s.part.minSvn ≤ p.minSvn) : Keep a { s with part := p } :=
  ⟨fun i => ⟨(h.inv i).mem, (h.inv i).events, (h.inv i).connections, (h.inv i).steps,
      (h.inv i).port.1, (h.inv i).port.2.1, fun t => ⟨((h.inv i).port.2.2 t).1, by
        rw [← ((h.inv i).port.2.2 t).2]; exact hp.2.2.1⟩⟩, h.pending,
    ⟨hp.1.trans h.fused.1, hp.2.1.trans h.fused.2.1, hp.2.2.1.trans h.fused.2.2.1, hp.2.2.2.trans h.fused.2.2.2⟩,
    Nat.le_trans h.svn hm, h.out, h.fresh⟩

theorem keep_freshOf {a s t : State} (h : Keep a s) (ht : Keep a t) (n : Nat) : Keep a { t with fresh := s.fresh + n } :=
  ⟨fun i => ⟨(ht.inv i).mem, (ht.inv i).events, (ht.inv i).connections, (ht.inv i).steps, (ht.inv i).port⟩, ht.pending,
    ht.fused, ht.svn, ht.out, Nat.le_trans h.fresh (Nat.le_add_right ..)⟩

/-- A command answers a next state, and keeps. -/
def Kept (a : State) (o : Host.Outcome State Fault Refusal) : Prop := ∃ t, o = .next t ∧ Keep a t

@[simp] theorem kept_next {a t : State} : Kept a (.next t) ↔ Keep a t :=
  ⟨fun ⟨_, h, k⟩ => by cases h; exact k, fun k => ⟨t, rfl, k⟩⟩

@[simp] theorem kept_ite {a : State} {o o' : Host.Outcome State Fault Refusal} {c : Prop} [Decidable c]
    (h : c → Kept a o) (h' : ¬c → Kept a o') : Kept a (if c then o else o') := by
  split
  · exact h ‹_›
  · exact h' ‹_›

end Sys2Proof.Machine
end

