-- ==== Sys2Proof/Laws/KeepOps.lean ====
section
/-! SUPPORT. What the operations and commands of Machine/Ops.lean keep. -/

namespace Sys2Proof.Machine

@[simp] theorem keep_wr {z0 s : State} (hk : Keep z0 s) (a : Nat) (v : Word) :
    Keep z0 (State.wr s a v) := by
  simp (maxDischargeDepth := 60) +contextual [State.wr, hk]

@[simp] theorem keep_p {z0 s : State} (hk : Keep z0 s) (b : Blk) (f : Fld) (v : Nat) :
    Keep z0 (State.p s b f v) := by
  simp (maxDischargeDepth := 60) +contextual [State.p, hk]

@[simp] theorem keep_pb {z0 s : State} (hk : Keep z0 s) (b : Blk) (f : Fld) (v : Bool) :
    Keep z0 (State.pb s b f v) := by
  simp (maxDischargeDepth := 60) +contextual [State.pb, hk]

@[simp] theorem keep_inc {z0 s : State} (hk : Keep z0 s) (b : Blk) (f : Fld) (n : Nat) :
    Keep z0 (State.inc s b f n) := by
  simp (maxDischargeDepth := 60) +contextual [State.inc, hk]

@[simp] theorem keep_p2 {z0 s : State} (hk : Keep z0 s) (b : Blk) (lo : Fld) (hi : Fld) (v : Nat) :
    Keep z0 (State.p2 s b lo hi v) := by
  simp (maxDischargeDepth := 60) +contextual [State.p2, hk]

@[simp] theorem keep_clearRange {z0 s : State} (hk : Keep z0 s) (b : Blk) (lo : Nat) (hi : Nat) :
    Keep z0 (State.clearRange s b lo hi) := by
  simp (maxDischargeDepth := 60) +contextual [State.clearRange, hk]

@[simp] theorem keep_writeByte {z0 s : State} (hk : Keep z0 s) (a : Nat) (v : Byte) :
    Keep z0 (State.writeByte s a v) := by
  exact keep_mem hk _ _ _ (tput_wf memDefault s.mem _ v)

@[simp] theorem keep_writeMem {z0 s : State} (hk : Keep z0 s) (a : Nat) (bs : List Byte) :
    Keep z0 (State.writeMem s a bs) := by
  unfold State.writeMem
  split
  · exact keep_mem hk _ _ _ (memWrite_wf s.mem _ bs)
  · exact keep_mem hk _ _ _ (memWrite_wf s.mem _ _)

@[simp] theorem keep_emit {z0 s : State} (hk : Keep z0 s) (o : Out) :
    Keep z0 (State.emit s o) := by
  unfold State.emit
  cases o <;> simp only [Bool.true_and, Bool.false_and, Bool.false_eq_true, if_false] <;>
    first | exact keep_out hk _ | (split; exact hk; exact keep_out hk _)

@[simp] theorem keep_draw {z0 s : State} (hk : Keep z0 s)  :
    Keep z0 (State.draw s) := by
  exact ⟨fun i => ⟨(hk.inv i).mem, (hk.inv i).events, (hk.inv i).connections, (hk.inv i).steps, (hk.inv i).port⟩, hk.pending,
    hk.fused, hk.svn, hk.out, Nat.le_succ_of_le hk.fresh⟩

@[simp] theorem keep_line {z0 s : State} (hk : Keep z0 s) (die : Nat) (src : Nat) :
    Keep z0 (State.line s die src) := by
  simp (maxDischargeDepth := 60) +contextual [State.line, hk]

@[simp] theorem keep_sendMsix {z0 s : State} (hk : Keep z0 s) (v : Nat) :
    Keep z0 (State.sendMsix s v) := by
  simp (maxDischargeDepth := 60) +contextual [State.sendMsix, hk]

@[simp] theorem keep_flushMsix {z0 s : State} (hk : Keep z0 s)  :
    Keep z0 (State.flushMsix s) := by
  simp (maxDischargeDepth := 60) +contextual [State.flushMsix, hk]

@[simp] theorem keep_evtWrite {z0 s : State} (hk : Keep z0 s) (e : Event) :
    Keep z0 (State.evtWrite s e) := by
  simp (maxDischargeDepth := 60) +contextual [State.evtWrite, hk]

@[simp] theorem keep_evtSettle {z0 s : State} (hk : Keep z0 s)  :
    Keep z0 (State.evtSettle s) := by
  simp (maxDischargeDepth := 60) +contextual [State.evtSettle, hk]

@[simp] theorem keep_event {z0 s : State} (hk : Keep z0 s) (e : Event) :
    Keep z0 (State.event s e) := by
  simp (maxDischargeDepth := 60) +contextual [State.event, hk]

@[simp] theorem keep_tellAgents {z0 s : State} (hk : Keep z0 s)  :
    Keep z0 (State.tellAgents s) := by
  simp (maxDischargeDepth := 60) +contextual [State.tellAgents, State.forN, hk]

@[simp] theorem keep_agentsReport {z0 s : State} (hk : Keep z0 s)  :
    Keep z0 (State.agentsReport s) := by
  simp (maxDischargeDepth := 60) +contextual [State.agentsReport, State.forN, hk]

@[simp] theorem keep_setRing {z0 s : State} (hk : Keep z0 s) (i : Nat) (r : Option Ring) :
    Keep z0 (State.setRing s i r) := by
  simp (maxDischargeDepth := 60) +contextual [State.setRing, hk]

@[simp] theorem keep_cqWrite {z0 s : State} (hk : Keep z0 s) (i : Nat) (r : Ring) (c : Completion) :
    Keep z0 (State.cqWrite s i r c) := by
  simp (maxDischargeDepth := 60) +contextual [State.cqWrite, hk]

@[simp] theorem keep_postTo {z0 s : State} (hk : Keep z0 s) (i : Nat) (c : Completion) :
    Keep z0 (State.postTo s i c) := by
  unfold State.postTo
  split
  · exact hk
  · simp (maxDischargeDepth := 60) [*]

@[simp] theorem keep_ringFree {z0 s : State} (hk : Keep z0 s) (i : Nat) :
    Keep z0 (State.ringFree s i) := by
  unfold State.ringFree
  split
  · exact hk
  · exact keep_setRing hk ..

@[simp] theorem keep_complete {z0 s : State} (hk : Keep z0 s) (c : Cmd) (status : Nat) (result : Nat) :
    Keep z0 (State.complete s c status result) := by
  simp (maxDischargeDepth := 60) +contextual [State.complete, hk]

@[simp] theorem keep_completeStep {z0 s : State} (hk : Keep z0 s) (q : QStep) (status : Nat) (result : Nat) :
    Keep z0 (State.completeStep s q status result) := by
  simp (maxDischargeDepth := 60) +contextual [State.completeStep, hk]

@[simp] theorem keep_hostErr {z0 s : State} (hk : Keep z0 s) (code : Nat) (ring : Nat) :
    Keep z0 (State.hostErr s code ring) := by
  simp (maxDischargeDepth := 60) +contextual [State.hostErr, hk]

@[simp] theorem keep_forN {z0 s : State} (hk : Keep z0 s) (n : Nat) (f : Nat → State → State) (hf : ∀ (x0 : Nat) (t : State), Keep z0 t → Keep z0 (f x0 t)) :
    Keep z0 (State.forN s n f) := by
  unfold State.forN
  repeat' (dsimp only; split)
  all_goals (try dsimp only)
  all_goals simp (maxDischargeDepth := 60) +contextual [*]

end Sys2Proof.Machine
end

