-- ==== Sys2Proof/Laws/KeepConfigRegs.lean ====
section
/-! SUPPORT. What the operations and commands of Machine/ConfigRegs.lean keep. -/

namespace Sys2Proof.Machine

@[simp] theorem keep_regWriteBits {z0 s : State} (hk : Keep z0 s) (a : Nat) (v : Word) :
    Keep z0 (State.regWriteBits s a v) := by
  simp (maxDischargeDepth := 60) +contextual [State.regWriteBits, hk]

@[simp] theorem keep_cfgGo {z0 s : State} (hk : Keep z0 s) (b : Blk) :
    Keep z0 (State.cfgGo s b) := by
  simp (maxDischargeDepth := 60) +contextual [State.cfgGo, hk]

@[simp] theorem keep_cfgEvent {z0 s : State} (hk : Keep z0 s) (b : Blk) (rule : Nat) (off : Nat) (refused : Bool) :
    Keep z0 (State.cfgEvent s b rule off refused) := by
  simp (maxDischargeDepth := 60) +contextual [State.cfgEvent, hk]

@[simp] theorem keep_cfgTake {z0 s : State} (hk : Keep z0 s) (b : Blk) (snap : Table Word) :
    Keep z0 (State.cfgTake s b snap) := by
  simp (maxDischargeDepth := 60) +contextual [State.cfgTake, hk]

@[simp] theorem keep_cfgRefuse {z0 s : State} (hk : Keep z0 s) (b : Blk) (rule : Nat) (off : Nat) :
    Keep z0 (State.cfgRefuse s b rule off) := by
  simp (maxDischargeDepth := 60) +contextual [State.cfgRefuse, hk]

@[simp] theorem keep_silence {z0 s : State} (hk : Keep z0 s) (i : Nat) :
    Keep z0 (State.silence s i) := by
  unfold State.silence
  have h1 := keep_queue hk (s.queue.map fun q => if q.ring = i then { q with silent := true } else q) (by simp)
  exact keep_with h1 ..

@[simp] theorem keep_hstEffect {z0 s : State} (hk : Keep z0 s) (old : State) :
    Keep z0 (State.hstEffect old s) := by
  simp (maxDischargeDepth := 60) +contextual [State.hstEffect, hk]

@[simp] theorem keep_devEffect {z0 s : State} (hk : Keep z0 s) (old : State) :
    Keep z0 (State.devEffect old s) := by
  simp (maxDischargeDepth := 60) +contextual [State.devEffect, hk]

@[simp] theorem keep_gridEffect {z0 s : State} (hk : Keep z0 s) (old : State) :
    Keep z0 (State.gridEffect old s) := by
  simp (maxDischargeDepth := 60) +contextual [State.gridEffect, hk]

@[simp] theorem keep_pmuEffect {z0 s : State} (hk : Keep z0 s) (old : State) (d : Nat) :
    Keep z0 (State.pmuEffect old s d) := by
  simp (maxDischargeDepth := 60) +contextual [State.pmuEffect, hk]

end Sys2Proof.Machine
end

