-- ==== Sys2Proof/Laws/KeepGate.lean ====
section
/-! SUPPORT. What the operations and commands of Machine/Gate.lean keep. -/

namespace Sys2Proof.Machine

@[simp] theorem keep_writeIgnored {z0 s : State} (hk : Keep z0 s) (code : Nat) (a : Nat) :
    Keep z0 (State.writeIgnored s code a) := by
  simp (maxDischargeDepth := 60) +contextual [State.writeIgnored, hk]

@[simp] theorem keep_hostWrite {z0 s : State} (hk : Keep z0 s) (a : Nat) (f : State → State) (hf : ∀  (t : State), Keep z0 t → Keep z0 (f  t)) :
    Keep z0 (State.hostWrite s a f) := by
  unfold State.hostWrite
  repeat' (dsimp only; split)
  all_goals (try dsimp only)
  all_goals simp (maxDischargeDepth := 60) +contextual [*]

end Sys2Proof.Machine
end

