-- ==== Sys2Proof/Laws/KeepRated.lean ====
section
/-! SUPPORT. What the operations and commands of Machine/Rated.lean keep. -/

namespace Sys2Proof.Machine

@[simp] theorem keep_domainSet {z0 s : State} (hk : Keep z0 s) (n : Nat) (on : Bool) :
    Keep z0 (State.domainSet s n on) := by
  simp (maxDischargeDepth := 60) +contextual [State.domainSet, hk]

@[simp] theorem keep_cycSet {z0 s : State} (hk : Keep z0 s) (die : Nat) (k : Nat) (v : Nat) :
    Keep z0 (State.cycSet s die k v) := by
  simp (maxDischargeDepth := 60) +contextual [State.cycSet, hk]

@[simp] theorem keep_keepCycles {z0 s : State} (hk : Keep z0 s) (a : Nat) (f : State → State) (hf : ∀  (t : State), Keep z0 t → Keep z0 (f  t)) :
    Keep z0 (State.keepCycles s a f) := by
  unfold State.keepCycles
  dsimp only
  repeat' split
  all_goals simp (maxDischargeDepth := 60) [*]

@[simp] theorem keep_gateArrays {z0 s : State} (hk : Keep z0 s)  :
    Keep z0 (State.gateArrays s) := by
  simp (maxDischargeDepth := 60) +contextual [State.gateArrays, hk]

@[simp] theorem keep_arrayOp {z0 s : State} (hk : Keep z0 s) (a : Nat) (op : Nat) :
    Keep z0 (State.arrayOp s a op) := by
  simp (maxDischargeDepth := 60) +contextual [State.arrayOp, hk]

@[simp] theorem keep_arrayRates {z0 s : State} (hk : Keep z0 s)  :
    Keep z0 (State.arrayRates s) := by
  simp (maxDischargeDepth := 60) +contextual [State.arrayRates, hk]

@[simp] theorem keep_refreshPower {z0 s : State} (hk : Keep z0 s)  :
    Keep z0 (State.refreshPower s) := by
  simp (maxDischargeDepth := 60) +contextual [State.refreshPower, hk]

end Sys2Proof.Machine
end

