-- ==== Sys2Proof/Laws/KeepVector.lean ====
section
/-! SUPPORT. What the operations and commands of Machine/Vector.lean keep. -/

namespace Sys2Proof.Machine

@[simp] theorem keep_collect {z0 s : State} (hk : Keep z0 s) (die : Nat) (idx : Nat) (amax : Nat) :
    Keep z0 (State.collect s die idx amax) := by
  simp (maxDischargeDepth := 60) +contextual [State.collect, hk]

@[simp] theorem keep_addStat {z0 s : State} (hk : Keep z0 s) (t2 : Bool) (die : Nat) (idx : Nat) (c : ConvStat) :
    Keep z0 (State.addStat s t2 die idx c) := by
  simp (maxDischargeDepth := 60) +contextual [State.addStat, State.forN, hk]

@[simp] theorem keep_runConversion {z0 s : State} (hk : Keep z0 s) (h : Nat) (w : WorkEnv) (d : List Byte) :
    Keep z0 (State.runConversion s h w d) := by
  unfold State.runConversion
  dsimp only
  repeat' first
    | exact hk
    | refine keep_addStat ?_ ..
    | refine keep_collect ?_ ..
    | refine keep_foldl ?_ _ _ fun t x ht => keep_writeMem ht ..
    | refine keep_foldlOn CvtAcc.s ?_ _ _ fun b r hb => ?_
    | refine keep_ite (fun _ => ?_) fun _ => ?_
  all_goals
    rename_i b r hb
    split
    · exact hb
    · exact keep_inc (keep_inc (keep_ite (fun _ => keep_writeMem (keep_writeMem hb ..) ..) fun _ =>
        keep_ite (fun _ => keep_writeMem (keep_writeMem hb ..) ..) fun _ => keep_writeMem hb ..) ..) ..

@[simp] theorem keep_runVecOp {z0 s : State} (hk : Keep z0 s) (h : Nat) (w : WorkEnv) (d : List Byte) :
    Keep z0 (State.runVecOp s h w d) := by
  simp (maxDischargeDepth := 60) +contextual [State.runVecOp, hk]

@[simp] theorem keep_runDropout {z0 s : State} (hk : Keep z0 s) (h : Nat) (w : WorkEnv) (d : List Byte) :
    Keep z0 (State.runDropout s h w d) := by
  simp (maxDischargeDepth := 60) +contextual [State.runDropout, hk]

@[simp] theorem keep_runVxop {z0 s : State} (hk : Keep z0 s) (h : Nat) (w : WorkEnv) (d : List Byte) :
    Keep z0 (State.runVxop s h w d) := by
  simp (maxDischargeDepth := 60) +contextual [State.runVxop, hk]

end Sys2Proof.Machine
end

