-- ==== Sys2Proof/Laws/KeepControl.lean ====
section
/-! SUPPORT. What the operations and commands of Machine/Control.lean keep. -/

namespace Sys2Proof.Machine

@[simp] theorem keep_sensor {z0 s : State} (hk : Keep z0 s) (e : SensorEvent) :
    Keep z0 (State.sensor s e) := by
  unfold State.sensor
  have h1 : Keep z0 { (if s.sensorQ.length ≥ 32 then
      { s.inc .mgt F.MGT_EVT_DROPPED_COUNT 1 with
        sensorQ := (s.inc .mgt F.MGT_EVT_DROPPED_COUNT 1).sensorQ.drop 1
        mgt := { (s.inc .mgt F.MGT_EVT_DROPPED_COUNT 1).mgt with
          evtId := (s.inc .mgt F.MGT_EVT_DROPPED_COUNT 1).mgt.evtId % 0xFFFE + 1 } }
    else s) with sensorQ := (if s.sensorQ.length ≥ 32 then
      { s.inc .mgt F.MGT_EVT_DROPPED_COUNT 1 with
        sensorQ := (s.inc .mgt F.MGT_EVT_DROPPED_COUNT 1).sensorQ.drop 1
        mgt := { (s.inc .mgt F.MGT_EVT_DROPPED_COUNT 1).mgt with
          evtId := (s.inc .mgt F.MGT_EVT_DROPPED_COUNT 1).mgt.evtId % 0xFFFE + 1 } }
    else s).sensorQ ++ [e] } := by
    split
    · refine keep_sensorQ (keep_mgt (keep_inc hk .mgt F.MGT_EVT_DROPPED_COUNT 1)
        { (s.inc .mgt F.MGT_EVT_DROPPED_COUNT 1).mgt with
          evtId := (s.inc .mgt F.MGT_EVT_DROPPED_COUNT 1).mgt.evtId % 0xFFFE + 1 } id) _ fun h => ?_
      simp only [List.length_append, List.length_drop, List.length_singleton] at h ⊢
      omega
    · refine keep_sensorQ hk _ fun h => ?_
      simp only [List.length_append, List.length_singleton]
      omega
  exact keep_ite (fun _ => keep_emit (keep_p (keep_p h1 ..) ..) _) fun _ => keep_p (keep_p h1 ..) ..

@[simp] theorem keep_sensorState {z0 s : State} (hk : Keep z0 s) (id : Nat) (offset : Nat) (old : Nat) (new : Nat) :
    Keep z0 (State.sensorState s id offset old new) := by
  simp (maxDischargeDepth := 60) +contextual [State.sensorState, hk]

@[simp] theorem keep_unitErr {z0 s : State} (hk : Keep z0 s) (b : Blk) (inst : Nat) (cls : Nat) (code : Nat) (slot : Nat) :
    Keep z0 (State.unitErr s b inst cls code slot) := by
  simp (maxDischargeDepth := 60) +contextual [State.unitErr, hk]

@[simp] theorem keep_bobSync {z0 s : State} (hk : Keep z0 s) (die : Nat) (n : Nat) :
    Keep z0 (State.bobSync s die n) := by
  simp (maxDischargeDepth := 60) +contextual [State.bobSync, hk]

@[simp] theorem keep_bobSyncAll {z0 s : State} (hk : Keep z0 s)  :
    Keep z0 (State.bobSyncAll s) := by
  simp (maxDischargeDepth := 60) +contextual [State.bobSyncAll, hk]

@[simp] theorem keep_ctrAdd {z0 s : State} (hk : Keep z0 s) (die : Nat) (k : Nat) (n : Nat) (amount : Nat) :
    Keep z0 (State.ctrAdd s die k n amount) := by
  simp (maxDischargeDepth := 60) +contextual [State.ctrAdd, hk]

@[simp] theorem keep_count {z0 s : State} (hk : Keep z0 s) (die : Nat) (k : Nat) (ev : Nat) (amount : Nat) :
    Keep z0 (State.count s die k ev amount) := by
  simp (maxDischargeDepth := 60) +contextual [State.count, hk]

@[simp] theorem keep_arrFreezes {z0 s : State} (hk : Keep z0 s) (a : Nat) :
    Keep z0 (State.arrFreezes s a) := by
  simp (maxDischargeDepth := 60) +contextual [State.arrFreezes, State.forN, hk]

@[simp] theorem keep_stopArrays {z0 s : State} (hk : Keep z0 s)  :
    Keep z0 (State.stopArrays s) := by
  simp (maxDischargeDepth := 60) +contextual [State.stopArrays, hk]

@[simp] theorem keep_stopVectors {z0 s : State} (hk : Keep z0 s)  :
    Keep z0 (State.stopVectors s) := by
  simp (maxDischargeDepth := 60) +contextual [State.stopVectors, hk]

@[simp] theorem keep_stopXpbs {z0 s : State} (hk : Keep z0 s)  :
    Keep z0 (State.stopXpbs s) := by
  unfold State.stopXpbs
  refine keep_forN hk 8 _ fun k t ht => ?_
  dsimp only
  split
  · simp [ht]
  · simp (maxDischargeDepth := 60) [ht]

@[simp] theorem keep_stopBobbins {z0 s : State} (hk : Keep z0 s)  :
    Keep z0 (State.stopBobbins s) := by
  simp (maxDischargeDepth := 60) +contextual [State.stopBobbins, hk]

@[simp] theorem keep_redIdle {z0 s : State} (hk : Keep z0 s) (k : Nat) :
    Keep z0 (State.redIdle s k) := by
  simp (maxDischargeDepth := 60) +contextual [State.redIdle, State.forN, hk]

@[simp] theorem keep_stopReduction {z0 s : State} (hk : Keep z0 s)  :
    Keep z0 (State.stopReduction s) := by
  simp (maxDischargeDepth := 60) +contextual [State.stopReduction, hk]

@[simp] theorem keep_stopUpdate {z0 s : State} (hk : Keep z0 s)  :
    Keep z0 (State.stopUpdate s) := by
  simp (maxDischargeDepth := 60) +contextual [State.stopUpdate, hk]

@[simp] theorem keep_stopUnits {z0 s : State} (hk : Keep z0 s)  :
    Keep z0 (State.stopUnits s) := by
  simp (maxDischargeDepth := 60) +contextual [State.stopUnits, hk]

@[simp] theorem keep_clearEmpty {z0 s : State} (hk : Keep z0 s)  :
    Keep z0 (State.clearEmpty s) := by
  simp (maxDischargeDepth := 60) +contextual [State.clearEmpty, hk]

@[simp] theorem keep_voidRun {z0 s : State} (hk : Keep z0 s) (cause : Nat) (host : Bool) :
    Keep z0 (State.voidRun s cause host) := by
  unfold State.voidRun
  dsimp only
  split
  all_goals simp (maxDischargeDepth := 60) +contextual [hk]

@[simp] theorem keep_leaveStep {z0 s : State} (hk : Keep z0 s) (verdict : Nat) :
    Keep z0 (State.leaveStep s verdict) := by
  unfold State.leaveStep
  dsimp only
  split
  all_goals simp (maxDischargeDepth := 60) +contextual [hk]

@[simp] theorem keep_endRun {z0 s : State} (hk : Keep z0 s)  :
    Keep z0 (State.endRun s) := by
  unfold State.endRun
  cases s.run with
  | none => exact hk
  | some r => exact keep_leaveStep hk _

@[simp] theorem keep_cancelQueue {z0 s : State} (hk : Keep z0 s)  :
    Keep z0 (State.cancelQueue s) := by
  unfold State.cancelQueue
  have h1 := keep_queue hk [] (by simp)
  simp (maxDischargeDepth := 60) +contextual [h1]

@[simp] theorem keep_dropAdmission {z0 s : State} (hk : Keep z0 s)  :
    Keep z0 (State.dropAdmission s) := by
  simp (maxDischargeDepth := 60) +contextual [State.dropAdmission, hk]

@[simp] theorem keep_queueOs {z0 s : State} (hk : Keep z0 s) (port : Nat) (bs : List Byte) (times : Nat) :
    Keep z0 (State.queueOs s port bs times) := by
  simp (maxDischargeDepth := 60) +contextual [State.queueOs, hk]

@[simp] theorem keep_sendUp {z0 s : State} (hk : Keep z0 s) (bs : List Byte) :
    Keep z0 (State.sendUp s bs) := by
  simp (maxDischargeDepth := 60) +contextual [State.sendUp, hk]

@[simp] theorem keep_noteFatal {z0 s : State} (hk : Keep z0 s) (origin : Nat) (code : Nat) (detail : Nat) (knot : Nat) (d : Nat) :
    Keep z0 (State.noteFatal s origin code detail knot d) := by
  simp (maxDischargeDepth := 60) +contextual [State.noteFatal, hk]

@[simp] theorem keep_gridFree {z0 s : State} (hk : Keep z0 s)  :
    Keep z0 (State.gridFree s) := by
  simp (maxDischargeDepth := 60) +contextual [State.gridFree, hk]

@[simp] theorem keep_completeRun {z0 s : State} (hk : Keep z0 s) (code : Nat) :
    Keep z0 (State.completeRun s code) := by
  unfold State.completeRun
  dsimp only
  split
  all_goals simp (maxDischargeDepth := 60) +contextual [hk]

@[simp] theorem keep_completeAll {z0 s : State} (hk : Keep z0 s) (code : Nat) :
    Keep z0 (State.completeAll s code) := by
  unfold State.completeAll
  dsimp only
  have h0 := keep_completeRun (keep_foldl hk s.cmds (fun s c => s.complete c code 0) fun t x h => keep_complete h x code 0) code
  generalize (s.cmds.foldl (fun s c => s.complete c code 0) s).completeRun code = x at h0
  have h1 := keep_queue h0 [] (by simp)
  have h2 : Keep z0 { x with queue := [], grid := { x.grid with leaving := false } } := keep_with h1 ..
  exact keep_foldl (keep_p h2 ..) _ _ fun t x h => keep_completeStep h ..

@[simp] theorem keep_fatal {z0 s : State} (hk : Keep z0 s) (die : Nat) (code : Nat) (detail : Nat) :
    Keep z0 (State.fatal s die code detail) := by
  simp (maxDischargeDepth := 60) +contextual [State.fatal, hk]

@[simp] theorem keep_seeVoid {z0 s : State} (hk : Keep z0 s) (n : Nat) :
    Keep z0 (State.seeVoid s n) := by
  unfold State.seeVoid
  dsimp only
  repeat' (first | split | (simp only []; split))
  all_goals simp_all (maxDischargeDepth := 60)

@[simp] theorem keep_rootVoid {z0 s : State} (hk : Keep z0 s) (stepEnd : Nat) :
    Keep z0 (State.rootVoid s stepEnd) := by
  simp (maxDischargeDepth := 60) +contextual [State.rootVoid, hk]

@[simp] theorem keep_rootSnag {z0 s : State} (hk : Keep z0 s) (x : Snag) :
    Keep z0 (State.rootSnag s x) := by
  simp (maxDischargeDepth := 60) +contextual [State.rootSnag, hk]

@[simp] theorem keep_raiseSnag {z0 s : State} (hk : Keep z0 s) (die : Nat) (x : Snag) (void : Bool) :
    Keep z0 (State.raiseSnag s die x void) := by
  simp (maxDischargeDepth := 60) +contextual [State.raiseSnag, hk]

@[simp] theorem keep_raiseVoid {z0 s : State} (hk : Keep z0 s) (die : Nat) (cause : Nat) :
    Keep z0 (State.raiseVoid s die cause) := by
  unfold State.raiseVoid
  dsimp only
  split
  all_goals simp (maxDischargeDepth := 60) +contextual [hk]

@[simp] theorem keep_raiseLate {z0 s : State} (hk : Keep z0 s) (die : Nat) (cause : Nat) (target : Nat) (lateness : Nat) :
    Keep z0 (State.raiseLate s die cause target lateness) := by
  simp (maxDischargeDepth := 60) +contextual [State.raiseLate, hk]

@[simp] theorem keep_endSnag {z0 s : State} (hk : Keep z0 s) (endKnot : Nat) :
    Keep z0 (State.endSnag s endKnot) := by
  simp (maxDischargeDepth := 60) +contextual [State.endSnag, State.forN, hk]

@[simp] theorem keep_withdraw {z0 s : State} (hk : Keep z0 s) (snag : Bool) :
    Keep z0 (State.withdraw s snag) := by
  unfold State.withdraw
  dsimp only
  repeat' split
  all_goals simp (maxDischargeDepth := 60) [*]

@[simp] theorem keep_withdrawAtKnot {z0 s : State} (hk : Keep z0 s)  :
    Keep z0 (State.withdrawAtKnot s) := by
  simp (maxDischargeDepth := 60) +contextual [State.withdrawAtKnot, hk]

@[simp] theorem keep_setLock {z0 s : State} (hk : Keep z0 s) (new : Nat) :
    Keep z0 (State.setLock s new) := by
  simp (maxDischargeDepth := 60) +contextual [State.setLock, hk]

@[simp] theorem keep_suspend {z0 s : State} (hk : Keep z0 s) (cause : Nat) :
    Keep z0 (State.suspend s cause) := by
  simp (maxDischargeDepth := 60) +contextual [State.suspend, hk]

end Sys2Proof.Machine
end

