-- ==== Sys2Proof/Laws/KeepMemory.lean ====
section
/-! SUPPORT. What the operations and commands of Machine/Memory.lean keep. -/

namespace Sys2Proof.Machine

@[simp] theorem keep_writeRuns {z0 s : State} (hk : Keep z0 s) (rs : List (Nat × Nat)) (bs : List Byte) :
    Keep z0 (State.writeRuns s rs bs) := by
  induction rs generalizing s bs with
  | nil => exact hk
  | cons r rs ih => exact ih (keep_writeMem hk ..) _

@[simp] theorem keep_countUe {z0 s : State} (hk : Keep z0 s) (dpa : Nat) (m : Mem) : Keep z0 (s.countUe dpa m) := by
  unfold State.countUe
  split
  · exact keep_count hk ..
  · exact keep_count hk ..
  · exact keep_ite (fun _ => keep_count hk ..) fun _ => keep_count (keep_count hk ..) ..

@[simp] theorem keep_sramCe {z0 s : State} (hk : Keep z0 s) (die : Nat) (off : Nat) :
    Keep z0 (State.sramCe s die off) := by
  simp (maxDischargeDepth := 60) +contextual [State.sramCe, State.forN, hk]

@[simp] theorem keep_memUe {z0 s : State} (hk : Keep z0 s) (dpa : Nat) (src : Nat) (reader : Nat) (kind : UeKind) :
    Keep z0 (State.memUe s dpa src reader kind) := by
  unfold State.memUe
  dsimp only
  repeat' split
  all_goals simp (maxDischargeDepth := 60) [*]

@[simp] theorem keep_xlatFault {z0 s : State} (hk : Keep z0 s) (die : Nat) (va : Nat) (host : Bool) :
    Keep z0 (State.xlatFault s die va host) := by
  simp (maxDischargeDepth := 60) +contextual [State.xlatFault, hk]

@[simp] theorem keep_settleUe {z0 s : State} (hk : Keep z0 s) (kind : UeKind) :
    Keep z0 (State.settleUe s kind) := by
  simp (maxDischargeDepth := 60) +contextual [State.settleUe, hk]

@[simp] theorem keep_unitReads {z0 s : State} (hk : Keep z0 s) (regions : List (Nat × Nat)) (reader : Nat) :
    Keep z0 (State.unitReads s regions reader).1 := by
  unfold State.unitReads
  split
  · exact hk
  · exact keep_memUe hk ..

@[simp] theorem keep_markBad {z0 s : State} (hk : Keep z0 s) (dpa : Nat) :
    Keep z0 (State.markBad s dpa) := by
  simp (maxDischargeDepth := 60) +contextual [State.markBad, hk]

@[simp] theorem keep_copyUe {z0 s : State} (hk : Keep z0 s) (dpa : Nat) :
    Keep z0 (State.copyUe s dpa) := by
  simp (maxDischargeDepth := 60) +contextual [State.copyUe, State.forN, hk]

@[simp] theorem keep_memCe {z0 s : State} (hk : Keep z0 s) (b : Blk) (key : Nat) (inst : Nat) (code : Nat) (dpa : Nat) :
    Keep z0 (State.memCe s b key inst code dpa) := by
  simp (maxDischargeDepth := 60) +contextual [State.memCe, hk]

@[simp] theorem keep_zeroRange {z0 s : State} (hk : Keep z0 s) (a : Nat) (n : Nat) :
    Keep z0 (State.zeroRange s a n) := by
  refine keep_mem hk _ _ _ fun h => ?_
  unfold Memory.wf memWfList at h ⊢
  rw [tableWf_iff] at h ⊢
  exact ⟨h.1.filter _, fun p hp => h.2 p (List.mem_filter.1 hp).1⟩

end Sys2Proof.Machine
end

