-- ==== Sys2Proof/Laws/KeepPmu.lean ====
section
/-! SUPPORT. What the operations and commands of Machine/Pmu.lean keep. -/

namespace Sys2Proof.Machine

@[simp] theorem keep_setTime {z0 s : State} (hk : Keep z0 s) (t : Nat) :
    Keep z0 (State.setTime s t) := by
  simp (maxDischargeDepth := 60) +contextual [State.setTime, State.forN, hk]

@[simp] theorem keep_countCycles {z0 s : State} (hk : Keep z0 s) (t0 : Nat) (t1 : Nat) (c : Nat × Nat × Nat × Nat) :
    Keep z0 (State.countCycles s t0 t1 c) := by
  simp (maxDischargeDepth := 60) +contextual [State.countCycles, State.forN, hk]

@[simp] theorem keep_advanceTo {z0 s : State} (hk : Keep z0 s) (t : Nat) :
    Keep z0 (State.advanceTo s t) := by
  simp (maxDischargeDepth := 60) +contextual [State.advanceTo, hk]

@[simp] theorem keep_setClear {z0 s : State} (hk : Keep z0 s) (die : Nat) (k : Nat) :
    Keep z0 (State.setClear s die k) := by
  simp (maxDischargeDepth := 60) +contextual [State.setClear, hk]

@[simp] theorem keep_windowEnd {z0 s : State} (hk : Keep z0 s) (die : Nat) (k : Nat) :
    Keep z0 (State.windowEnd s die k) := by
  simp (maxDischargeDepth := 60) +contextual [State.windowEnd, hk]

@[simp] theorem keep_knotWindows {z0 s : State} (hk : Keep z0 s) (n : Nat) :
    Keep z0 (State.knotWindows s n) := by
  simp (maxDischargeDepth := 60) +contextual [State.knotWindows, hk]

@[simp] theorem keep_sampleWrite {z0 s : State} (hk : Keep z0 s) (h : Nat) (bytes : List Byte) :
    Keep z0 (State.sampleWrite s h bytes) := by
  simp (maxDischargeDepth := 60) +contextual [State.sampleWrite, hk]

@[simp] theorem keep_slotComplete {z0 s : State} (hk : Keep z0 s) (die : Nat) (i : Nat) (detail : Nat) :
    Keep z0 (State.slotComplete s die i detail) := by
  unfold State.slotComplete
  dsimp only
  repeat' split
  all_goals simp (maxDischargeDepth := 60) [*]

@[simp] theorem keep_slotActual {z0 s : State} (hk : Keep z0 s) (die : Nat) (i : Nat) (t : Nat) :
    Keep z0 (State.slotActual s die i t) := by
  unfold State.slotActual
  cases s.run with
  | none => exact hk
  | some r => exact keep_with hk ..

@[simp] theorem keep_nsWindowEnd {z0 s : State} (hk : Keep z0 s) (die : Nat) (k : Nat) :
    Keep z0 (State.nsWindowEnd s die k) := by
  simp (maxDischargeDepth := 60) +contextual [State.nsWindowEnd, State.forN, hk]

@[simp] theorem keep_sampleSelect {z0 s : State} (hk : Keep z0 s) (h : Nat) (index : Nat) :
    Keep z0 (State.sampleSelect s h index) := by
  simp (maxDischargeDepth := 60) +contextual [State.sampleSelect, hk]

@[simp] theorem keep_sampleTail {z0 s : State} (hk : Keep z0 s) (h : Nat) (index : Nat) :
    Keep z0 (State.sampleTail s h index) := by
  simp (maxDischargeDepth := 60) +contextual [State.sampleTail, hk]

theorem keep_execPmuSetClear {z0 s : State} (hk : Keep z0 s) (die : Die) (set : Fin 17) :
    Kept z0 (execPmuSetClear die set s) := by
  simp (maxDischargeDepth := 60) +contextual [execPmuSetClear, hk]

theorem keep_execPmuWindowEnd {z0 s : State} (hk : Keep z0 s) (die : Die) (set : Fin 17) :
    Kept z0 (execPmuWindowEnd die set s) := by
  simp (maxDischargeDepth := 60) +contextual [execPmuWindowEnd, hk]

theorem keep_execPmuCounterWrap {z0 s : State} (hk : Keep z0 s) (die : Die) (set : Fin 17) :
    Kept z0 (execPmuCounterWrap die set s) := by
  simp (maxDischargeDepth := 60) +contextual [execPmuCounterWrap, hk]

theorem keep_execPmuSampleSelect {z0 s : State} (hk : Keep z0 s) (hoop : Hoop) (index : BitVec 12) :
    Kept z0 (execPmuSampleSelect hoop index s) := by
  simp (maxDischargeDepth := 60) +contextual [execPmuSampleSelect, hk]

theorem keep_execPmuSampleTailWrite {z0 s : State} (hk : Keep z0 s) (hoop : Hoop) (index : BitVec 12) :
    Kept z0 (execPmuSampleTailWrite hoop index s) := by
  simp (maxDischargeDepth := 60) +contextual [execPmuSampleTailWrite, hk]

end Sys2Proof.Machine
end

