-- ==== Sys2Proof/Laws/KeepBobbins.lean ====
section
/-! SUPPORT. What the operations and commands of Machine/Bobbins.lean keep. -/

namespace Sys2Proof.Machine

@[simp] theorem keep_setArm {z0 s : State} (hk : Keep z0 s) (a : Arm) :
    Keep z0 (State.setArm s a) := by
  simp (maxDischargeDepth := 60) +contextual [State.setArm, hk]

@[simp] theorem keep_traffic {z0 s : State} (hk : Keep z0 s) (runs : List (Nat × Nat)) (write : Bool) :
    Keep z0 (State.traffic s runs write) := by
  unfold State.traffic
  refine keep_foldl hk _ _ fun t r ht => ?_
  split
  · exact keep_forN ht _ _ fun i u hu => keep_count hu ..
  · exact keep_count ht ..
  · exact keep_ite (fun _ => keep_count ht ..) fun _ => ht
  · exact ht

@[simp] theorem keep_beatsMoved {z0 s : State} (hk : Keep z0 s) (a : Arm) (n : Nat) :
    Keep z0 (State.beatsMoved s a n) := by
  simp (maxDischargeDepth := 60) +contextual [State.beatsMoved, hk]

@[simp] theorem keep_landPart {z0 s : State} (hk : Keep z0 s) (a : Arm) (j0 : Nat) (j1 : Nat) :
    Keep z0 (State.landPart s a j0 j1) := by
  unfold State.landPart
  dsimp only
  refine keep_ite (fun _ => hk) fun _ => ?_
  split
  · exact keep_count (keep_count (keep_traffic (keep_traffic (keep_writeRuns hk ..) ..) ..) ..) ..
  · exact hk

@[simp] theorem keep_landRows {z0 s : State} (hk : Keep z0 s) (a : Arm) (n j j1 : Nat) :
    Keep z0 (State.landRows s a n j j1).1 := by
  induction n generalizing s j with
  | zero => exact hk
  | succ n ih =>
    simp only [State.landRows]
    split
    · exact hk
    · split
      · exact ih (keep_landPart hk ..) _
      · split
        · exact hk
        · exact keep_ite (fun _ => keep_landPart hk ..) fun _ => hk

@[simp] theorem keep_mcastRow {z0 s : State} (hk : Keep z0 s) (a : Arm) (die : Nat) (r : Nat) :
    Keep z0 (State.mcastRow s a die r).1 := by
  unfold State.mcastRow
  dsimp only
  repeat' split
  all_goals simp (maxDischargeDepth := 60) [*]

@[simp] theorem keep_mcastTile {z0 s : State} (hk : Keep z0 s) (a : Arm) (t : Nat) :
    Keep z0 (State.mcastTile s a t).1 := by
  unfold State.mcastTile
  refine keep_foldlOn Prod.fst (b := (s, none)) hk _ _ fun q x hq => ?_
  split
  · exact hq
  · exact keep_mcastRow hq ..

@[simp] theorem keep_landTo {z0 s : State} (hk : Keep z0 s) (a : Arm) (j1 : Nat) :
    Keep z0 (State.landTo s a j1).1 := by
  unfold State.landTo
  have h1 := keep_landRows hk a (descRows a.desc + 1) a.beats j1
  generalize s.landRows a (descRows a.desc + 1) a.beats j1 = x at h1
  obtain ⟨u, j, f⟩ := x
  dsimp only
  have h2 := keep_setArm (keep_beatsMoved h1 a (u.beatsOf a a.beats j)) { a with beats := j }
  split
  · exact h2
  · refine keep_foldlOn Prod.fst (b := (_, none)) h2 _ _ fun q x hq => ?_
    split
    · exact hq
    · exact keep_mcastTile hq ..

@[simp] theorem keep_bobErr {z0 s : State} (hk : Keep z0 s) (a : Arm) (code : Nat) :
    Keep z0 (State.bobErr s a code) := by
  simp (maxDischargeDepth := 60) +contextual [State.bobErr, hk]

@[simp] theorem keep_hostArmEnd {z0 s : State} (hk : Keep z0 s) (a : Arm) (aborted : Bool) :
    Keep z0 (State.hostArmEnd s a aborted) := by
  simp (maxDischargeDepth := 60) +contextual [State.hostArmEnd, hk]

@[simp] theorem keep_faultStop {z0 s : State} (hk : Keep z0 s) (a : Arm) (f : FaultAt) :
    Keep z0 (State.faultStop s a f) := by
  simp (maxDischargeDepth := 60) +contextual [State.faultStop, hk]

@[simp] theorem keep_armLive {z0 s : State} (hk : Keep z0 s) (a : Arm) :
    Keep z0 (State.armLive s a) := by
  simp (maxDischargeDepth := 60) +contextual [State.armLive, hk]

@[simp] theorem keep_arm {z0 s : State} (hk : Keep z0 s) (x : Arm) :
    Keep z0 (State.arm s x) := by
  simp (maxDischargeDepth := 60) +contextual [State.arm, hk]

@[simp] theorem keep_pendingArm {z0 s : State} (hk : Keep z0 s) (die : Nat) (n : Nat) :
    Keep z0 (State.pendingArm s die n) := by
  unfold State.pendingArm
  dsimp only
  split
  all_goals simp (maxDischargeDepth := 60) +contextual [hk]

@[simp] theorem keep_queueCtl {z0 s : State} (hk : Keep z0 s) (port : Nat) (m : CtlMsg) :
    Keep z0 (State.queueCtl s port m) := by
  simp (maxDischargeDepth := 60) +contextual [State.queueCtl, hk]

@[simp] theorem keep_releaseNotice {z0 s : State} (hk : Keep z0 s) (a : Arm) :
    Keep z0 (State.releaseNotice s a) := by
  unfold State.releaseNotice
  split
  · exact hk
  · exact keep_setArm (keep_queueCtl hk ..) _

@[simp] theorem keep_silenceKnot {z0 s : State} (hk : Keep z0 s)  :
    Keep z0 (State.silenceKnot s) := by
  simp (maxDischargeDepth := 60) +contextual [State.silenceKnot, hk]

@[simp] theorem keep_slotFreed {z0 s : State} (hk : Keep z0 s) (a : Arm) (t : Nat) :
    Keep z0 (State.slotFreed s a t) := by
  unfold State.slotFreed
  dsimp only
  split
  all_goals simp (maxDischargeDepth := 60) +contextual [hk]

@[simp] theorem keep_freeSlot {z0 s : State} (hk : Keep z0 s) (a : Arm) :
    Keep z0 (State.freeSlot s a) := by
  unfold State.freeSlot
  dsimp only
  repeat' split
  all_goals simp (maxDischargeDepth := 60) [*]

@[simp] theorem keep_landAhead {z0 s : State} (hk : Keep z0 s) (a : Arm) (n : Nat) :
    Keep z0 (State.landAhead s a n).1 := by
  unfold State.landAhead
  dsimp only
  repeat' split
  all_goals simp (maxDischargeDepth := 60) [*]

@[simp] theorem keep_statLand {z0 s : State} (hk : Keep z0 s) (a : Arm) (arr : Nat) :
    Keep z0 (State.statLand s a arr) := by
  simp (maxDischargeDepth := 60) +contextual [State.statLand, hk]

@[simp] theorem keep_armEnd {z0 s : State} (hk : Keep z0 s) (a : Arm) :
    Keep z0 (State.armEnd s a) := by
  simp (maxDischargeDepth := 60) +contextual [State.armEnd, hk]

@[simp] theorem keep_transferEnd {z0 s : State} (hk : Keep z0 s) (a : Arm) :
    Keep z0 (State.transferEnd s a) := by
  unfold State.transferEnd
  dsimp only
  repeat' (first | split | (simp only []; split))
  all_goals simp_all (maxDischargeDepth := 60)

@[simp] theorem keep_hostArm {z0 s : State} (hk : Keep z0 s) (die : Nat) :
    Keep z0 (State.hostArm s die) := by
  unfold State.hostArm
  dsimp only
  split
  all_goals simp (maxDischargeDepth := 60) +contextual [hk]

@[simp] theorem keep_bobbinsFirstKnot {z0 s : State} (hk : Keep z0 s)  :
    Keep z0 (State.bobbinsFirstKnot s) := by
  simp (maxDischargeDepth := 60) +contextual [State.bobbinsFirstKnot, hk]

@[simp] theorem keep_beatStop {z0 s : State} (hk : Keep z0 s) (a : Arm) (r : Nat) (beat : Nat) (cause : BeatCause) :
    Keep z0 (State.beatStop s a r beat cause) := by
  unfold State.beatStop
  dsimp only
  repeat' split
  all_goals simp (maxDischargeDepth := 60) [*]

@[simp] theorem keep_releaseFrom {z0 s : State} (hk : Keep z0 s) (src : Nat) :
    Keep z0 (State.releaseFrom s src) := by
  simp (maxDischargeDepth := 60) +contextual [State.releaseFrom, hk]

theorem keep_execPendingArmEffect {z0 s : State} (hk : Keep z0 s) (die : Die) (bobbin : BobbinId) :
    Kept z0 (execPendingArmEffect die bobbin s) := by
  simp (maxDischargeDepth := 60) +contextual [execPendingArmEffect, hk]

theorem keep_execBufferSlotFree {z0 s : State} (hk : Keep z0 s) (die : Die) (bobbin : BobbinId) (arm : ArmRef) :
    Kept z0 (execBufferSlotFree die bobbin arm s) := by
  unfold execBufferSlotFree
  split
  · exact kept_next.2 hk
  · exact kept_next.2 (keep_settleUe (keep_freeSlot hk _) _)

theorem keep_execTransferComplete {z0 s : State} (hk : Keep z0 s) (die : Die) (bobbin : BobbinId) (arm : ArmRef) :
    Kept z0 (execTransferComplete die bobbin arm s) := by
  unfold execTransferComplete
  dsimp only
  split
  all_goals simp (maxDischargeDepth := 60) +contextual [hk]

theorem keep_execBeatFault {z0 s : State} (hk : Keep z0 s) (die : Die) (bobbin : BobbinId) (arm : ArmRef) (row : BitVec 24) (beat : BitVec 14) (cause : BeatCause) :
    Kept z0 (execBeatFault die bobbin arm row beat cause s) := by
  unfold execBeatFault
  dsimp only
  repeat' split
  all_goals simp (maxDischargeDepth := 60) [*]

theorem keep_execHostArm {z0 s : State} (hk : Keep z0 s) (die : Die) :
    Kept z0 (execHostArm die s) := by
  simp (maxDischargeDepth := 60) +contextual [execHostArm, hk]

end Sys2Proof.Machine
end

