-- ==== Sys2Proof/Laws/KeepLinks.lean ====
section
/-! SUPPORT. What the operations and commands of Machine/Links.lean keep. -/

namespace Sys2Proof.Machine

@[simp] theorem keep_portMod {z0 s : State} (hk : Keep z0 s) (p : Nat) (f : PortUnit → PortUnit) :
    Keep z0 (State.portMod s p f) := by
  simp (maxDischargeDepth := 60) +contextual [State.portMod, hk]

@[simp] theorem keep_sendJoinReport {z0 s : State} (hk : Keep z0 s)  :
    Keep z0 (State.sendJoinReport s) := by
  simp (maxDischargeDepth := 60) +contextual [State.sendJoinReport, hk]

@[simp] theorem keep_updatePath {z0 s : State} (hk : Keep z0 s)  :
    Keep z0 (State.updatePath s) := by
  unfold State.updatePath
  dsimp only
  repeat' split
  all_goals simp (maxDischargeDepth := 60) [*]

@[simp] theorem keep_moveBeacon {z0 s : State} (hk : Keep z0 s)  :
    Keep z0 (State.moveBeacon s) := by
  unfold State.moveBeacon
  refine keep_ite (fun _ => hk) fun _ => ?_
  split
  · exact keep_p hk ..
  · exact keep_ite (fun _ => hk) fun _ => keep_updatePath (keep_p (keep_p hk ..) ..)

@[simp] theorem keep_foreignSync {z0 s : State} (hk : Keep z0 s)  :
    Keep z0 (State.foreignSync s) := by
  simp (maxDischargeDepth := 60) +contextual [State.foreignSync, hk]

@[simp] theorem keep_settleTrain {z0 s : State} (hk : Keep z0 s)  :
    Keep z0 (State.settleTrain s) := by
  simp (maxDischargeDepth := 60) +contextual [State.settleTrain, hk]

@[simp] theorem keep_portDown {z0 s : State} (hk : Keep z0 s) (p : Nat) (reason : Nat) (lane : Nat) (state : Nat) :
    Keep z0 (State.portDown s p reason lane state) := by
  unfold State.portDown
  dsimp only
  refine keep_settleTrain ?_
  split
  · refine keep_ite (fun _ => keep_withdraw ?_ _) fun _ => ?_
    all_goals
      refine keep_foreignSync (keep_ite (fun _ => keep_moveBeacon ?_) fun _ => ?_)
      all_goals
        refine keep_event (keep_line (keep_with (keep_portMod ?_ ..) ..) ..) _
        simp (maxDischargeDepth := 60) [hk]
  · refine keep_foreignSync (keep_ite (fun _ => keep_moveBeacon ?_) fun _ => ?_)
    all_goals
      refine keep_event (keep_line (keep_with (keep_portMod ?_ ..) ..) ..) _
      simp (maxDischargeDepth := 60) [hk]

@[simp] theorem keep_portFails {z0 s : State} (hk : Keep z0 s) (p : Nat) (reason : Nat) (lane : Nat) :
    Keep z0 (State.portFails s p reason lane) := by
  simp (maxDischargeDepth := 60) +contextual [State.portFails, hk]

@[simp] theorem keep_trainGo {z0 s : State} (hk : Keep z0 s) (p : Nat) :
    Keep z0 (State.trainGo s p) := by
  simp (maxDischargeDepth := 60) +contextual [State.trainGo, hk]

@[simp] theorem keep_trainStop {z0 s : State} (hk : Keep z0 s) (p : Nat) :
    Keep z0 (State.trainStop s p) := by
  simp (maxDischargeDepth := 60) +contextual [State.trainStop, hk]

@[simp] theorem keep_portReady {z0 s : State} (hk : Keep z0 s) (p : Nat) :
    Keep z0 (State.portReady s p) := by
  simp (maxDischargeDepth := 60) +contextual [State.portReady, hk]

@[simp] theorem keep_nirEffect {z0 s : State} (hk : Keep z0 s) (p : Nat) :
    Keep z0 (State.nirEffect s p) := by
  simp (maxDischargeDepth := 60) +contextual [State.nirEffect, hk]

@[simp] theorem keep_noteOs {z0 s : State} (hk : Keep z0 s) (p : Nat) (os : OrdSet) :
    Keep z0 (State.noteOs s p os) := by
  simp (maxDischargeDepth := 60) +contextual [State.noteOs, State.forN, hk]

@[simp] theorem keep_rxOs {z0 s : State} (hk : Keep z0 s) (p : Nat) (os : OrdSet) :
    Keep z0 (State.rxOs s p os).1 := by
  unfold State.rxOs
  split
  · exact keep_noteOs hk ..
  · exact keep_noteOs (keep_inc hk ..) ..
  · exact keep_noteOs hk ..

@[simp] theorem keep_slotErr {z0 s : State} (hk : Keep z0 s) (p : Nat) (code : Nat) (slot : Nat) (knot : Nat) :
    Keep z0 (State.slotErr s p code slot knot) := by
  simp (maxDischargeDepth := 60) +contextual [State.slotErr, hk]

@[simp] theorem keep_slotNote {z0 s : State} (hk : Keep z0 s) (p : Nat) (code : Nat) (slot : Nat) :
    Keep z0 (State.slotNote s p code slot) := by
  simp (maxDischargeDepth := 60) +contextual [State.slotNote, State.forN, hk]

@[simp] theorem keep_nextCtl {z0 s : State} (hk : Keep z0 s) (p : Nat) :
    Keep z0 (State.nextCtl s p).1 := by
  unfold State.nextCtl
  dsimp only
  repeat' split
  all_goals simp (maxDischargeDepth := 60) [*]

@[simp] theorem keep_rxCtl {z0 s : State} (hk : Keep z0 s) (p : Nat) (flit : CtlFlit) :
    Keep z0 (State.rxCtl s p flit).1 := by
  unfold State.rxCtl
  dsimp only
  repeat' split
  all_goals simp (maxDischargeDepth := 60) [*]

@[simp] theorem keep_rxAck {z0 s : State} (hk : Keep z0 s) (p : Nat) (ack : Nat) (credit : Nat) (nak : Bool) :
    Keep z0 (State.rxAck s p ack credit nak) := by
  simp (maxDischargeDepth := 60) +contextual [State.rxAck, hk]

@[simp] theorem keep_linkStep {z0 s : State} (hk : Keep z0 s) (l : LinkRun) (f : Nat) :
    Keep z0 (State.linkStep s l f) := by
  simp (maxDischargeDepth := 60) +contextual [State.linkStep, State.forN, hk]

@[simp] theorem keep_sentFrame {z0 s : State} (hk : Keep z0 s) (p : Nat) (l : LinkRun) (a : Arm) (f : Nat) :
    Keep z0 (State.sentFrame s p l a f) := by
  unfold State.sentFrame
  dsimp only
  split
  all_goals simp (maxDischargeDepth := 60) +contextual [hk]

@[simp] theorem keep_sendRun {z0 s : State} (hk : Keep z0 s) (p : Nat) (knot : Nat) (j : Nat) :
    Keep z0 (State.sendRun s p knot j).1 := by
  unfold State.sendRun
  dsimp only
  repeat' split
  all_goals simp (maxDischargeDepth := 60) [*]

@[simp] theorem keep_stampOs {z0 s : State} (hk : Keep z0 s) (p : Nat) (bs : List Byte) :
    Keep z0 (State.stampOs s p bs).1 := by
  unfold State.stampOs
  dsimp only
  split
  all_goals simp (maxDischargeDepth := 60) +contextual [hk]

@[simp] theorem keep_emitSets {z0 s : State} (hk : Keep z0 s) (p : Nat) (sets : List (List Byte)) :
    Keep z0 (State.emitSets s p sets) := by
  simp (maxDischargeDepth := 60) +contextual [State.emitSets, State.forN, hk]

@[simp] theorem keep_emitFrame {z0 s : State} (hk : Keep z0 s) (p : Nat) (j : Nat) (ver : Nat) (flits : List (List Byte)) (map : Nat) (sets : List (List Byte)) :
    Keep z0 (State.emitFrame s p j ver flits map sets) := by
  simp (maxDischargeDepth := 60) +contextual [State.emitFrame, State.forN, hk]

@[simp] theorem keep_fillFrame {z0 s : State} (hk : Keep z0 s) (p : Nat) (j : Nat) (ver : Nat) (os : List Byte) :
    Keep z0 (State.fillFrame s p j ver os) := by
  simp (maxDischargeDepth := 60) +contextual [State.fillFrame, State.forN, hk]

@[simp] theorem keep_trainSend {z0 s : State} (hk : Keep z0 s) (p : Nat) :
    Keep z0 (State.trainSend s p) := by
  simp (maxDischargeDepth := 60) +contextual [State.trainSend, State.forN, hk]

theorem keep_txPosition {z0 : State} (p : Nat) (run : Option (LinkRun × Arm × Nat)) (acc : TxAcc) (q : Nat)
    (hk : Keep z0 acc.s) : Keep z0 (txPosition p run acc q).s := by
  have hc : Keep z0 (acc.s.nextCtl p).1 := keep_nextCtl hk p
  unfold txPosition
  dsimp only
  repeat' split
  all_goals first
    | exact hk
    | exact hc

@[simp] theorem keep_transmit {z0 s : State} (hk : Keep z0 s) (p j : Nat) : Keep z0 (State.transmit s p j) := by
  unfold State.transmit
  dsimp only
  split
  · exact keep_ite (fun _ => keep_portMod hk ..) fun _ => keep_fillFrame hk ..
  · refine keep_ite (fun _ => keep_trainSend hk ..) fun _ => keep_ite (fun _ => hk) fun _ =>
      keep_ite (fun _ => keep_fillFrame hk ..) fun _ => keep_ite (fun _ => ?_) fun _ => ?_
    · exact keep_emitFrame (keep_portMod (keep_foldlOn TxAcc.s (b := ⟨s, [], 0, false⟩) hk _ _ fun b x hb =>
        keep_txPosition p none b x hb) ..) ..
    · have h1 := keep_sendRun hk p s.grid.knot j
      have h2 := keep_foldlOn TxAcc.s (b := ⟨(s.sendRun p s.grid.knot j).1, [], 0, false⟩) h1 (List.range 50)
        (txPosition p (s.sendRun p s.grid.knot j).2) fun b x hb => keep_txPosition p _ b x hb
      split
      · exact keep_emitFrame (keep_portMod h2 ..) ..
      · refine keep_ite (fun _ => keep_slotErr ?_ ..) fun _ => ?_
        all_goals exact keep_sentFrame (keep_count (keep_inc (keep_emitFrame (keep_portMod h2 ..) ..) ..) ..) ..

@[simp] theorem keep_landFrame {z0 s : State} (hk : Keep z0 s) (p : Nat) (l : LinkRun) (a : Arm) (f : Nat) (flits : List (List Byte)) :
    Keep z0 (State.landFrame s p l a f flits) := by
  simp (maxDischargeDepth := 60) +contextual [State.landFrame, State.forN, hk]

@[simp] theorem keep_rxFec {z0 s : State} (hk : Keep z0 s) (p : Nat) (f : RxFrame) :
    Keep z0 (State.rxFec s p f) := by
  unfold State.rxFec
  dsimp only
  repeat' (first | split | (simp only []; split))
  all_goals simp_all (maxDischargeDepth := 60)

@[simp] theorem keep_rxBlind {z0 s : State} (hk : Keep z0 s) (p : Nat) (lost : Bool) :
    Keep z0 (State.rxBlind s p lost) := by
  unfold State.rxBlind
  dsimp only
  repeat' split
  all_goals simp (maxDischargeDepth := 60) [*]

@[simp] theorem keep_rxSlot {z0 s : State} (hk : Keep z0 s) (p : Nat) (f : RxFrame) (c : SlotCheck) :
    Keep z0 (State.rxSlot s p f c) := by
  unfold State.rxSlot
  dsimp only
  split
  all_goals simp (maxDischargeDepth := 60) +contextual [hk]

@[simp] theorem keep_receive {z0 s : State} (hk : Keep z0 s) (p : Nat) (f : RxFrame) :
    Keep z0 (State.receive s p f) := by
  unfold State.receive
  dsimp only
  repeat' (first | split | (simp only []; split))
  all_goals simp_all (maxDischargeDepth := 60)

@[simp] theorem keep_faultIn {z0 s : State} (hk : Keep z0 s) (p : Nat) (x : FaultSet) (bs : List Byte) :
    Keep z0 (State.faultIn s p x bs) := by
  unfold State.faultIn
  dsimp only
  refine keep_ite (fun _ => keep_ite (fun _ => keep_with ?_ ..) fun _ => keep_rootVoid (keep_with ?_ ..) _) fun _ =>
    keep_ite (fun _ => ?_) fun _ => keep_sendUp (keep_with ?_ ..) _
  all_goals
    refine keep_ite (fun _ => hk) fun _ => keep_ite (fun _ => keep_moveBeacon ?_) fun _ => ?_
    all_goals
      split
      · refine keep_ite (fun _ => keep_withdraw ?_ _) fun _ => ?_
        all_goals exact keep_event (keep_line (keep_p hk ..) ..) _
      · exact keep_event (keep_line (keep_p hk ..) ..) _

theorem keep_execNirTrainGo {z0 s : State} (hk : Keep z0 s) (port : Port) :
    Kept z0 (execNirTrainGo port s) := by
  simp (maxDischargeDepth := 60) +contextual [execNirTrainGo, hk]

theorem keep_execNirStop {z0 s : State} (hk : Keep z0 s) (port : Port) :
    Kept z0 (execNirStop port s) := by
  simp (maxDischargeDepth := 60) +contextual [execNirStop, hk]

theorem keep_execTrainReceive {z0 s : State} (hk : Keep z0 s) (port : Port) (lane : Fin 8) (os : OrdSet) :
    Kept z0 (execTrainReceive port lane os s) := by
  unfold execTrainReceive
  dsimp only
  repeat' split
  all_goals simp (maxDischargeDepth := 60) [*]

theorem keep_execTrainSignalDetect {z0 s : State} (hk : Keep z0 s) (port : Port) :
    Kept z0 (execTrainSignalDetect port s) := by
  simp (maxDischargeDepth := 60) +contextual [execTrainSignalDetect, hk]

theorem keep_execTrainDetectTimeout {z0 s : State} (hk : Keep z0 s) (port : Port) :
    Kept z0 (execTrainDetectTimeout port s) := by
  simp (maxDischargeDepth := 60) +contextual [execTrainDetectTimeout, hk]

theorem keep_execTrainCapsDone {z0 s : State} (hk : Keep z0 s) (port : Port) :
    Kept z0 (execTrainCapsDone port s) := by
  unfold execTrainCapsDone
  dsimp only
  split
  all_goals simp (maxDischargeDepth := 60) +contextual [hk]

theorem keep_execTrainCapsTimeout {z0 s : State} (hk : Keep z0 s) (port : Port) :
    Kept z0 (execTrainCapsTimeout port s) := by
  simp (maxDischargeDepth := 60) +contextual [execTrainCapsTimeout, hk]

theorem keep_execTrainEqDone {z0 s : State} (hk : Keep z0 s) (port : Port) :
    Kept z0 (execTrainEqDone port s) := by
  simp (maxDischargeDepth := 60) +contextual [execTrainEqDone, hk]

theorem keep_execTrainEqTimeout {z0 s : State} (hk : Keep z0 s) (port : Port) :
    Kept z0 (execTrainEqTimeout port s) := by
  simp (maxDischargeDepth := 60) +contextual [execTrainEqTimeout, hk]

theorem keep_execTrainAlignDone {z0 s : State} (hk : Keep z0 s) (port : Port) (framed : Bool) (skew : BitVec 16) :
    Kept z0 (execTrainAlignDone port framed skew s) := by
  simp (maxDischargeDepth := 60) +contextual [execTrainAlignDone, State.forN, hk]

theorem keep_execTrainAlignTimeout {z0 s : State} (hk : Keep z0 s) (port : Port) :
    Kept z0 (execTrainAlignTimeout port s) := by
  simp (maxDischargeDepth := 60) +contextual [execTrainAlignTimeout, hk]

theorem keep_execTrainDelayDone {z0 s : State} (hk : Keep z0 s) (port : Port) (delay : BitVec 24) :
    Kept z0 (execTrainDelayDone port delay s) := by
  simp (maxDischargeDepth := 60) +contextual [execTrainDelayDone, State.forN, hk]

theorem keep_execLaneLockLoss {z0 s : State} (hk : Keep z0 s) (port : Port) (lane : Fin 8) :
    Kept z0 (execLaneLockLoss port lane s) := by
  simp (maxDischargeDepth := 60) +contextual [execLaneLockLoss, hk]

theorem keep_execDeskewLoss {z0 s : State} (hk : Keep z0 s) (port : Port) :
    Kept z0 (execDeskewLoss port s) := by
  simp (maxDischargeDepth := 60) +contextual [execDeskewLoss, hk]

theorem keep_execFecErrorLimit {z0 s : State} (hk : Keep z0 s) (port : Port) (lane : Option (Fin 8)) :
    Kept z0 (execFecErrorLimit port lane s) := by
  unfold execFecErrorLimit
  cases lane with
  | none => exact kept_next.2 (keep_portFails hk ..)
  | some l => exact kept_next.2 (keep_portFails hk ..)

theorem keep_execPortDownReceive {z0 s : State} (hk : Keep z0 s) (port : Port) (os : OrdSet) :
    Kept z0 (execPortDownReceive port os s) := by
  simp (maxDischargeDepth := 60) +contextual [execPortDownReceive, hk]

theorem keep_execFrameTransmit {z0 s : State} (hk : Keep z0 s) (port : Port) (slot : BitVec 16) :
    Kept z0 (execFrameTransmit port slot s) := by
  simp (maxDischargeDepth := 60) +contextual [execFrameTransmit, hk]

theorem keep_execFrameReceive {z0 s : State} (hk : Keep z0 s) (port : Port) (frame : RxFrame) :
    Kept z0 (execFrameReceive port frame s) := by
  simp (maxDischargeDepth := 60) +contextual [execFrameReceive, hk]

theorem keep_execSlotCheckTimeout {z0 s : State} (hk : Keep z0 s) (port : Port) (slot : BitVec 16) :
    Kept z0 (execSlotCheckTimeout port slot s) := by
  unfold execSlotCheckTimeout
  split
  · exact kept_next.2 hk
  · exact kept_next.2 (keep_slotErr (keep_linkStep hk ..) ..)

theorem keep_execFaultReceive {z0 s : State} (hk : Keep z0 s) (port : Port) (os : OrdSet) :
    Kept z0 (execFaultReceive port os s) := by
  unfold execFaultReceive
  dsimp only
  split
  all_goals simp (maxDischargeDepth := 60) +contextual [hk]

end Sys2Proof.Machine
end

