-- ==== Sys2Proof/Laws/KeepRings.lean ====
section
/-! SUPPORT. What the operations and commands of Machine/Rings.lean keep. -/

namespace Sys2Proof.Machine

@[simp] theorem keep_refuse {z0 s : State} (hk : Keep z0 s) (c : Cmd) (code : Nat) :
    Keep z0 (State.refuse s c code) := by
  simp (maxDischargeDepth := 60) +contextual [State.refuse, hk]

/-- A command begins: its ring moves on and the command waits in `cmds`. -/
theorem keep_beginCmd {z0 s : State} (hk : Keep z0 s) (ring opcode : Nat) (e : Sqe) (x : State × Cmd)
    (hx : State.beginCmd s ring opcode e = some x) : Keep z0 x.1 := by
  unfold State.beginCmd at hx
  split at hx
  · cases hx
  · split at hx
    · cases hx
    · split at hx
      · cases hx
      · cases hx
        exact keep_with (keep_tellAgents (keep_setRing hk ..)) ..

@[simp] theorem keep_putReject {z0 s : State} (hk : Keep z0 s) (r : Rej) :
    Keep z0 (State.putReject s r) := by
  simp (maxDischargeDepth := 60) +contextual [State.putReject, hk]

@[simp] theorem keep_prkRefuse {z0 s : State} (hk : Keep z0 s) (c : Cmd) (r : Rej) :
    Keep z0 (State.prkRefuse s c r) := by
  simp (maxDischargeDepth := 60) +contextual [State.prkRefuse, State.forN, hk]

@[simp] theorem keep_withCmd {z0 s : State} (hk : Keep z0 s) (ring : RingId) (opcode : Nat) (e : Sqe) (sound : Bool)
    (f : Cmd → State → State) (hf : ∀ (c : Cmd) (t : State), Keep z0 t → Keep z0 (f c t)) :
    Keep z0 (State.withCmd s ring opcode e sound f) := by
  unfold State.withCmd
  split
  · exact hk
  · rename_i s' c h
    have h1 := keep_beginCmd hk _ _ _ _ h
    exact keep_ite (fun _ => keep_refuse h1 ..) fun _ => keep_ite (fun _ => keep_ite (fun _ => keep_prkRefuse h1 ..)
      fun _ => keep_refuse h1 ..) fun _ => hf c s' h1

@[simp] theorem keep_setCmd {z0 s : State} (hk : Keep z0 s) (c : Cmd) (c' : Cmd) :
    Keep z0 (State.setCmd s c c') := by
  simp (maxDischargeDepth := 60) +contextual [State.setCmd, hk]

@[simp] theorem keep_completeOp {z0 s : State} (hk : Keep z0 s) (opcode : Nat) (status : Nat) (result : Nat) :
    Keep z0 (State.completeOp s opcode status result) := by
  simp (maxDischargeDepth := 60) +contextual [State.completeOp, hk]

end Sys2Proof.Machine
end

