-- ==== Sys2Proof/Laws/KeepGrid.lean ====
section
/-! SUPPORT. What the operations and commands of Machine/Grid.lean keep. -/

namespace Sys2Proof.Machine

@[simp] theorem keep_stepTime {z0 s : State} (hk : Keep z0 s) (t : Nat) :
    Keep z0 (State.stepTime s t) := by
  simp (maxDischargeDepth := 60) +contextual [State.stepTime, hk]

@[simp] theorem keep_track {z0 s : State} (hk : Keep z0 s) (ref : Nat) (err : Int) :
    Keep z0 (State.track s ref err) := by
  simp (maxDischargeDepth := 60) +contextual [State.track, State.forN, hk]

@[simp] theorem keep_intervalCheck {z0 s : State} (hk : Keep z0 s)  :
    Keep z0 (State.intervalCheck s) := by
  unfold State.intervalCheck
  split
  · exact keep_ite (fun _ => keep_withdrawAtKnot hk) fun _ => hk
  · exact hk

@[simp] theorem keep_takeInterval {z0 s : State} (hk : Keep z0 s) (n : Nat) :
    Keep z0 (State.takeInterval s n) := by
  simp (maxDischargeDepth := 60) +contextual [State.takeInterval, hk]

@[simp] theorem keep_countStretch {z0 s : State} (hk : Keep z0 s) (n : Nat) (q : Nat) :
    Keep z0 (State.countStretch s n q) := by
  simp (maxDischargeDepth := 60) +contextual [State.countStretch, hk]

@[simp] theorem keep_setKnot {z0 s : State} (hk : Keep z0 s) (n : Nat) (t : Nat) (n0 : Nat) (changed : Bool) :
    Keep z0 (State.setKnot s n t n0 changed) := by
  simp (maxDischargeDepth := 60) +contextual [State.setKnot, hk]

@[simp] theorem keep_knotAt {z0 s : State} (hk : Keep z0 s) (n : Nat) (t : Nat) :
    Keep z0 (State.knotAt s n t) := by
  simp (maxDischargeDepth := 60) +contextual [State.knotAt, hk]

@[simp] theorem keep_knotAdvance {z0 s : State} (hk : Keep z0 s)  :
    Keep z0 (State.knotAdvance s) := by
  simp (maxDischargeDepth := 60) +contextual [State.knotAdvance, hk]

@[simp] theorem keep_holdElapsed {z0 s : State} (hk : Keep z0 s)  :
    Keep z0 (State.holdElapsed s) := by
  simp (maxDischargeDepth := 60) +contextual [State.holdElapsed, hk]

@[simp] theorem keep_clearForeign {z0 s : State} (hk : Keep z0 s)  :
    Keep z0 (State.clearForeign s) := by
  simp (maxDischargeDepth := 60) +contextual [State.clearForeign, hk]

@[simp] theorem keep_goFree {z0 s : State} (hk : Keep z0 s) (code : Nat) :
    Keep z0 (State.goFree s code) := by
  simp (maxDischargeDepth := 60) +contextual [State.goFree, hk]

@[simp] theorem keep_leaveEffect {z0 s : State} (hk : Keep z0 s) (n : Nat) :
    Keep z0 (State.leaveEffect s n) := by
  simp (maxDischargeDepth := 60) +contextual [State.leaveEffect, hk]

@[simp] theorem keep_reachLock {z0 s : State} (hk : Keep z0 s)  :
    Keep z0 (State.reachLock s) := by
  simp (maxDischargeDepth := 60) +contextual [State.reachLock, hk]

@[simp] theorem keep_becomeRoot {z0 s : State} (hk : Keep z0 s)  :
    Keep z0 (State.becomeRoot s) := by
  simp (maxDischargeDepth := 60) +contextual [State.becomeRoot, hk]

@[simp] theorem keep_adopt {z0 s : State} (hk : Keep z0 s) (port : Nat) (b : Beacon) :
    Keep z0 (State.adopt s port b) := by
  simp (maxDischargeDepth := 60) +contextual [State.adopt, hk]

@[simp] theorem keep_takeKnots {z0 s : State} (hk : Keep z0 s) (b : Beacon) (whole : Bool) :
    Keep z0 (State.takeKnots s b whole) := by
  unfold State.takeKnots
  dsimp only
  have h1 : ∀ g, Keep z0 { s.p .grid F.GRID_STRETCH_TOTAL_QUANTA b.stretch with grid := g } := fun g => keep_with (keep_p hk ..) ..
  refine keep_ite (fun _ => keep_with (h1 _) ..) fun _ => ?_
  split
  · exact h1 _
  · exact keep_intervalCheck (keep_p (keep_with (h1 _) ..) ..)

@[simp] theorem keep_showDepth {z0 s : State} (hk : Keep z0 s)  :
    Keep z0 (State.showDepth s) := by
  simp (maxDischargeDepth := 60) +contextual [State.showDepth, State.forN, hk]

@[simp] theorem keep_discipline {z0 s : State} (hk : Keep z0 s) (b : Beacon) (ref : Nat) (ofs : Int) :
    Keep z0 (State.discipline s b ref ofs) := by
  unfold State.discipline
  dsimp only
  split
  all_goals simp (maxDischargeDepth := 60) +contextual [hk]

@[simp] theorem keep_dropBeacon {z0 s : State} (hk : Keep z0 s) (port : Nat) :
    Keep z0 (State.dropBeacon s port) := by
  unfold State.dropBeacon
  dsimp only
  split
  all_goals simp (maxDischargeDepth := 60) +contextual [hk]

@[simp] theorem keep_heardForeign {z0 s : State} (hk : Keep z0 s) (port : Nat) :
    Keep z0 (State.heardForeign s port) := by
  simp (maxDischargeDepth := 60) +contextual [State.heardForeign, State.forN, hk]

@[simp] theorem keep_heardOwn {z0 s : State} (hk : Keep z0 s) (port : Nat) :
    Keep z0 (State.heardOwn s port) := by
  simp (maxDischargeDepth := 60) +contextual [State.heardOwn, State.forN, hk]

@[simp] theorem keep_heedVoid {z0 s : State} (hk : Keep z0 s) (b : Beacon) :
    Keep z0 (State.heedVoid s b) := by
  unfold State.heedVoid
  dsimp only
  refine keep_ite (fun _ => ?_) fun _ => hk
  have h1 := keep_seeVoid hk ((b.nextKnot + 2 ^ 48 - 1) % 2 ^ 48)
  generalize s.seeVoid _ = x at h1 ⊢
  exact keep_with h1 ..

@[simp] theorem keep_ownBeacon {z0 s : State} (hk : Keep z0 s) (port : Nat) (b : Beacon) :
    Keep z0 (State.ownBeacon s port b) := by
  unfold State.ownBeacon
  dsimp only
  have h0 := keep_heardOwn hk port
  generalize s.heardOwn port = x at h0 ⊢
  refine keep_ite (fun _ => keep_dropBeacon (keep_ite (fun _ => keep_p h0 ..) fun _ => h0) _) fun _ => ?_
  have h1 : Keep z0 { x with grid := { x.grid with beacons := tput ⟨0, 0, 32, 0⟩ x.grid.beacons port ⟨b.rootId, b.epoch, b.hop, x.grid.time⟩ } } :=
    keep_with h0 ..
  have h2 := keep_heedVoid (keep_moveBeacon h1) b
  generalize State.heedVoid _ _ = w at h2 ⊢
  refine keep_ite (fun _ => h2) fun _ => ?_
  have h4 := fun v => keep_p (keep_p h2 .grid F.GRID_OFFSET_OFFSET v) .grid F.GRID_STATUS_HOP_COUNT (b.hop + 1)
  have h5 := h4 (unsigned 16 (max (-32768) (min 32767 (signed 64 (((b.sendTime + w.g (.nir port) F.NIR_DELAY_DELAY * 256) % 2 ^ 64 + 2 ^ 64 - w.grid.time) % 2 ^ 64) / 256))))
  generalize State.p (State.p w _ _ _) _ _ _ = z at h5 ⊢
  have h6 : Keep z0 { z with grid := { z.grid with backupId := b.backupId } } := keep_with h5 ..
  exact keep_discipline h6 ..

@[simp] theorem keep_beaconIn {z0 s : State} (hk : Keep z0 s) (port : Nat) (b : Beacon) :
    Keep z0 (State.beaconIn s port b) := by
  simp (maxDischargeDepth := 60) +contextual [State.beaconIn, hk]

@[simp] theorem keep_raiseLates {z0 s : State} (hk : Keep z0 s) (cause : Nat) (bad : List (Projection × Nat × Nat)) :
    Keep z0 (State.raiseLates s cause bad) := by
  unfold State.raiseLates
  split
  · exact hk
  · exact keep_raiseLate hk ..

@[simp] theorem keep_project {z0 s : State} (hk : Keep z0 s) (late : List Projection) :
    Keep z0 (State.project s late) := by
  unfold State.project
  dsimp only
  repeat' split
  all_goals simp (maxDischargeDepth := 60) [*]

@[simp] theorem keep_joinIn {z0 s : State} (hk : Keep z0 s) (m : CtlMsg) :
    Keep z0 (State.joinIn s m) := by
  unfold State.joinIn
  dsimp only
  split
  all_goals simp (maxDischargeDepth := 60) +contextual [hk]

@[simp] theorem keep_ctlIn {z0 s : State} (hk : Keep z0 s) (p : Nat) (flit : CtlFlit) :
    Keep z0 (State.ctlIn s p flit) := by
  unfold State.ctlIn
  refine keep_ite (fun _ => hk) fun _ => ?_
  have h1 := keep_rxCtl hk p flit
  split
  · rename_i h; rw [h] at h1; exact h1
  · rename_i h; rw [h] at h1; exact keep_ite (fun _ => keep_releaseFrom h1 _) fun _ => h1
  · rename_i h; rw [h] at h1; exact keep_joinIn h1 _
  · rename_i h; rw [h] at h1; exact keep_portMod h1 ..

@[simp] theorem keep_snagIn {z0 s : State} (hk : Keep z0 s) (p : Nat) (os : OrdSet) :
    Keep z0 (State.snagIn s p os) := by
  unfold State.snagIn
  dsimp only
  repeat' split
  all_goals simp (maxDischargeDepth := 60) [*]

@[simp] theorem keep_syncLost {z0 s : State} (hk : Keep z0 s)  :
    Keep z0 (State.syncLost s) := by
  simp (maxDischargeDepth := 60) +contextual [State.syncLost, State.forN, hk]

@[simp] theorem keep_syncStray {z0 s : State} (hk : Keep z0 s)  :
    Keep z0 (State.syncStray s) := by
  simp (maxDischargeDepth := 60) +contextual [State.syncStray, State.forN, hk]

@[simp] theorem keep_syncEdge {z0 s : State} (hk : Keep z0 s) (t : Nat) :
    Keep z0 (State.syncEdge s t) := by
  unfold State.syncEdge
  dsimp only
  repeat' split
  all_goals simp (maxDischargeDepth := 60) [*]

@[simp] theorem keep_gridJoin {z0 s : State} (hk : Keep z0 s) (c : Cmd) (e : Sqe) :
    Keep z0 (State.gridJoin s c e) := by
  simp (maxDischargeDepth := 60) +contextual [State.gridJoin, hk]

theorem keep_execGridJoin {z0 s : State} (hk : Keep z0 s) (ring : RingId) (e : Sqe) :
    Kept z0 (execGridJoin ring e s) := by
  simp (maxDischargeDepth := 60) +contextual [execGridJoin, hk]

theorem keep_execGridLeave {z0 s : State} (hk : Keep z0 s) (ring : RingId) (e : Sqe) :
    Kept z0 (execGridLeave ring e s) := by
  simp (maxDischargeDepth := 60) +contextual [execGridLeave, hk]

theorem keep_execBeaconListenTimeout {z0 s : State} (hk : Keep z0 s)  :
    Kept z0 (execBeaconListenTimeout s) := by
  simp (maxDischargeDepth := 60) +contextual [execBeaconListenTimeout, hk]

theorem keep_execBeaconSend {z0 s : State} (hk : Keep z0 s)  :
    Kept z0 (execBeaconSend s) := by
  simp (maxDischargeDepth := 60) +contextual [execBeaconSend, hk]

theorem keep_execBeaconReceive {z0 s : State} (hk : Keep z0 s) (port : Port) (os : OrdSet) (rx : BitVec 64) :
    Kept z0 (execBeaconReceive port os rx s) := by
  unfold execBeaconReceive
  dsimp only
  split
  all_goals simp (maxDischargeDepth := 60) +contextual [hk]

theorem keep_execLockTimeout {z0 s : State} (hk : Keep z0 s)  :
    Kept z0 (execLockTimeout s) := by
  simp (maxDischargeDepth := 60) +contextual [execLockTimeout, hk]

theorem keep_execBeaconLoss {z0 s : State} (hk : Keep z0 s)  :
    Kept z0 (execBeaconLoss s) := by
  simp (maxDischargeDepth := 60) +contextual [execBeaconLoss, hk]

theorem keep_execHoldoverExpiry {z0 s : State} (hk : Keep z0 s)  :
    Kept z0 (execHoldoverExpiry s) := by
  simp (maxDischargeDepth := 60) +contextual [execHoldoverExpiry, hk]

theorem keep_execBackupRootTakeover {z0 s : State} (hk : Keep z0 s)  :
    Kept z0 (execBackupRootTakeover s) := by
  simp (maxDischargeDepth := 60) +contextual [execBackupRootTakeover, hk]

theorem keep_execDelayReqSend {z0 s : State} (hk : Keep z0 s) (port : Port) :
    Kept z0 (execDelayReqSend port s) := by
  simp (maxDischargeDepth := 60) +contextual [execDelayReqSend, hk]

theorem keep_execDelayReqReceive {z0 s : State} (hk : Keep z0 s) (port : Port) (os : OrdSet) (rx : BitVec 64) :
    Kept z0 (execDelayReqReceive port os rx s) := by
  unfold execDelayReqReceive
  dsimp only
  split
  all_goals simp (maxDischargeDepth := 60) +contextual [hk]

theorem keep_execDelayRespReceive {z0 s : State} (hk : Keep z0 s) (port : Port) (os : OrdSet) (rx : BitVec 64) :
    Kept z0 (execDelayRespReceive port os rx s) := by
  unfold execDelayRespReceive
  dsimp only
  have h1 := keep_rxOs (keep_advanceTo hk rx.toNat) port.val os
  split
  · refine kept_ite (fun _ => kept_next.2 h1) fun _ => kept_next.2 ?_
    refine keep_ite (fun _ => keep_updatePath (keep_ite (fun _ => keep_with ?_ ..) fun _ => ?_)) fun _ =>
      keep_ite (fun _ => keep_with ?_ ..) fun _ => ?_
    all_goals exact keep_ite (fun _ => keep_portMod h1 ..) fun _ => keep_p (keep_portMod h1 ..) ..
  · exact kept_next.2 h1

theorem keep_execJoinReport {z0 s : State} (hk : Keep z0 s) (port : Port) (flit : CtlFlit) :
    Kept z0 (execJoinReport port flit s) := by
  simp (maxDischargeDepth := 60) +contextual [execJoinReport, hk]

theorem keep_execControlFlitReceive {z0 s : State} (hk : Keep z0 s) (port : Port) (flit : CtlFlit) :
    Kept z0 (execControlFlitReceive port flit s) := by
  simp (maxDischargeDepth := 60) +contextual [execControlFlitReceive, hk]

theorem keep_execReleaseReceive {z0 s : State} (hk : Keep z0 s) (port : Port) (flit : CtlFlit) :
    Kept z0 (execReleaseReceive port flit s) := by
  simp (maxDischargeDepth := 60) +contextual [execReleaseReceive, hk]

theorem keep_execGridsyncEdge {z0 s : State} (hk : Keep z0 s) (at_ : BitVec 64) :
    Kept z0 (execGridsyncEdge at_ s) := by
  simp (maxDischargeDepth := 60) +contextual [execGridsyncEdge, hk]

theorem keep_execGridsyncEdgeMissing {z0 s : State} (hk : Keep z0 s)  :
    Kept z0 (execGridsyncEdgeMissing s) := by
  simp (maxDischargeDepth := 60) +contextual [execGridsyncEdgeMissing, hk]

theorem keep_execSnagForward {z0 s : State} (hk : Keep z0 s) (port : Port) (os : OrdSet) :
    Kept z0 (execSnagForward port os s) := by
  simp (maxDischargeDepth := 60) +contextual [execSnagForward, hk]

theorem keep_execSnagRootReceive {z0 s : State} (hk : Keep z0 s) (port : Port) (os : OrdSet) :
    Kept z0 (execSnagRootReceive port os s) := by
  simp (maxDischargeDepth := 60) +contextual [execSnagRootReceive, hk]

theorem keep_execSnagReprojection {z0 s : State} (hk : Keep z0 s) (late : List Projection) :
    Kept z0 (execSnagReprojection late s) := by
  simp (maxDischargeDepth := 60) +contextual [execSnagReprojection, hk]

end Sys2Proof.Machine
end

