-- ==== Sys2Proof/Laws/KeepArrays.lean ====
section
/-! SUPPORT. What the operations and commands of Machine/Arrays.lean keep. -/

namespace Sys2Proof.Machine

@[simp] theorem keep_setXpb {z0 s : State} (hk : Keep z0 s) (k : Nat) (u : XpbBuf) :
    Keep z0 (State.setXpb s k u) := by
  simp (maxDischargeDepth := 60) +contextual [State.setXpb, hk]

@[simp] theorem keep_xpbSync {z0 s : State} (hk : Keep z0 s) (k : Nat) :
    Keep z0 (State.xpbSync s k) := by
  simp (maxDischargeDepth := 60) +contextual [State.xpbSync, hk]

@[simp] theorem keep_xpbTake {z0 s : State} (hk : Keep z0 s) (k : Nat) :
    Keep z0 (State.xpbTake s k) := by
  simp (maxDischargeDepth := 60) +contextual [State.xpbTake, State.forN, hk]

@[simp] theorem keep_xpbRead {z0 s : State} (hk : Keep z0 s) (k : Nat) (ptr : Nat) :
    Keep z0 (State.xpbRead s k ptr) := by
  simp (maxDischargeDepth := 60) +contextual [State.xpbRead, hk]

@[simp] theorem keep_xpbErr {z0 s : State} (hk : Keep z0 s) (k : Nat) (code : Nat) (slot : Nat) :
    Keep z0 (State.xpbErr s k code slot) := by
  simp (maxDischargeDepth := 60) +contextual [State.xpbErr, hk]

@[simp] theorem keep_xpbStart {z0 s : State} (hk : Keep z0 s) (k : Nat) (slot : Nat) (vx : Nat) :
    Keep z0 (State.xpbStart s k slot vx) := by
  simp (maxDischargeDepth := 60) +contextual [State.xpbStart, hk]

@[simp] theorem keep_xpbDispatch {z0 s : State} (hk : Keep z0 s) (k : Nat) (slot : Nat) (vx : Nat) :
    Keep z0 (State.xpbDispatch s k slot vx) := by
  simp (maxDischargeDepth := 60) +contextual [State.xpbDispatch, hk]

@[simp] theorem keep_xpbLoadEnd {z0 s : State} (hk : Keep z0 s) (k : Nat) :
    Keep z0 (State.xpbLoadEnd s k) := by
  unfold State.xpbLoadEnd
  dsimp only
  split
  all_goals simp (maxDischargeDepth := 60) +contextual [hk]

@[simp] theorem keep_xpbGiveUp {z0 s : State} (hk : Keep z0 s) (k : Nat) :
    Keep z0 (State.xpbGiveUp s k) := by
  unfold State.xpbGiveUp
  dsimp only
  split
  all_goals simp (maxDischargeDepth := 60) +contextual [hk]

@[simp] theorem keep_xpbComplete {z0 s : State} (hk : Keep z0 s) (k : Nat) :
    Keep z0 (State.xpbComplete s k) := by
  unfold State.xpbComplete
  dsimp only
  split
  all_goals simp (maxDischargeDepth := 60) +contextual [hk]

@[simp] theorem keep_xpbStoreBegin {z0 s : State} (hk : Keep z0 s) (k : Nat) (slot : Nat) :
    Keep z0 (State.xpbStoreBegin s k slot).1 := by
  unfold State.xpbStoreBegin
  split
  · exact keep_xpbErr hk ..
  · exact keep_xpbTake hk ..

@[simp] theorem keep_xpbStore {z0 s : State} (hk : Keep z0 s) (k : Nat) (slot : Nat) (p : Pricking) (d : List Byte) :
    Keep z0 (State.xpbStore s k slot p d) := by
  simp (maxDischargeDepth := 60) +contextual [State.xpbStore, State.forN, hk]

@[simp] theorem keep_arrMod {z0 s : State} (hk : Keep z0 s) (a : Nat) (f : ArrayUnit → ArrayUnit) :
    Keep z0 (State.arrMod s a f) := by
  simp (maxDischargeDepth := 60) +contextual [State.arrMod, hk]

@[simp] theorem keep_arrSync {z0 s : State} (hk : Keep z0 s) (a : Nat) :
    Keep z0 (State.arrSync s a) := by
  unfold State.arrSync
  dsimp only
  split
  all_goals simp (maxDischargeDepth := 60) +contextual [hk]

@[simp] theorem keep_arrAbandon {z0 s : State} (hk : Keep z0 s) (a : Nat) :
    Keep z0 (State.arrAbandon s a) := by
  simp (maxDischargeDepth := 60) +contextual [State.arrAbandon, hk]

@[simp] theorem keep_arrErr {z0 s : State} (hk : Keep z0 s) (a : Nat) (code : Nat) (slot : Nat) :
    Keep z0 (State.arrErr s a code slot) := by
  simp (maxDischargeDepth := 60) +contextual [State.arrErr, hk]

@[simp] theorem keep_chainEnter {z0 s : State} (hk : Keep z0 s) (a : Nat) :
    Keep z0 (State.chainEnter s a) := by
  unfold State.chainEnter
  dsimp only
  repeat' split
  all_goals simp (maxDischargeDepth := 60) [*]

@[simp] theorem keep_passDispatch {z0 s : State} (hk : Keep z0 s) (a : Nat) (slot : Nat) (pass : Nat) (mb : Nat) (chain : Bool) :
    Keep z0 (State.passDispatch s a slot pass mb chain) := by
  unfold State.passDispatch
  dsimp only
  split
  all_goals simp (maxDischargeDepth := 60) +contextual [hk]

@[simp] theorem keep_setPass {z0 s : State} (hk : Keep z0 s) (a : Nat) (q : PassRun) :
    Keep z0 (State.setPass s a q) := by
  simp (maxDischargeDepth := 60) +contextual [State.setPass, hk]

@[simp] theorem keep_readEnd {z0 s : State} (hk : Keep z0 s) (a : Nat) (q : PassRun) :
    Keep z0 (State.readEnd s a q) := by
  unfold State.readEnd
  split
  · exact keep_xpbRead (keep_arrMod hk ..) ..
  · exact hk

@[simp] theorem keep_arrReadsEnd {z0 s : State} (hk : Keep z0 s) (a : Nat) :
    Keep z0 (State.arrReadsEnd s a) := by
  simp (maxDischargeDepth := 60) +contextual [State.arrReadsEnd, State.forN, hk]

@[simp] theorem keep_readsEnd {z0 s : State} (hk : Keep z0 s) (k : Nat) :
    Keep z0 (State.readsEnd s k) := by
  unfold State.readsEnd
  exact keep_forN hk _ _ fun _ t ht => keep_foldl ht _ _ fun _ _ hu => keep_readEnd hu ..

@[simp] theorem keep_vectorDue {z0 s : State} (hk : Keep z0 s) (a : Nat) (present : Bool) :
    Keep z0 (State.vectorDue s a present) := by
  unfold State.vectorDue
  dsimp only
  repeat' split
  all_goals simp (maxDischargeDepth := 60) [*]

@[simp] theorem keep_vector0 {z0 s : State} (hk : Keep z0 s) (a : Nat) (present : Bool) :
    Keep z0 (State.vector0 s a present) := by
  simp (maxDischargeDepth := 60) +contextual [State.vector0, hk]

@[simp] theorem keep_drainVector {z0 s : State} (hk : Keep z0 s) (a : Nat) (hoop : Nat) (w : WorkEnv) (d : List Byte) (tile : Tile) (cols : List Byte) (v : Nat) (vec : List Byte) :
    Keep z0 (State.drainVector s a hoop w d tile cols v vec) := by
  simp (maxDischargeDepth := 60) +contextual [State.drainVector, hk]

@[simp] theorem keep_passLand {z0 s : State} (hk : Keep z0 s) (p : Pricking) (hoop : Nat) (q : PassRun) (d : List Byte) :
    Keep z0 (State.passLand s p hoop q d) := by
  unfold State.passLand
  refine keep_ite (fun _ => hk) fun _ => ?_
  split
  · exact hk
  · exact keep_landAhead hk ..

@[simp] theorem keep_statRelease {z0 s : State} (hk : Keep z0 s) (a : Nat) :
    Keep z0 (State.statRelease s a) := by
  unfold State.statRelease
  dsimp only
  refine keep_ite (fun _ => hk) fun _ => keep_foldl (keep_pb (keep_arrMod hk ..) ..) _ _ fun t h ht => ?_
  split
  · exact ht
  · exact keep_armEnd (keep_statLand ht ..) _

@[simp] theorem keep_passEnd {z0 s : State} (hk : Keep z0 s) (a : Nat) (freezeFeed : Nat) (freezeDrain : Nat) (hold : Nat) :
    Keep z0 (State.passEnd s a freezeFeed freezeDrain hold) := by
  unfold State.passEnd
  dsimp only
  repeat' (first | split | (simp only []; split))
  all_goals simp_all (maxDischargeDepth := 60)

@[simp] theorem keep_arraysFirstKnot {z0 s : State} (hk : Keep z0 s)  :
    Keep z0 (State.arraysFirstKnot s) := by
  simp (maxDischargeDepth := 60) +contextual [State.arraysFirstKnot, hk]

@[simp] theorem keep_xpbParity {z0 s : State} (hk : Keep z0 s) (k : Nat) :
    Keep z0 (State.xpbParity s k) := by
  unfold State.xpbParity
  dsimp only
  repeat' split
  all_goals simp (maxDischargeDepth := 60) [*]

theorem keep_execHeadPassDeferredStart {z0 s : State} (hk : Keep z0 s) (array : ArrayId) :
    Kept z0 (execHeadPassDeferredStart array s) := by
  unfold execHeadPassDeferredStart
  dsimp only
  split
  all_goals simp (maxDischargeDepth := 60) +contextual [hk]

theorem keep_execVector0Entry {z0 s : State} (hk : Keep z0 s) (array : ArrayId) (present : Bool) :
    Kept z0 (execVector0Entry array present s) := by
  simp (maxDischargeDepth := 60) +contextual [execVector0Entry, hk]

theorem keep_execArrayFreezeLimit {z0 s : State} (hk : Keep z0 s) (array : ArrayId) (drain : Bool) :
    Kept z0 (execArrayFreezeLimit array drain s) := by
  simp (maxDischargeDepth := 60) +contextual [execArrayFreezeLimit, hk]

theorem keep_execPassComplete {z0 s : State} (hk : Keep z0 s) (array : ArrayId) (freezeFeed : BitVec 32) (freezeDrain : BitVec 32) (hold : BitVec 32) :
    Kept z0 (execPassComplete array freezeFeed freezeDrain hold s) := by
  simp (maxDischargeDepth := 60) +contextual [execPassComplete, hk]

theorem keep_execStatWriteRelease {z0 s : State} (hk : Keep z0 s) (array : ArrayId) :
    Kept z0 (execStatWriteRelease array s) := by
  simp (maxDischargeDepth := 60) +contextual [execStatWriteRelease, hk]

theorem keep_execArrayError {z0 s : State} (hk : Keep z0 s) (array : ArrayId) (fault : ArrayFault) :
    Kept z0 (execArrayError array fault s) := by
  unfold execArrayError
  dsimp only
  split
  all_goals simp (maxDischargeDepth := 60) +contextual [hk]

theorem keep_execXpbLoadRelease {z0 s : State} (hk : Keep z0 s) (hoop : Hoop) (buffer : Bool) (held : BitVec 32) :
    Kept z0 (execXpbLoadRelease hoop buffer held s) := by
  simp (maxDischargeDepth := 60) +contextual [execXpbLoadRelease, hk]

theorem keep_execXpbLoadComplete {z0 s : State} (hk : Keep z0 s) (hoop : Hoop) (buffer : Bool) :
    Kept z0 (execXpbLoadComplete hoop buffer s) := by
  simp (maxDischargeDepth := 60) +contextual [execXpbLoadComplete, hk]

theorem keep_execVecOpError {z0 s : State} (hk : Keep z0 s) (hoop : Hoop) (fault : VecFault) :
    Kept z0 (execVecOpError hoop fault s) := by
  unfold execVecOpError
  dsimp only
  repeat' split
  all_goals simp (maxDischargeDepth := 60) [*]

end Sys2Proof.Machine
end

