-- ==== Sys2Proof/Laws/KeepReduction.lean ====
section
/-! SUPPORT. What the operations and commands of Machine/Reduction.lean keep. -/

namespace Sys2Proof.Machine

@[simp] theorem keep_treeRegs {z0 s : State} (hk : Keep z0 s) (n : Nat) (r : Nat) :
    Keep z0 (State.treeRegs s n r) := by
  simp (maxDischargeDepth := 60) +contextual [State.treeRegs, hk]

@[simp] theorem keep_writeBlock {z0 s : State} (hk : Keep z0 s) (e : RedEnv) (i : Nat) (off : Nat) (bs : List Byte) :
    Keep z0 (State.writeBlock s e i off bs) := by
  unfold State.writeBlock
  split
  · exact keep_xlatFault hk ..
  · exact keep_writeRuns hk ..

@[simp] theorem keep_redErr {z0 s : State} (hk : Keep z0 s) (die : Nat) (code : Nat) (slot : Nat) :
    Keep z0 (State.redErr s die code slot) := by
  simp (maxDischargeDepth := 60) +contextual [State.redErr, hk]

@[simp] theorem keep_redStop {z0 s : State} (hk : Keep z0 s) (e : RedEnv) (r : BlockRead) :
    Keep z0 (State.redStop s e r) := by
  unfold State.redStop
  split
  · exact hk
  · exact keep_xlatFault (keep_redIdle hk _) ..
  · exact keep_memUe (keep_redErr (keep_redIdle hk _) ..) ..

@[simp] theorem keep_markBadBucket {z0 s : State} (hk : Keep z0 s) (b : Nat) :
    Keep z0 (markBadBucket s b) := by
  unfold markBadBucket
  split
  · exact keep_with hk ..
  · exact hk

@[simp] theorem keep_redCheck {z0 s : State} (hk : Keep z0 s) (e : RedEnv) (payload : List Byte) (trailer : List Byte) :
    Keep z0 (State.redCheck s e payload trailer).1 := by
  unfold State.redCheck
  dsimp only
  repeat' split
  all_goals simp (maxDischargeDepth := 60) [*]

@[simp] theorem keep_noteDigests {z0 s : State} (hk : Keep z0 s) (b : Nat) (f : RedDigests → RedDigests) :
    Keep z0 (State.noteDigests s b f) := by
  unfold State.noteDigests
  split
  · exact keep_with hk ..
  · exact hk

@[simp] theorem keep_redSeal {z0 s : State} (hk : Keep z0 s) (e : RedEnv) :
    Keep z0 (State.redSeal s e) := by
  unfold State.redSeal
  dsimp only
  split
  all_goals simp (maxDischargeDepth := 60) +contextual [hk]

@[simp] theorem keep_redSum {z0 s : State} (hk : Keep z0 s) (e : RedEnv) (l : Nat) (j : Nat) :
    Keep z0 (State.redSum s e l j) := by
  unfold State.redSum
  dsimp only
  repeat' split
  all_goals simp (maxDischargeDepth := 60) [*]

@[simp] theorem keep_ringWrite {z0 s : State} (hk : Keep z0 s) (e : RedEnv) (t : List Byte) :
    Keep z0 (State.ringWrite s e t) := by
  simp (maxDischargeDepth := 60) +contextual [State.ringWrite, hk]

@[simp] theorem keep_redResult {z0 s : State} (hk : Keep z0 s) (e : RedEnv) :
    Keep z0 (State.redResult s e) := by
  unfold State.redResult
  dsimp only
  repeat' split
  all_goals simp (maxDischargeDepth := 60) [*]

@[simp] theorem keep_redFinish {z0 s : State} (hk : Keep z0 s) (e : RedEnv) :
    Keep z0 (State.redFinish s e) := by
  unfold State.redFinish
  split
  · split
    · exact keep_redResult (keep_writeBlock hk ..) _
    · exact keep_redStop hk ..
  · exact keep_redResult hk _

@[simp] theorem keep_redBegin {z0 s : State} (hk : Keep z0 s) (p : Pricking) (r : Run) (die : Nat) (slot : Nat) (bucket : Nat) :
    Keep z0 (State.redBegin s p r die slot bucket) := by
  simp (maxDischargeDepth := 60) +contextual [State.redBegin, State.forN, hk]

@[simp] theorem keep_runReduce {z0 s : State} (hk : Keep z0 s) (p : Pricking) (r : Run) (die : Nat) (slot : Nat) (bucket : Nat) :
    Keep z0 (State.runReduce s p r die slot bucket) := by
  unfold State.runReduce
  dsimp only
  split
  all_goals simp (maxDischargeDepth := 60) +contextual [hk]

@[simp] theorem keep_takeVerdict {z0 s : State} (hk : Keep z0 s) (v : Nat) :
    Keep z0 (State.takeVerdict s v) := by
  unfold State.takeVerdict
  dsimp only
  split
  all_goals simp (maxDischargeDepth := 60) +contextual [hk]

end Sys2Proof.Machine
end

