-- ==== Sys2Proof/Laws/KeepUpdate.lean ====
section
/-! SUPPORT. What the operations and commands of Machine/Update.lean keep. -/

namespace Sys2Proof.Machine

@[simp] theorem keep_updErr {z0 s : State} (hk : Keep z0 s) (k : Nat) (code : Nat) (slot : Nat) :
    Keep z0 (State.updErr s k code slot) := by
  simp (maxDischargeDepth := 60) +contextual [State.updErr, hk]

@[simp] theorem keep_updRead {z0 s : State} (hk : Keep z0 s) (k : Nat) (slot : Nat) (va : Nat) (n : Nat) :
    Keep z0 (State.updRead s k slot va n).1 := by
  unfold State.updRead
  split
  · exact keep_xlatFault (keep_updErr hk ..) ..
  · split
    · exact keep_memUe (keep_updErr hk ..) ..
    · exact hk

@[simp] theorem keep_updWrite {z0 s : State} (hk : Keep z0 s) (k : Nat) (slot : Nat) (va : Nat) (bs : List Byte) :
    Keep z0 (State.updWrite s k slot va bs).1 := by
  unfold State.updWrite
  split
  · exact keep_xlatFault (keep_updErr hk ..) ..
  · exact keep_writeRuns hk ..

@[simp] theorem keep_updSettle {z0 s : State} (hk : Keep z0 s) (k : Nat) (slot : Nat) (code : Nat) :
    Keep z0 (State.updSettle s k slot code) := by
  simp (maxDischargeDepth := 60) +contextual [State.updSettle, hk]

@[simp] theorem keep_updKeptNote {z0 s : State} (hk : Keep z0 s) (k : Nat) (blk : Nat) (r : Nat) (cause : Nat) :
    Keep z0 (State.updKeptNote s k blk r cause) := by
  simp (maxDischargeDepth := 60) +contextual [State.updKeptNote, hk]

@[simp] theorem keep_updKept {z0 s : State} (hk : Keep z0 s) (k : Nat) (blk : Nat) (r : Nat) (cause : Nat) :
    Keep z0 (State.updKept s k blk r cause) := by
  unfold State.updKept
  dsimp only
  have h1 := keep_line (keep_count (keep_inc hk (Blk.upd k) F.UPD_KEPT_COUNT 1) (4 + k) 1 3 1) (4 + k) 35
  split
  · exact keep_ite (fun _ => h1) fun _ => keep_updKeptNote (keep_with h1 ..) ..
  · exact h1

@[simp] theorem keep_precFail {z0 s : State} (hk : Keep z0 s) (k : Nat) (blk : Nat) (code : Nat) :
    Keep z0 (State.precFail s k blk code) := by
  simp (maxDischargeDepth := 60) +contextual [State.precFail, hk]

@[simp] theorem keep_updStore {z0 s : State} (hk : Keep z0 s) (k : Nat) (slot : Nat) (blk : Nat) (u : UpdEnv) (r : Nat) (out : List Byte × Nat) :
    Keep z0 (State.updStore s k slot blk u r out) := by
  simp (maxDischargeDepth := 60) +contextual [State.updStore, hk]

@[simp] theorem keep_updFetch {z0 s : State} (hk : Keep z0 s) (k : Nat) (slot : Nat) (e : List Byte) (r : Nat) :
    Keep z0 (State.updFetch s k slot e r).1 := by
  unfold State.updFetch
  have h1 := keep_updRead hk k slot (updVa e + 136 * r) 136
  split
  · rename_i h; rw [h] at h1; exact h1
  · rename_i h
    rw [h] at h1
    have h2 := keep_updRead h1 k slot (updGrad e + 128 * r) 128
    split
    · rename_i h'; rw [h'] at h2; exact h2
    · rename_i h'; rw [h'] at h2; exact h2

@[simp] theorem keep_updPlain {z0 s : State} (hk : Keep z0 s) (k slot blk : Nat) (u : UpdEnv) (rs : List Nat) :
    Keep z0 (State.updPlain s k slot blk u rs) := by
  induction rs generalizing s with
  | nil => exact hk
  | cons r rs ih =>
    simp only [State.updPlain]
    refine keep_ite (fun _ => hk) fun _ => ?_
    have h1 := keep_updFetch hk k slot u.e r
    split
    · rename_i h; rw [h] at h1; exact h1
    · rename_i h; rw [h] at h1; exact ih (keep_updStore h1 ..)

@[simp] theorem keep_updFetchAll {z0 s : State} (hk : Keep z0 s) (k slot : Nat) (e : List Byte) (rs : List Nat) :
    Keep z0 (State.updFetchAll s k slot e rs).1 := by
  induction rs generalizing s with
  | nil => exact hk
  | cons r rs ih =>
    simp only [State.updFetchAll]
    have h1 := keep_updFetch hk k slot e r
    split
    · rename_i h; rw [h] at h1; exact h1
    · rename_i h
      rw [h] at h1
      have h2 := ih h1
      split
      · rename_i h'; rw [h'] at h2; exact h2
      · rename_i h'; rw [h'] at h2; exact h2

@[simp] theorem keep_updStoreAll {z0 s : State} (hk : Keep z0 s) (k slot blk : Nat) (u : UpdEnv)
    (rs : List (Nat × (List Byte × Nat))) : Keep z0 (State.updStoreAll s k slot blk u rs) := by
  induction rs generalizing s with
  | nil => exact hk
  | cons r rs ih => exact keep_ite (fun _ => hk) fun _ => ih (keep_updStore hk ..)

@[simp] theorem keep_updPrecond {z0 s : State} (hk : Keep z0 s) (p : Pricking) (k slot blk : Nat) (u : UpdEnv) :
    Keep z0 (State.updPrecond s p k slot blk u) := by
  unfold State.updPrecond
  dsimp only
  split
  · exact keep_memUe (keep_updErr hk ..) ..
  · have h1 := keep_updFetchAll hk k slot u.e (List.range (updRecords u.e))
    split
    · rename_i h; rw [h] at h1; exact h1
    · rename_i h
      rw [h] at h1
      have h2 := keep_updStoreAll h1 k slot blk u
      exact keep_ite (fun _ => h2 _) fun _ => keep_ite (fun _ => keep_writeMem (h2 _) ..) fun _ => keep_precFail (h2 _) ..

@[simp] theorem keep_runUpdate {z0 s : State} (hk : Keep z0 s) (p : Pricking) (r : Run) (k : Nat) (slot : Nat) (blk : Nat) :
    Keep z0 (State.runUpdate s p r k slot blk) := by
  exact keep_ite (fun _ => keep_updPrecond hk ..) fun _ => keep_updPlain hk ..

@[simp] theorem keep_runPush {z0 s : State} (hk : Keep z0 s) (p : Pricking) (k : Nat) (slot : Nat) (operand : Nat) :
    Keep z0 (State.runPush s p k slot operand) := by
  unfold State.runPush
  dsimp only
  split
  all_goals simp (maxDischargeDepth := 60) +contextual [hk]

@[simp] theorem keep_runRefresh {z0 s : State} (hk : Keep z0 s) (p : Pricking) (r : Run) (k : Nat) (slot : Nat) (blk : Nat) :
    Keep z0 (State.runRefresh s p r k slot blk).1 := by
  unfold State.runRefresh
  dsimp only
  repeat' split
  all_goals simp (maxDischargeDepth := 60) [*]

@[simp] theorem keep_precClear {z0 s : State} (hk : Keep z0 s) (p : Pricking) :
    Keep z0 (State.precClear s p) := by
  simp (maxDischargeDepth := 60) +contextual [State.precClear, State.forN, hk]

@[simp] theorem keep_scaleMerge {z0 s : State} (hk : Keep z0 s) (clean : Bool) :
    Keep z0 (State.scaleMerge s clean) := by
  simp (maxDischargeDepth := 60) +contextual [State.scaleMerge, hk]

@[simp] theorem keep_scaleApply {z0 s : State} (hk : Keep z0 s)  :
    Keep z0 (State.scaleApply s) := by
  unfold State.scaleApply
  dsimp only
  split
  all_goals simp (maxDischargeDepth := 60) +contextual [hk]

@[simp] theorem keep_scaleClear {z0 s : State} (hk : Keep z0 s) (fmts : Table Nat) :
    Keep z0 (State.scaleClear s fmts) := by
  simp (maxDischargeDepth := 60) +contextual [State.scaleClear, hk]

@[simp] theorem keep_updBusy {z0 s : State} (hk : Keep z0 s) (k : Nat) (kind : Nat) (blk : Nat) :
    Keep z0 (State.updBusy s k kind blk) := by
  simp (maxDischargeDepth := 60) +contextual [State.updBusy, hk]

@[simp] theorem keep_updIdle {z0 s : State} (hk : Keep z0 s) (k : Nat) :
    Keep z0 (State.updIdle s k) := by
  simp (maxDischargeDepth := 60) +contextual [State.updIdle, hk]

theorem keep_execScaleTableApply {z0 s : State} (hk : Keep z0 s)  :
    Kept z0 (execScaleTableApply s) := by
  simp (maxDischargeDepth := 60) +contextual [execScaleTableApply, hk]

end Sys2Proof.Machine
end

