-- ==== Sys2Proof/Laws/KeepSlots.lean ====
section
/-! SUPPORT. What the operations and commands of Machine/Slots.lean keep. -/

namespace Sys2Proof.Machine

@[simp] theorem keep_slotNextReg {z0 s : State} (hk : Keep z0 s) (die : Nat) :
    Keep z0 (State.slotNextReg s die) := by
  unfold State.slotNextReg
  split
  · exact keep_p hk ..
  · exact hk

@[simp] theorem keep_engineWork {z0 s : State} (hk : Keep z0 s) (p : Pricking) (r : Run) (die : Nat) (slot : Nat) (e : SlotEntry) :
    Keep z0 (State.engineWork s p r die slot e).1 := by
  unfold State.engineWork
  dsimp only
  split
  all_goals simp (maxDischargeDepth := 60) +contextual [hk]

@[simp] theorem keep_unitFinish {z0 s : State} (hk : Keep z0 s) (die : Nat) (code : Nat) :
    Keep z0 (State.unitFinish s die code) := by
  unfold State.unitFinish
  dsimp only
  repeat' split
  all_goals simp (maxDischargeDepth := 60) [*]

@[simp] theorem keep_engineFault {z0 s : State} (hk : Keep z0 s) (die : Nat) (code : Nat) (f : EngineFault) :
    Keep z0 (State.engineFault s die code f) := by
  unfold State.engineFault
  dsimp only
  repeat' split
  all_goals simp (maxDischargeDepth := 60) [*]

@[simp] theorem keep_unitTake {z0 s : State} (hk : Keep z0 s) (die : Nat) (code : Nat) (slot : Nat) :
    Keep z0 (State.unitTake s die code slot) := by
  unfold State.unitTake
  dsimp only
  split
  all_goals simp (maxDischargeDepth := 60) +contextual [hk]

@[simp] theorem keep_unitDrop {z0 s : State} (hk : Keep z0 s) (die : Nat) (code : Nat) :
    Keep z0 (State.unitDrop s die code) := by
  unfold State.unitDrop
  split
  · exact hk
  · exact keep_with hk ..

@[simp] theorem keep_vecDispatch {z0 s : State} (hk : Keep z0 s) (h : Nat) (slot : Nat) (d : List Byte) (w : WorkEnv) :
    Keep z0 (State.vecDispatch s h slot d w) := by
  simp (maxDischargeDepth := 60) +contextual [State.vecDispatch, hk]

@[simp] theorem keep_streamDispatch {z0 s : State} (hk : Keep z0 s) (p : Pricking) (die : Nat) (slot : Nat) (unit : Nat) (stream : Nat) :
    Keep z0 (State.streamDispatch s p die slot unit stream) := by
  simp (maxDischargeDepth := 60) +contextual [State.streamDispatch, hk]

@[simp] theorem keep_linkDispatch {z0 s : State} (hk : Keep z0 s) (p : Pricking) (r : Run) (die : Nat) (slot : Nat) (e : SlotEntry) (start : Nat × Nat) :
    Keep z0 (State.linkDispatch s p r die slot e start) := by
  unfold State.linkDispatch
  dsimp only
  split
  all_goals simp (maxDischargeDepth := 60) +contextual [hk]

@[simp] theorem keep_slotStart {z0 s : State} (hk : Keep z0 s) (p : Pricking) (r : Run) (die : Nat) (i : Nat) (e : SlotEntry) (start : Nat × Nat) :
    Keep z0 (State.slotStart s p r die i e start) := by
  unfold State.slotStart
  dsimp only
  split
  all_goals simp (maxDischargeDepth := 60) +contextual [hk]

@[simp] theorem keep_collectEmpty {z0 s : State} (hk : Keep z0 s) (die : Nat) (d : List Byte) :
    Keep z0 (State.collectEmpty s die d) := by
  simp (maxDischargeDepth := 60) +contextual [State.collectEmpty, State.forN, hk]

@[simp] theorem keep_dispatch {z0 s : State} (hk : Keep z0 s) (p : Pricking) (r : Run) (die : Nat) (i : Nat) (e : SlotEntry) :
    Keep z0 (State.dispatch s p r die i e) := by
  simp (maxDischargeDepth := 60) +contextual [State.dispatch, hk]

@[simp] theorem keep_slotMiss {z0 s : State} (hk : Keep z0 s) (die : Nat) (i : Nat) :
    Keep z0 (State.slotMiss s die i) := by
  unfold State.slotMiss
  dsimp only
  repeat' split
  all_goals simp (maxDischargeDepth := 60) [*]

@[simp] theorem keep_knotDeadlines {z0 s : State} (hk : Keep z0 s) (k : Nat) :
    Keep z0 (State.knotDeadlines s k) := by
  unfold State.knotDeadlines
  dsimp only
  split
  all_goals simp (maxDischargeDepth := 60) +contextual [hk]

theorem keep_execSlotDispatch {z0 s : State} (hk : Keep z0 s) (die : Die) :
    Kept z0 (execSlotDispatch die s) := by
  unfold execSlotDispatch
  split
  · split
    · exact kept_next.2 hk
    · split
      · exact kept_next.2 hk
      · exact kept_ite (fun _ => kept_next.2 (keep_dispatch hk ..)) fun _ => kept_next.2 hk
  · exact kept_next.2 hk

theorem keep_execUnitSlotComplete {z0 s : State} (hk : Keep z0 s) (die : Die) (work : UnitEnd) :
    Kept z0 (execUnitSlotComplete die work s) := by
  unfold execUnitSlotComplete
  refine kept_next.2 (keep_settleUe ?_ _)
  split
  · exact keep_unitFinish hk ..
  · exact keep_engineFault hk ..

theorem keep_execSlotDeadlineCheck {z0 s : State} (hk : Keep z0 s) (die : Die) (slot : BitVec 17) :
    Kept z0 (execSlotDeadlineCheck die slot s) := by
  unfold execSlotDeadlineCheck
  dsimp only
  split
  all_goals simp (maxDischargeDepth := 60) +contextual [hk]

end Sys2Proof.Machine
end

