-- ==== Sys2Proof/Laws/KeepMemoryEvents.lean ====
section
/-! SUPPORT. What the operations and commands of Machine/MemoryEvents.lean keep. -/

namespace Sys2Proof.Machine

@[simp] theorem keep_landUpTo {z0 s : State} (hk : Keep z0 s) (a : Arm) (j : Nat) :
    Keep z0 (State.landUpTo s a j) := by
  unfold State.landUpTo
  dsimp only
  split
  all_goals simp (maxDischargeDepth := 60) +contextual [hk]

@[simp] theorem keep_faultBeat {z0 s : State} (hk : Keep z0 s) (a : Arm) (j : Nat) (dpa : Nat) :
    Keep z0 (State.faultBeat s a j dpa) := by
  unfold State.faultBeat
  dsimp only
  split
  all_goals simp (maxDischargeDepth := 60) +contextual [hk]

@[simp] theorem keep_pairOutcome {z0 s : State} (hk : Keep z0 s) (stack : Nat) (dpa : Nat) (r : PairRead) :
    Keep z0 (State.pairOutcome s stack dpa r).1 := by
  unfold State.pairOutcome
  dsimp only
  repeat' split
  all_goals simp (maxDischargeDepth := 60) [*]

@[simp] theorem keep_engineUe {z0 s : State} (hk : Keep z0 s) (die : Nat) (code : Nat) (dpa : Nat) (write : Bool) :
    Keep z0 (State.engineUe s die code dpa write) := by
  unfold State.engineUe
  dsimp only
  repeat' split
  all_goals simp (maxDischargeDepth := 60) [*]

@[simp] theorem keep_meetUe {z0 s : State} (hk : Keep z0 s) (dpa : Nat) (r : Reader) :
    Keep z0 (State.meetUe s dpa r) := by
  unfold State.meetUe
  dsimp only
  repeat' split
  all_goals simp (maxDischargeDepth := 60) [*]

@[simp] theorem keep_meetData {z0 s : State} (hk : Keep z0 s) (dpa : Nat) (left : List (Fin 67 × Byte)) (r : Reader) :
    Keep z0 (State.meetData s dpa left r) := by
  unfold State.meetData
  dsimp only
  split
  · exact hk
  · split
    · exact hk
    · rename_i a _ _ j _
      have h1 := keep_settleUe (keep_landUpTo (keep_mem hk (memWrite s.mem (dpa / 64 * 64) (applyErrs left (s.readMem (dpa / 64 * 64) 64)))
        s.badPairs s.ueHits (memWrite_wf _ _ _)) a j) .unit
      exact keep_ite (fun _ => h1) fun _ => keep_mem h1 _ _ _ (memWrite_wf _ _ _)

@[simp] theorem keep_updCut {z0 s : State} (hk : Keep z0 s) (k : Nat) (dpa : Nat) :
    Keep z0 (State.updCut s k dpa) := by
  unfold State.updCut
  dsimp only
  repeat' split
  all_goals simp (maxDischargeDepth := 60) [*]

@[simp] theorem keep_scrubPair {z0 s : State} (hk : Keep z0 s) (stack : Nat) (d : Nat) (read : PairRead) :
    Keep z0 (State.scrubPair s stack d read) := by
  unfold State.scrubPair
  have h1 := keep_pairOutcome hk stack d read
  generalize State.pairOutcome _ _ _ _ = x at h1 ⊢
  obtain ⟨u, o⟩ := x
  rcases o with _ | ⟨left, b⟩
  · exact keep_memUe h1 ..
  · cases b
    · exact h1
    · exact keep_mem h1 _ _ _ (memWrite_wf _ _ _)

@[simp] theorem keep_hbmSetLevel {z0 s : State} (hk : Keep z0 s) (m : Nat) (level : Nat) (t : Nat) (noTemp : Bool) :
    Keep z0 (State.hbmSetLevel s m level t noTemp) := by
  simp (maxDischargeDepth := 60) +contextual [State.hbmSetLevel, hk]

theorem keep_execHbmReadReturn {z0 s : State} (hk : Keep z0 s) (stack : Stack) (dpa : BitVec 48) (read : PairRead) (reader : Reader) :
    Kept z0 (execHbmReadReturn stack dpa read reader s) := by
  unfold execHbmReadReturn
  dsimp only
  refine kept_ite (fun _ => kept_next.2 hk) fun _ => ?_
  have h0 : Keep z0 (if isPartial reader = true then s.count (stack.val / 6) (7 + stack.val % 6) 4 1 else s) :=
    keep_ite (fun _ => keep_count hk ..) fun _ => hk
  have h1 := keep_pairOutcome h0 stack.val dpa.toNat read
  generalize State.pairOutcome _ _ _ _ = x at h1 ⊢
  obtain ⟨u, o⟩ := x
  cases o with
  | none => exact kept_next.2 (keep_meetUe h1 ..)
  | some y => exact kept_next.2 (keep_meetData h1 ..)

theorem keep_execStrReadReturn {z0 s : State} (hk : Keep z0 s) (shuttle : Shuttle) (dpa : BitVec 48) (read : SlowRead) (reader : Reader) :
    Kept z0 (execStrReadReturn shuttle dpa read reader s) := by
  unfold execStrReadReturn
  dsimp only
  refine kept_ite (fun _ => kept_next.2 hk) fun _ => ?_
  cases read with
  | uncorrectable =>
    refine kept_next.2 (keep_meetUe ?_ ..)
    split
    · exact keep_ite (fun _ => keep_updCut hk ..) fun _ => hk
    · exact hk
  | good corrected wrong =>
    refine kept_next.2 (keep_meetData (keep_ite (fun _ => keep_memCe (keep_count (keep_inc ?_ ..) ..) ..) fun _ => ?_) ..)
    all_goals exact keep_ite (fun _ => hk) fun _ => keep_mem hk _ _ _ (memWrite_wf _ _ _)

theorem keep_execHbmScrub {z0 s : State} (hk : Keep z0 s) (stack : Stack) (read : PairRead) :
    Kept z0 (execHbmScrub stack read s) := by
  simp (maxDischargeDepth := 60) +contextual [execHbmScrub, hk]

theorem keep_execSramScrub {z0 s : State} (hk : Keep z0 s) (die : Die) (read : SramRead) :
    Kept z0 (execSramScrub die read s) := by
  unfold execSramScrub
  dsimp only
  repeat' split
  all_goals simp (maxDischargeDepth := 60) [*]

theorem keep_execHbmTempRead {z0 s : State} (hk : Keep z0 s) (stack : Stack) (reading : Option (BitVec 8)) :
    Kept z0 (execHbmTempRead stack reading s) := by
  unfold execHbmTempRead
  dsimp only
  split
  all_goals simp (maxDischargeDepth := 60) +contextual [hk]

theorem keep_execStrMr4Read {z0 s : State} (hk : Keep z0 s) (shuttle : Shuttle) (mr4 : BitVec 64) :
    Kept z0 (execStrMr4Read shuttle mr4 s) := by
  unfold execStrMr4Read
  dsimp only
  split
  all_goals simp (maxDischargeDepth := 60) +contextual [hk]

theorem keep_execBridgeFlitReceive {z0 s : State} (hk : Keep z0 s) (die : Die) (bridge : Fin 3) (fate : ReadFate) :
    Kept z0 (execBridgeFlitReceive die bridge fate s) := by
  unfold execBridgeFlitReceive
  refine kept_ite (fun _ => kept_next.2 hk) fun _ => ?_
  cases fate with
  | clean => exact kept_next.2 hk
  | corrected =>
    have h1 : Keep z0 { s with bridgeCe := tmod 0 s.bridgeCe (4 * die.val + bridge.val) (· + 1) } := keep_with hk ..
    exact kept_next.2 (keep_line h1 ..)
  | uncorrectable => exact kept_next.2 (keep_raiseVoid hk ..)

theorem keep_execBridgeTimeout {z0 s : State} (hk : Keep z0 s) (die : Die) (bridge : Fin 3) :
    Kept z0 (execBridgeTimeout die bridge s) := by
  simp (maxDischargeDepth := 60) +contextual [execBridgeTimeout, hk]

end Sys2Proof.Machine
end

