-- ==== Sys2Proof/Laws/KeepPower.lean ====
section
/-! SUPPORT. What the operations and commands of Machine/Power.lean keep. -/

namespace Sys2Proof.Machine

@[simp] theorem keep_supplyFatal {z0 s : State} (hk : Keep z0 s) (err : Nat) (code : Nat) (domain : Nat) (detail : Nat) :
    Keep z0 (State.supplyFatal s err code domain detail) := by
  unfold State.supplyFatal
  refine keep_ite (fun _ => hk) fun _ => keep_ite (fun _ => keep_with hk ..) fun _ => keep_fatal (keep_p (keep_p hk ..) ..) ..

@[simp] theorem keep_classChange {z0 s : State} (hk : Keep z0 s) (code : Nat) :
    Keep z0 (State.classChange s code) := by
  unfold State.classChange
  dsimp only
  split
  all_goals simp (maxDischargeDepth := 60) +contextual [hk]

@[simp] theorem keep_capApply {z0 s : State} (hk : Keep z0 s)  :
    Keep z0 (State.capApply s) := by
  unfold State.capApply
  dsimp only
  repeat' (first | split | (simp only []; split))
  all_goals simp_all (maxDischargeDepth := 60)

@[simp] theorem keep_reasonSample {z0 s : State} (hk : Keep z0 s) (n : Nat) :
    Keep z0 (State.reasonSample s n) := by
  unfold State.reasonSample
  dsimp only
  split
  all_goals simp (maxDischargeDepth := 60) +contextual [hk]

@[simp] theorem keep_vinSample {z0 s : State} (hk : Keep z0 s) (mv : Nat) (iin : Nat) :
    Keep z0 (State.vinSample s mv iin) := by
  simp (maxDischargeDepth := 60) +contextual [State.vinSample, hk]

@[simp] theorem keep_keepSample {z0 s : State} (hk : Keep z0 s) (p : Nat) :
    Keep z0 (State.keepSample s p) := by
  simp (maxDischargeDepth := 60) +contextual [State.keepSample, hk]

@[simp] theorem keep_setPowerDuty {z0 s : State} (hk : Keep z0 s) (d : Nat) :
    Keep z0 (State.setPowerDuty s d) := by
  simp (maxDischargeDepth := 60) +contextual [State.setPowerDuty, hk]

@[simp] theorem keep_lookBack {z0 s : State} (hk : Keep z0 s) (p : Int) :
    Keep z0 (State.lookBack s p) := by
  simp (maxDischargeDepth := 60) +contextual [State.lookBack, hk]

@[simp] theorem keep_slowHoop {z0 s : State} (hk : Keep z0 s) (h : Nat) :
    Keep z0 (State.slowHoop s h) := by
  simp (maxDischargeDepth := 60) +contextual [State.slowHoop, hk]

@[simp] theorem keep_setDroop {z0 s : State} (hk : Keep z0 s) (a : Nat) (d : Nat) :
    Keep z0 (State.setDroop s a d) := by
  simp (maxDischargeDepth := 60) +contextual [State.setDroop, hk]

@[simp] theorem keep_thermDown {z0 s : State} (hk : Keep z0 s) (h : Nat) :
    Keep z0 (State.thermDown s h) := by
  simp (maxDischargeDepth := 60) +contextual [State.thermDown, hk]

@[simp] theorem keep_overTemp {z0 s : State} (hk : Keep z0 s) (die : Nat) (t : Nat) (err : Nat) (code : Nat) (detail : Nat) :
    Keep z0 (State.overTemp s die t err code detail) := by
  simp (maxDischargeDepth := 60) +contextual [State.overTemp, hk]

@[simp] theorem keep_hoopTemp {z0 s : State} (hk : Keep z0 s) (h : Nat) (t : Nat) :
    Keep z0 (State.hoopTemp s h t) := by
  simp (maxDischargeDepth := 60) +contextual [State.hoopTemp, hk]

theorem keep_execSupplyUv {z0 s : State} (hk : Keep z0 s) (mv : BitVec 16) :
    Kept z0 (execSupplyUv mv s) := by
  simp (maxDischargeDepth := 60) +contextual [execSupplyUv, hk]

theorem keep_execSupplyOv {z0 s : State} (hk : Keep z0 s) (mv : BitVec 16) :
    Kept z0 (execSupplyOv mv s) := by
  simp (maxDischargeDepth := 60) +contextual [execSupplyOv, hk]

theorem keep_execRegFault {z0 s : State} (hk : Keep z0 s) (domain : Fin 36) :
    Kept z0 (execRegFault domain s) := by
  simp (maxDischargeDepth := 60) +contextual [execRegFault, hk]

theorem keep_execClsRead {z0 s : State} (hk : Keep z0 s) (code : BitVec 3) :
    Kept z0 (execClsRead code s) := by
  unfold execClsRead
  dsimp only
  repeat' split
  all_goals simp (maxDischargeDepth := 60) [*]

theorem keep_execSetPowerCap {z0 s : State} (hk : Keep z0 s) (ring : RingId) (e : Sqe) :
    Kept z0 (execSetPowerCap ring e s) := by
  simp (maxDischargeDepth := 60) +contextual [execSetPowerCap, hk]

theorem keep_execPowerSample {z0 s : State} (hk : Keep z0 s) (reading : PowerReading) :
    Kept z0 (execPowerSample reading s) := by
  simp (maxDischargeDepth := 60) +contextual [execPowerSample, hk]

theorem keep_execSlowLoop {z0 s : State} (hk : Keep z0 s)  :
    Kept z0 (execSlowLoop s) := by
  simp (maxDischargeDepth := 60) +contextual [execSlowLoop, hk]

theorem keep_execOpChangeComplete {z0 s : State} (hk : Keep z0 s) (array : ArrayId) :
    Kept z0 (execOpChangeComplete array s) := by
  unfold execOpChangeComplete
  dsimp only
  split
  all_goals simp (maxDischargeDepth := 60) +contextual [hk]

theorem keep_execDroopTrip {z0 s : State} (hk : Keep z0 s) (array : ArrayId) :
    Kept z0 (execDroopTrip array s) := by
  simp (maxDischargeDepth := 60) +contextual [execDroopTrip, hk]

theorem keep_execDroopRecovery {z0 s : State} (hk : Keep z0 s) (array : ArrayId) :
    Kept z0 (execDroopRecovery array s) := by
  simp (maxDischargeDepth := 60) +contextual [execDroopRecovery, hk]

theorem keep_execRegulatorCurrentLimit {z0 s : State} (hk : Keep z0 s) (hoop : Hoop) :
    Kept z0 (execRegulatorCurrentLimit hoop s) := by
  simp (maxDischargeDepth := 60) +contextual [execRegulatorCurrentLimit, hk]

theorem keep_execHoopTempRead {z0 s : State} (hk : Keep z0 s) (t : Vector (BitVec 8) 4) :
    Kept z0 (execHoopTempRead t s) := by
  simp (maxDischargeDepth := 60) +contextual [execHoopTempRead, hk]

theorem keep_execHoopThermalStep {z0 s : State} (hk : Keep z0 s) (hoop : Hoop) :
    Kept z0 (execHoopThermalStep hoop s) := by
  simp (maxDischargeDepth := 60) +contextual [execHoopThermalStep, hk]

theorem keep_execShuttleTempRead {z0 s : State} (hk : Keep z0 s) (t : Vector (BitVec 8) 2) :
    Kept z0 (execShuttleTempRead t s) := by
  simp (maxDischargeDepth := 60) +contextual [execShuttleTempRead, hk]

theorem keep_execPwrbrakeAssert {z0 s : State} (hk : Keep z0 s)  :
    Kept z0 (execPwrbrakeAssert s) := by
  simp (maxDischargeDepth := 60) +contextual [execPwrbrakeAssert, hk]

theorem keep_execPwrbrakeRelease {z0 s : State} (hk : Keep z0 s)  :
    Kept z0 (execPwrbrakeRelease s) := by
  simp (maxDischargeDepth := 60) +contextual [execPwrbrakeRelease, hk]

theorem keep_execRefclkLoss {z0 s : State} (hk : Keep z0 s)  :
    Kept z0 (execRefclkLoss s) := by
  simp (maxDischargeDepth := 60) +contextual [execRefclkLoss, hk]

theorem keep_execControlWatchdog {z0 s : State} (hk : Keep z0 s) (die : Die) :
    Kept z0 (execControlWatchdog die s) := by
  simp (maxDischargeDepth := 60) +contextual [execControlWatchdog, hk]

end Sys2Proof.Machine
end

