-- ==== Sys2Proof/Laws/KeepAdmission.lean ====
section
/-! SUPPORT. What the operations and commands of Machine/Admission.lean keep. -/

namespace Sys2Proof.Machine

@[simp] theorem keep_admitStart {z0 s : State} (hk : Keep z0 s) (c : Cmd) (e : Sqe) :
    Keep z0 (State.admitStart s c e) := by
  simp (maxDischargeDepth := 60) +contextual [State.admitStart, hk]

@[simp] theorem keep_putPaces {z0 s : State} (hk : Keep z0 s) (v : AdEnv) :
    Keep z0 (State.putPaces s v) := by
  simp (maxDischargeDepth := 60) +contextual [State.putPaces, hk]

@[simp] theorem keep_clearJob {z0 s : State} (hk : Keep z0 s)  :
    Keep z0 (State.clearJob s) := by
  simp (maxDischargeDepth := 60) +contextual [State.clearJob, hk]

@[simp] theorem keep_zeroScratch {z0 s : State} (hk : Keep z0 s) (p : Pricking) :
    Keep z0 (State.zeroScratch s p) := by
  simp (maxDischargeDepth := 60) +contextual [State.zeroScratch, hk]

@[simp] theorem keep_putAdmitted {z0 s : State} (hk : Keep z0 s) (p : Pricking) :
    Keep z0 (State.putAdmitted s p) := by
  simp (maxDischargeDepth := 60) +contextual [State.putAdmitted, hk]

@[simp] theorem keep_ownTables {z0 s : State} (hk : Keep z0 s) (p : Pricking) :
    Keep z0 (State.ownTables s p) := by
  simp (maxDischargeDepth := 60) +contextual [State.ownTables, hk]

@[simp] theorem keep_install {z0 s : State} (hk : Keep z0 s) (p : Pricking) :
    Keep z0 (State.install s p) := by
  simp (maxDischargeDepth := 60) +contextual [State.install, hk]

@[simp] theorem keep_endAdmit {z0 s : State} (hk : Keep z0 s) (r : Rej) :
    Keep z0 (State.endAdmit s r) := by
  simp (maxDischargeDepth := 60) +contextual [State.endAdmit, hk]

@[simp] theorem keep_admission {z0 s : State} (hk : Keep z0 s) (a : Admitting) (media : Option Nat) :
    Keep z0 (State.admission s a media) := by
  unfold State.admission
  dsimp only
  repeat' split
  all_goals simp (maxDischargeDepth := 60) [*]

theorem keep_execAdmitPricking {z0 s : State} (hk : Keep z0 s) (ring : RingId) (e : Sqe) :
    Kept z0 (execAdmitPricking ring e s) := by
  simp (maxDischargeDepth := 60) +contextual [execAdmitPricking, hk]

theorem keep_execAdmissionComplete {z0 s : State} (hk : Keep z0 s) (timeUs : BitVec 17) (media : Option (BitVec 40)) :
    Kept z0 (execAdmissionComplete timeUs media s) := by
  unfold execAdmissionComplete
  dsimp only
  split
  all_goals simp (maxDischargeDepth := 60) +contextual [hk]

end Sys2Proof.Machine
end

