-- ==== Sys2Proof/Laws/KeepHostRings.lean ====
section
/-! SUPPORT. What the operations and commands of Machine/HostRings.lean keep. -/

namespace Sys2Proof.Machine

@[simp] theorem keep_sweepStart {z0 s : State} (hk : Keep z0 s)  :
    Keep z0 (State.sweepStart s) := by
  simp (maxDischargeDepth := 60) +contextual [State.sweepStart, hk]

@[simp] theorem keep_stopRing {z0 s : State} (hk : Keep z0 s) (i : Nat) (r : Ring) (code : Nat) :
    Keep z0 (State.stopRing s i r code) := by
  simp (maxDischargeDepth := 60) +contextual [State.stopRing, hk]

@[simp] theorem keep_sweepRing {z0 s : State} (hk : Keep z0 s) (page : List Byte) (i : Nat) :
    Keep z0 (State.sweepRing s page i) := by
  unfold State.sweepRing
  dsimp only
  split
  all_goals simp (maxDischargeDepth := 60) +contextual [hk]

@[simp] theorem keep_addressFail {z0 s : State} (hk : Keep z0 s) (c : Cmd) (e : HostErr) :
    Keep z0 (State.addressFail s c e) := by
  simp (maxDischargeDepth := 60) +contextual [State.addressFail, hk]

@[simp] theorem keep_mapPages {z0 s : State} (hk : Keep z0 s) (c : Cmd) (bs : List Byte) (n : Nat) :
    Keep z0 (State.mapPages s c bs n) := by
  simp (maxDischargeDepth := 60) +contextual [State.mapPages, hk]

@[simp] theorem keep_unmapRange {z0 s : State} (hk : Keep z0 s) (c : Cmd) (va : Nat) (len : Nat) (force : Bool) :
    Keep z0 (State.unmapRange s c va len force) := by
  simp (maxDischargeDepth := 60) +contextual [State.unmapRange, hk]

@[simp] theorem keep_landTranslated {z0 s : State} (hk : Keep z0 s)  :
    Keep z0 (State.landTranslated s) := by
  unfold State.landTranslated
  refine keep_foldl hk _ _ fun t a ht => ?_
  have h1 := keep_landTo ht a (a.beats + Config.free t.fresh % (t.armLimit a - a.beats + 1))
  generalize t.landTo a (a.beats + Config.free t.fresh % (t.armLimit a - a.beats + 1)) = x at h1
  obtain ⟨u, a', f⟩ := x
  refine keep_draw (keep_settleUe ?_ _)
  cases f with
  | none => exact h1
  | some f => exact keep_faultStop h1 ..

@[simp] theorem keep_pageKnot {z0 s : State} (hk : Keep z0 s)  :
    Keep z0 (State.pageKnot s) := by
  simp (maxDischargeDepth := 60) +contextual [State.pageKnot, hk]

@[simp] theorem keep_copyDone {z0 s : State} (hk : Keep z0 s) (c : Cmd) (fin : CopyEnd) :
    Keep z0 (State.copyDone s c fin) := by
  unfold State.copyDone
  dsimp only
  refine keep_ite (fun _ => keep_complete (keep_settleUe (keep_writeRuns hk ..) _) ..) fun _ => ?_
  split
  · exact keep_addressFail hk ..
  · split
    · exact keep_complete (keep_emit hk _) ..
    · exact keep_complete (keep_copyUe (keep_ite (fun _ => hk) fun _ => keep_emit hk _) _) ..

theorem keep_execPcieLinkChange {z0 s : State} (hk : Keep z0 s) (gen : BitVec 3) (width : BitVec 5) :
    Kept z0 (execPcieLinkChange gen width s) := by
  simp (maxDischargeDepth := 60) +contextual [execPcieLinkChange, hk]

theorem keep_execKick {z0 s : State} (hk : Keep z0 s) (offset : BitVec 12) (value : Word) :
    Kept z0 (execKick offset value s) := by
  simp (maxDischargeDepth := 60) +contextual [execKick, hk]

theorem keep_execSweepFetch {z0 s : State} (hk : Keep z0 s) (kickSweep : Bool) (page : HostRead) :
    Kept z0 (execSweepFetch kickSweep page s) := by
  unfold execSweepFetch
  dsimp only
  repeat' (first | split | (simp only []; split))
  all_goals simp_all (maxDischargeDepth := 60)

theorem keep_execCompletionDeferredPost {z0 s : State} (hk : Keep z0 s) (ring : RingId) :
    Kept z0 (execCompletionDeferredPost ring s) := by
  unfold execCompletionDeferredPost
  split
  · exact kept_next.2 hk
  · split
    · exact kept_next.2 hk
    · exact kept_next.2 (keep_ite (fun _ => hk) fun _ => keep_cqWrite hk ..)

theorem keep_execCompletionWriteFail {z0 s : State} (hk : Keep z0 s) (ring : RingId) (err : HostErr) :
    Kept z0 (execCompletionWriteFail ring err s) := by
  unfold execCompletionWriteFail
  dsimp only
  split
  all_goals simp (maxDischargeDepth := 60) +contextual [hk]

theorem keep_execReservedOpcode {z0 s : State} (hk : Keep z0 s) (ring : RingId) (opcode : BitVec 8) (e : Sqe) :
    Kept z0 (execReservedOpcode ring opcode e s) := by
  unfold execReservedOpcode
  refine kept_ite (fun _ => kept_next.2 hk) fun _ => ?_
  split
  · exact kept_next.2 hk
  · rename_i h
    exact kept_next.2 (keep_refuse (keep_beginCmd hk _ _ _ _ h) ..)

theorem keep_execExtensionCommand {z0 s : State} (hk : Keep z0 s) (ring : RingId) (opcode : BitVec 8) (e : Sqe) :
    Kept z0 (execExtensionCommand ring opcode e s) := by
  unfold execExtensionCommand
  refine kept_ite (fun _ => kept_next.2 hk) fun _ => ?_
  split
  · exact kept_next.2 hk
  · rename_i h
    have h1 := keep_beginCmd hk _ _ _ _ h
    exact kept_ite (fun _ => kept_next.2 (keep_refuse h1 ..)) fun _ => kept_ite (fun _ => kept_next.2 (keep_refuse h1 ..)) fun _ =>
      kept_ite (fun _ => kept_next.2 (keep_refuse h1 ..)) fun _ => kept_next.2 (keep_complete (keep_draw (keep_draw h1)) ..)

theorem keep_execIdentify {z0 s : State} (hk : Keep z0 s) (ring : RingId) (e : Sqe) (write : Option HostErr) :
    Kept z0 (execIdentify ring e write s) := by
  unfold execIdentify
  dsimp only
  repeat' (first | split | (simp only []; split))
  all_goals simp_all (maxDischargeDepth := 60)

theorem keep_execRingCreate {z0 s : State} (hk : Keep z0 s) (ring : RingId) (e : Sqe) :
    Kept z0 (execRingCreate ring e s) := by
  simp (maxDischargeDepth := 60) +contextual [execRingCreate, hk]

theorem keep_execRingDelete {z0 s : State} (hk : Keep z0 s) (ring : RingId) (e : Sqe) :
    Kept z0 (execRingDelete ring e s) := by
  simp (maxDischargeDepth := 60) +contextual [execRingDelete, hk]

theorem keep_execMap {z0 s : State} (hk : Keep z0 s) (ring : RingId) (e : Sqe) (data : HostRead) :
    Kept z0 (execMap ring e data s) := by
  unfold execMap
  dsimp only
  repeat' (first | split | (simp only []; split))
  all_goals simp_all (maxDischargeDepth := 60)

theorem keep_execUnmap {z0 s : State} (hk : Keep z0 s) (ring : RingId) (e : Sqe) :
    Kept z0 (execUnmap ring e s) := by
  simp (maxDischargeDepth := 60) +contextual [execUnmap, hk]

theorem keep_execMemRead {z0 s : State} (hk : Keep z0 s) (ring : RingId) (e : Sqe) :
    Kept z0 (execMemRead ring e s) := by
  unfold execMemRead
  rw [kept_next]
  refine keep_withCmd hk _ _ _ _ _ fun c t ht => ?_
  dsimp only
  split
  · exact keep_refuse ht ..
  · refine keep_ite (fun _ => keep_complete ht ..) fun _ => ?_
    split
    · exact keep_refuse ht ..
    · exact keep_setCmd ht ..

theorem keep_execMemWrite {z0 s : State} (hk : Keep z0 s) (ring : RingId) (e : Sqe) (data : HostRead) :
    Kept z0 (execMemWrite ring e data s) := by
  unfold execMemWrite
  rw [kept_next]
  refine keep_withCmd hk _ _ _ _ _ fun c t ht => ?_
  dsimp only
  split
  · exact keep_refuse ht ..
  · refine keep_ite (fun _ => keep_complete ht ..) fun _ => ?_
    split
    · exact keep_refuse ht ..
    · refine keep_ite (fun _ => keep_refuse ht ..) fun _ => ?_
      split
      · exact keep_addressFail ht ..
      · exact keep_setCmd ht ..

theorem keep_execHostCopyDone {z0 s : State} (hk : Keep z0 s) (ring : RingId) (fin : CopyEnd) :
    Kept z0 (execHostCopyDone ring fin s) := by
  unfold execHostCopyDone
  split
  · exact kept_next.2 hk
  · exact kept_next.2 (keep_copyDone hk ..)

theorem keep_execTrainPorts {z0 s : State} (hk : Keep z0 s) (ring : RingId) (e : Sqe) :
    Kept z0 (execTrainPorts ring e s) := by
  simp (maxDischargeDepth := 60) +contextual [execTrainPorts, hk]

end Sys2Proof.Machine
end

