-- ==== Sys2Proof/Laws/KeepHostSteps.lean ====
section
/-! SUPPORT. What the operations and commands of Machine/HostSteps.lean keep. -/

namespace Sys2Proof.Machine

theorem ringFree_queue (s : State) (i : Nat) : (s.ringFree i).queue = s.queue := by
  unfold State.ringFree
  split <;> rfl

theorem keep_enqueue {z0 s : State} (hk : Keep z0 s) (c : Cmd) (e : Sqe) (lens : List Nat) (hq : s.queue.length < 4) :
    Keep z0 (State.enqueue s c e lens) := by
  unfold State.enqueue
  dsimp only
  have h0 := keep_ringFree hk c.ring
  have hq' : (s.ringFree c.ring).queue.length < 4 := by rw [ringFree_queue]; exact hq
  generalize s.ringFree c.ring = x at h0 hq'
  have h1 := fun q => keep_queue h0 (x.queue ++ [q]) fun _ => by
    simp only [List.length_append, List.length_singleton]
    omega
  exact keep_p (keep_with (h1 _) ..) ..

theorem startRefused_room {s : State} {c : Cmd} (h : s.startRefused c = none) : s.queue.length < 4 := by
  unfold State.startRefused at h
  split at h
  · cases h
  · repeat' split at h
    all_goals simp_all

@[simp] theorem keep_startStep {z0 s : State} (hk : Keep z0 s) (c : Cmd) (e : Sqe) (lens : HostRead) :
    Keep z0 (State.startStep s c e lens) := by
  unfold State.startStep
  split
  · exact keep_prkRefuse hk ..
  · exact keep_refuse hk ..
  · rename_i h0 _
    have hq := startRefused_room h0
    split
    · exact keep_prkRefuse hk ..
    · dsimp only
      split
      · exact keep_enqueue hk c e _ hq
      · exact keep_addressFail hk ..
      · refine keep_ite (fun _ => keep_prkRefuse hk ..) fun _ => ?_
        split
        · exact keep_prkRefuse hk ..
        · exact keep_enqueue hk c e _ hq

@[simp] theorem keep_stopAt {z0 s : State} (hk : Keep z0 s) (k : Nat) :
    Keep z0 (State.stopAt s k) := by
  simp (maxDischargeDepth := 60) +contextual [State.stopAt, hk]

@[simp] theorem keep_abortKnot {z0 s : State} (hk : Keep z0 s)  :
    Keep z0 (State.abortKnot s) := by
  simp (maxDischargeDepth := 60) +contextual [State.abortKnot, hk]

@[simp] theorem keep_preempt {z0 s : State} (hk : Keep z0 s) (c : Cmd) (e : Sqe) :
    Keep z0 (State.preempt s c e) := by
  unfold State.preempt
  dsimp only
  split
  all_goals simp (maxDischargeDepth := 60) +contextual [hk]

@[simp] theorem keep_endSave {z0 s : State} (hk : Keep z0 s) (op : Nat) (code : Nat) (result : Nat) :
    Keep z0 (State.endSave s op code result) := by
  simp (maxDischargeDepth := 60) +contextual [State.endSave, hk]

@[simp] theorem keep_stage {z0 s : State} (hk : Keep z0 s) (p : Pricking) (kPrime : Nat) :
    Keep z0 (State.stage s p kPrime) := by
  simp (maxDischargeDepth := 60) +contextual [State.stage, hk]

@[simp] theorem keep_saveKnot {z0 s : State} (hk : Keep z0 s)  :
    Keep z0 (State.saveKnot s) := by
  unfold State.saveKnot
  dsimp only
  repeat' split
  all_goals simp (maxDischargeDepth := 60) [*]

@[simp] theorem keep_saveDone {z0 s : State} (hk : Keep z0 s) (p : Pricking) (v : Save) (t : Nat) :
    Keep z0 (State.saveDone s p v t) := by
  exact keep_suspend (keep_endSave (keep_p (keep_forN hk 4 _ fun h t ht => keep_writeRuns ht ..) ..) ..) _

@[simp] theorem keep_leaveSuspend {z0 s : State} (hk : Keep z0 s)  :
    Keep z0 (State.leaveSuspend s) := by
  simp (maxDischargeDepth := 60) +contextual [State.leaveSuspend, hk]

@[simp] theorem keep_resumeCmd {z0 s : State} (hk : Keep z0 s) (c : Cmd) (e : Sqe) :
    Keep z0 (State.resumeCmd s c e) := by
  unfold State.resumeCmd
  dsimp only
  repeat' split
  all_goals simp (maxDischargeDepth := 60) [*]

@[simp] theorem keep_restoreFail {z0 s : State} (hk : Keep z0 s) (p : Pricking) (code : Nat) (result : Nat) :
    Keep z0 (State.restoreFail s p code result) := by
  simp (maxDischargeDepth := 60) +contextual [State.restoreFail, State.forN, hk]

@[simp] theorem keep_restoreSection {z0 s : State} (hk : Keep z0 s) (p : Pricking) (h : Nat) (bs : List Byte) :
    Keep z0 (State.restoreSection s p h bs) := by
  simp (maxDischargeDepth := 60) +contextual [State.restoreSection, hk]

@[simp] theorem keep_restoreDone {z0 s : State} (hk : Keep z0 s) (p : Pricking) (v : Save) (t : Nat) :
    Keep z0 (State.restoreDone s p v t) := by
  unfold State.restoreDone
  dsimp only
  repeat' (first | split | (simp only []; split))
  all_goals simp_all (maxDischargeDepth := 60)

theorem keep_execStartStep {z0 s : State} (hk : Keep z0 s) (ring : RingId) (e : Sqe) (lens : HostRead) :
    Kept z0 (execStartStep ring e lens s) := by
  simp (maxDischargeDepth := 60) +contextual [execStartStep, hk]

theorem keep_execAbortStep {z0 s : State} (hk : Keep z0 s) (ring : RingId) (e : Sqe) :
    Kept z0 (execAbortStep ring e s) := by
  simp (maxDischargeDepth := 60) +contextual [execAbortStep, hk]

theorem keep_execPreempt {z0 s : State} (hk : Keep z0 s) (ring : RingId) (e : Sqe) :
    Kept z0 (execPreempt ring e s) := by
  simp (maxDischargeDepth := 60) +contextual [execPreempt, hk]

theorem keep_execPreemptSaveDone {z0 s : State} (hk : Keep z0 s)  :
    Kept z0 (execPreemptSaveDone s) := by
  unfold execPreemptSaveDone
  split
  · split
    · exact kept_next.2 (keep_saveDone hk ..)
    · exact kept_next.2 (keep_endSave hk ..)
    · exact kept_next.2 hk
  · exact kept_next.2 hk

theorem keep_execResume {z0 s : State} (hk : Keep z0 s) (ring : RingId) (e : Sqe) :
    Kept z0 (execResume ring e s) := by
  simp (maxDischargeDepth := 60) +contextual [execResume, hk]

theorem keep_execResumeRestoreDone {z0 s : State} (hk : Keep z0 s) :
    Kept z0 (execResumeRestoreDone s) := by
  unfold execResumeRestoreDone
  split
  · split
    · exact kept_next.2 (keep_restoreDone hk ..)
    · exact kept_next.2 (keep_endSave hk ..)
    · exact kept_next.2 hk
  · exact kept_next.2 hk

end Sys2Proof.Machine
end

