-- ==== Sys2Proof/Laws/KeepIrq.lean ====
section
/-! SUPPORT. What the operations and commands of Machine/Irq.lean keep. -/

namespace Sys2Proof.Machine

@[simp] theorem keep_setIrqBit {z0 s : State} (hk : Keep z0 s) (d : Nat) (f : Nat → Fld) (n : Nat) (v : Bool) :
    Keep z0 (State.setIrqBit s d f n v) := by
  simp (maxDischargeDepth := 60) +contextual [State.setIrqBit, hk]

@[simp] theorem keep_irqCore {z0 s : State} (hk : Keep z0 s) (d : Nat) (n : Nat) (c : Nat) :
    Keep z0 (State.irqCore s d n c) := by
  simp (maxDischargeDepth := 60) +contextual [State.irqCore, hk]

@[simp] theorem keep_irqPend {z0 s : State} (hk : Keep z0 s) (d : Nat) (n : Nat) :
    Keep z0 (State.irqPend s d n) := by
  simp (maxDischargeDepth := 60) +contextual [State.irqPend, hk]

@[simp] theorem keep_irqHost {z0 s : State} (hk : Keep z0 s) (d : Nat) (n : Nat) :
    Keep z0 (State.irqHost s d n) := by
  simp (maxDischargeDepth := 60) +contextual [State.irqHost, hk]

@[simp] theorem keep_irqEffect {z0 s : State} (hk : Keep z0 s) (old : State) (d : Nat) :
    Keep z0 (State.irqEffect old s d) := by
  simp (maxDischargeDepth := 60) +contextual [State.irqEffect, State.forN, hk]

theorem keep_execIrqLineFiltered {z0 s : State} (hk : Keep z0 s) (die : Die) (source : BitVec 8) (level : Bool) :
    Kept z0 (execIrqLineFiltered die source level s) := by
  simp (maxDischargeDepth := 60) +contextual [execIrqLineFiltered, hk]

theorem keep_execIrqAck {z0 s : State} (hk : Keep z0 s) (die : Die) (core : Fin 4) (source : BitVec 8) :
    Kept z0 (execIrqAck die core source s) := by
  simp (maxDischargeDepth := 60) +contextual [execIrqAck, hk]

theorem keep_execIrqDone {z0 s : State} (hk : Keep z0 s) (die : Die) (core : Fin 4) (source : BitVec 8) :
    Kept z0 (execIrqDone die core source s) := by
  simp (maxDischargeDepth := 60) +contextual [execIrqDone, hk]

end Sys2Proof.Machine
end

