-- ==== Sys2Proof/Laws/KeepKnot.lean ====
section
/-! SUPPORT. What the operations and commands of Machine/Knot.lean keep. -/

namespace Sys2Proof.Machine

@[simp] theorem keep_cfgEffect {z0 s : State} (old : State) (hk : Keep z0 s) (b : Blk) :
    Keep z0 (State.cfgEffect old s b) := by
  cases b <;> simp (maxDischargeDepth := 60) [State.cfgEffect, hk]

@[simp] theorem keep_applyBlock {z0 s : State} (hk : Keep z0 s) (b : Blk) (snap : Table Word) :
    Keep z0 (State.applyBlock s b snap) := by
  unfold State.applyBlock
  split
  · exact keep_cfgEvent (keep_cfgRefuse hk ..) ..
  · exact keep_cfgEvent (keep_cfgEffect s (keep_cfgTake hk ..) b) ..

@[simp] theorem keep_cfgApplyDue {z0 s : State} (hk : Keep z0 s)  :
    Keep z0 (State.cfgApplyDue s) := by
  unfold State.cfgApplyDue
  refine keep_foldl (keep_with hk ..) _ _ fun t x ht => ?_
  split
  · exact keep_applyBlock ht ..
  · exact ht

@[simp] theorem keep_writeGo {z0 s : State} (hk : Keep z0 s) (b : Blk) (v : Word) :
    Keep z0 (State.writeGo s b v) := by
  simp (maxDischargeDepth := 60) +contextual [State.writeGo, hk]

@[simp] theorem keep_writeModeReq {z0 s : State} (hk : Keep z0 s) (v : Word) :
    Keep z0 (State.writeModeReq s v) := by
  simp (maxDischargeDepth := 60) +contextual [State.writeModeReq, hk]

@[simp] theorem keep_modeEvent {z0 s : State} (hk : Keep z0 s) (code : Nat) (mode : Nat) (expert : Bool) (die : Nat) (block : Nat) :
    Keep z0 (State.modeEvent s code mode expert die block) := by
  simp (maxDischargeDepth := 60) +contextual [State.modeEvent, hk]

@[simp] theorem keep_modeCommit {z0 s : State} (hk : Keep z0 s) (mode : Nat) (expert : Bool) :
    Keep z0 (State.modeCommit s mode expert) := by
  simp (maxDischargeDepth := 60) +contextual [State.modeCommit, hk]

@[simp] theorem keep_modeUndo {z0 s : State} (hk : Keep z0 s) (mode : Nat) (expert : Bool) (die : Nat) (block : Nat) :
    Keep z0 (State.modeUndo s mode expert die block) := by
  simp (maxDischargeDepth := 60) +contextual [State.modeUndo, hk]

@[simp] theorem keep_modeKnot {z0 s : State} (hk : Keep z0 s) (fail : Option (Die × BitVec 8)) :
    Keep z0 (State.modeKnot s fail) := by
  unfold State.modeKnot
  split
  · exact hk
  · exact keep_modeUndo hk ..
  · refine keep_ite (fun _ => hk) fun _ => ?_
    split
    · exact keep_with hk ..
    · exact keep_modeCommit hk ..

@[simp] theorem keep_stepRegs {z0 s : State} (hk : Keep z0 s) (q : QStep) :
    Keep z0 (State.stepRegs s q) := by
  simp (maxDischargeDepth := 60) +contextual [State.stepRegs, hk]

theorem keep_stepBegin {z0 s : State} (hk : Keep z0 s) (p : Pricking) (q : QStep) (rest : List QStep)
    (hq : s.queue.length ≤ 4 → rest.length ≤ 4) : Keep z0 (State.stepBegin s p q rest) := by
  unfold State.stepBegin
  have h1 := keep_queue_of_inv (keep_arraysFirstKnot (keep_bobbinsFirstKnot hk)) rest fun i => hq (hk.inv i).steps
  generalize s.bobbinsFirstKnot.arraysFirstKnot = x at h1 ⊢
  refine keep_ite (fun _ => keep_seeVoid ?_ _) fun _ => ?_
  all_goals exact keep_stepRegs (keep_p (keep_with h1 ..) ..) _

@[simp] theorem keep_beginKnot {z0 s : State} (hk : Keep z0 s) : Keep z0 (State.beginKnot s) := by
  unfold State.beginKnot
  split
  · rename_i h _
    refine keep_ite (fun _ => keep_stepBegin hk _ _ _ fun hl => ?_) fun _ => hk
    rw [h] at hl
    simp only [List.length_cons] at hl
    omega
  · exact hk

@[simp] theorem keep_verdictKnot {z0 s : State} (hk : Keep z0 s)  :
    Keep z0 (State.verdictKnot s) := by
  unfold State.verdictKnot
  dsimp only
  split
  all_goals simp (maxDischargeDepth := 60) +contextual [hk]

@[simp] theorem keep_runKnot {z0 s : State} (hk : Keep z0 s)  :
    Keep z0 (State.runKnot s) := by
  unfold State.runKnot
  dsimp only
  split
  all_goals simp (maxDischargeDepth := 60) +contextual [hk]

@[simp] theorem keep_withdrawDue {z0 s : State} (hk : Keep z0 s)  :
    Keep z0 (State.withdrawDue s) := by
  simp (maxDischargeDepth := 60) +contextual [State.withdrawDue, hk]

@[simp] theorem keep_suspendKnot {z0 s : State} (hk : Keep z0 s)  :
    Keep z0 (State.suspendKnot s) := by
  simp (maxDischargeDepth := 60) +contextual [State.suspendKnot, hk]

@[simp] theorem keep_repeatVoids {z0 s : State} (hk : Keep z0 s)  :
    Keep z0 (State.repeatVoids s) := by
  unfold State.repeatVoids
  dsimp only
  split
  all_goals simp (maxDischargeDepth := 60) +contextual [hk]

@[simp] theorem keep_releaseKnot {z0 s : State} (hk : Keep z0 s)  :
    Keep z0 (State.releaseKnot s) := by
  simp (maxDischargeDepth := 60) +contextual [State.releaseKnot, hk]

@[simp] theorem keep_scheduledSweep {z0 s : State} (hk : Keep z0 s)  :
    Keep z0 (State.scheduledSweep s) := by
  simp (maxDischargeDepth := 60) +contextual [State.scheduledSweep, hk]

@[simp] theorem keep_saveTick {z0 s : State} (hk : Keep z0 s)  :
    Keep z0 (State.saveTick s) := by
  unfold State.saveTick
  split
  · exact hk
  · exact keep_ite (fun _ => keep_endSave hk ..) fun _ => keep_saveKnot hk

@[simp] theorem keep_knotLines {z0 s : State} (hk : Keep z0 s)  :
    Keep z0 (State.knotLines s) := by
  unfold State.knotLines
  have h0 := keep_forN hk 6 (fun d s => s.line d 0) fun d t ht => keep_line ht ..
  exact keep_with h0 ..

@[simp] theorem keep_knotConfig {z0 s : State} (hk : Keep z0 s) (fail : Option (Die × BitVec 8)) :
    Keep z0 (State.knotConfig s fail) := by
  unfold State.knotConfig
  dsimp only
  repeat' (first | split | (simp only []; split))
  all_goals simp_all (maxDischargeDepth := 60)

@[simp] theorem keep_knotStep {z0 s : State} (hk : Keep z0 s)  :
    Keep z0 (State.knotStep s) := by
  simp (maxDischargeDepth := 60) +contextual [State.knotStep, hk]

@[simp] theorem keep_knotRest {z0 s : State} (hk : Keep z0 s) (late : List Projection) :
    Keep z0 (State.knotRest s late) := by
  simp (maxDischargeDepth := 60) +contextual [State.knotRest, hk]

@[simp] theorem keep_readyTick {z0 s : State} (hk : Keep z0 s)  :
    Keep z0 (State.readyTick s) := by
  simp (maxDischargeDepth := 60) +contextual [State.readyTick, State.forN, hk]

@[simp] theorem keep_writeTail {z0 s : State} (hk : Keep z0 s) (v : Word) :
    Keep z0 (State.writeTail s v) := by
  simp (maxDischargeDepth := 60) +contextual [State.writeTail, hk]

theorem keep_execCfgApplyGo {z0 s : State} (hk : Keep z0 s) (block : BitVec 10) :
    Kept z0 (execCfgApplyGo block s) := by
  unfold execCfgApplyGo
  split
  · exact kept_next.2 (keep_hostWrite hk _ _ fun t ht => keep_writeGo ht ..)
  · exact kept_next.2 hk

theorem keep_execConfigScrub {z0 s : State} (hk : Keep z0 s) (bad : Option (BitVec 26)) :
    Kept z0 (execConfigScrub bad s) := by
  unfold execConfigScrub
  split
  · exact kept_next.2 hk
  · split
    · exact kept_ite (fun _ => kept_next.2 hk) fun _ => kept_next.2 (keep_fatal hk ..)
    · exact kept_next.2 hk

theorem keep_execModeRequest {z0 s : State} (hk : Keep z0 s) (value : Word) :
    Kept z0 (execModeRequest value s) := by
  simp (maxDischargeDepth := 60) +contextual [execModeRequest, hk]

theorem keep_execKnotEvent {z0 s : State} (hk : Keep z0 s) (late : List Projection) (fail : Option (Die × BitVec 8)) :
    Kept z0 (execKnotEvent late fail s) := by
  simp (maxDischargeDepth := 60) +contextual [execKnotEvent, hk]

theorem keep_execLocalTick {z0 s : State} (hk : Keep z0 s)  :
    Kept z0 (execLocalTick s) := by
  simp (maxDischargeDepth := 60) +contextual [execLocalTick, hk]

theorem keep_execEvtTailWrite {z0 s : State} (hk : Keep z0 s) (value : Word) :
    Kept z0 (execEvtTailWrite value s) := by
  simp (maxDischargeDepth := 60) +contextual [execEvtTailWrite, hk]

theorem keep_execEventWriteFail {z0 s : State} (hk : Keep z0 s)  :
    Kept z0 (execEventWriteFail s) := by
  simp (maxDischargeDepth := 60) +contextual [execEventWriteFail, hk]

end Sys2Proof.Machine
end

