-- ==== Sys2Proof/Laws/KeepMgt.lean ====
section
/-! SUPPORT. What the operations and commands of Machine/Mgt.lean keep. -/

namespace Sys2Proof.Machine

@[simp] theorem keep_refreshSensors {z0 s : State} (hk : Keep z0 s)  :
    Keep z0 (State.refreshSensors s) := by
  exact keep_mgt hk _ id

@[simp] theorem keep_ccc {z0 s : State} (hk : Keep z0 s) (direct : Bool) (f : State → State) (hf : ∀  (t : State), Keep z0 t → Keep z0 (f  t)) :
    Keep z0 (State.ccc s direct f) := by
  unfold State.ccc
  repeat' (dsimp only; split)
  all_goals (try dsimp only)
  all_goals simp (maxDischargeDepth := 60) +contextual [*]

@[simp] theorem keep_setDa {z0 s : State} (hk : Keep z0 s) (valid : Bool) (a : Nat) :
    Keep z0 (State.setDa s valid a) := by
  simp (maxDischargeDepth := 60) +contextual [State.setDa, hk]

@[simp] theorem keep_i3cRead {z0 s : State} (hk : Keep z0 s) (bytes : List Byte) :
    Keep z0 (State.i3cRead s bytes) := by
  simp (maxDischargeDepth := 60) +contextual [State.i3cRead, hk]

@[simp] theorem keep_mctp {z0 s : State} (hk : Keep z0 s) (pcie : Bool) (f : State → State) (hf : ∀  (t : State), Keep z0 t → Keep z0 (f  t)) :
    Keep z0 (State.mctp s pcie f) := by
  unfold State.mctp
  repeat' (dsimp only; split)
  all_goals (try dsimp only)
  all_goals simp (maxDischargeDepth := 60) +contextual [*]

@[simp] theorem keep_control {z0 s : State} (hk : Keep z0 s) (pcie : Bool) (cmd : Byte) (bytes : List Byte) :
    Keep z0 (State.control s pcie cmd bytes) := by
  simp (maxDischargeDepth := 60) +contextual [State.control, hk]

@[simp] theorem keep_pldm {z0 s : State} (hk : Keep z0 s) (pcie : Bool) (type : Byte) (cmd : Byte) (bytes : List Byte) :
    Keep z0 (State.pldm s pcie type cmd bytes) := by
  simp (maxDischargeDepth := 60) +contextual [State.pldm, hk]

@[simp] theorem keep_evtPop {z0 s : State} (hk : Keep z0 s)  :
    Keep z0 (State.evtPop s) := by
  exact keep_pb (keep_p (keep_sensorQ (keep_mgt hk { s.mgt with evtId := s.mgt.evtId % 0xFFFE + 1 } id) (s.sensorQ.drop 1)
    fun h => by simp only [List.length_drop] at h ⊢; omega) ..) ..

theorem keep_execSensorRefresh {z0 s : State} (hk : Keep z0 s)  :
    Kept z0 (execSensorRefresh s) := by
  simp (maxDischargeDepth := 60) +contextual [execSensorRefresh, hk]

theorem keep_execEnec {z0 s : State} (hk : Keep z0 s) (direct : Bool) (events : BitVec 8) :
    Kept z0 (execEnec direct events s) := by
  simp (maxDischargeDepth := 60) +contextual [execEnec, hk]

theorem keep_execDisec {z0 s : State} (hk : Keep z0 s) (direct : Bool) (events : BitVec 8) :
    Kept z0 (execDisec direct events s) := by
  simp (maxDischargeDepth := 60) +contextual [execDisec, hk]

theorem keep_execRstdaa {z0 s : State} (hk : Keep z0 s)  :
    Kept z0 (execRstdaa s) := by
  simp (maxDischargeDepth := 60) +contextual [execRstdaa, hk]

theorem keep_execEntdaa {z0 s : State} (hk : Keep z0 s) (address : BitVec 7) :
    Kept z0 (execEntdaa address s) := by
  simp (maxDischargeDepth := 60) +contextual [execEntdaa, hk]

theorem keep_execSetdasa {z0 s : State} (hk : Keep z0 s) (address : BitVec 7) :
    Kept z0 (execSetdasa address s) := by
  simp (maxDischargeDepth := 60) +contextual [execSetdasa, hk]

theorem keep_execSetnewda {z0 s : State} (hk : Keep z0 s) (address : BitVec 7) :
    Kept z0 (execSetnewda address s) := by
  simp (maxDischargeDepth := 60) +contextual [execSetnewda, hk]

theorem keep_execSetmwl {z0 s : State} (hk : Keep z0 s) (len : BitVec 16) :
    Kept z0 (execSetmwl len s) := by
  unfold execSetmwl
  rw [kept_next]
  exact keep_ccc hk _ _ fun t ht => keep_ite (fun _ => keep_mgt ht { t.mgt with mwl := len.toNat } id) fun _ => ht

theorem keep_execSetmrl {z0 s : State} (hk : Keep z0 s) (len : BitVec 16) (ibiLen : BitVec 8) :
    Kept z0 (execSetmrl len ibiLen s) := by
  unfold execSetmrl
  rw [kept_next]
  exact keep_ccc hk _ _ fun t ht =>
    keep_ite (fun _ => keep_mgt ht { t.mgt with mrl := len.toNat, ibiLen := ibiLen.toNat } id) fun _ => ht

theorem keep_execGetmwl {z0 s : State} (hk : Keep z0 s)  :
    Kept z0 (execGetmwl s) := by
  simp (maxDischargeDepth := 60) +contextual [execGetmwl, hk]

theorem keep_execGetmrl {z0 s : State} (hk : Keep z0 s)  :
    Kept z0 (execGetmrl s) := by
  simp (maxDischargeDepth := 60) +contextual [execGetmrl, hk]

theorem keep_execGetpid {z0 s : State} (hk : Keep z0 s)  :
    Kept z0 (execGetpid s) := by
  simp (maxDischargeDepth := 60) +contextual [execGetpid, hk]

theorem keep_execGetbcr {z0 s : State} (hk : Keep z0 s)  :
    Kept z0 (execGetbcr s) := by
  simp (maxDischargeDepth := 60) +contextual [execGetbcr, hk]

theorem keep_execGetdcr {z0 s : State} (hk : Keep z0 s)  :
    Kept z0 (execGetdcr s) := by
  simp (maxDischargeDepth := 60) +contextual [execGetdcr, hk]

theorem keep_execGetstatus {z0 s : State} (hk : Keep z0 s)  :
    Kept z0 (execGetstatus s) := by
  simp (maxDischargeDepth := 60) +contextual [execGetstatus, hk]

theorem keep_execRstact {z0 s : State} (hk : Keep z0 s) (action : BitVec 8) :
    Kept z0 (execRstact action s) := by
  unfold execRstact
  rw [kept_next]
  exact keep_ccc hk _ _ fun t ht => keep_mgt ht { t.mgt with rstact := action.toNat } id

theorem keep_execSetEndpointId {z0 s : State} (hk : Keep z0 s) (pcie : Bool) (op : BitVec 2) (eid : BitVec 8) :
    Kept z0 (execSetEndpointId pcie op eid s) := by
  simp (maxDischargeDepth := 60) +contextual [execSetEndpointId, hk]

theorem keep_execGetEndpointId {z0 s : State} (hk : Keep z0 s) (pcie : Bool) :
    Kept z0 (execGetEndpointId pcie s) := by
  simp (maxDischargeDepth := 60) +contextual [execGetEndpointId, hk]

theorem keep_execGetMctpVersionSupport {z0 s : State} (hk : Keep z0 s) (pcie : Bool) (msgType : BitVec 8) :
    Kept z0 (execGetMctpVersionSupport pcie msgType s) := by
  simp (maxDischargeDepth := 60) +contextual [execGetMctpVersionSupport, hk]

theorem keep_execGetMessageTypeSupport {z0 s : State} (hk : Keep z0 s) (pcie : Bool) :
    Kept z0 (execGetMessageTypeSupport pcie s) := by
  simp (maxDischargeDepth := 60) +contextual [execGetMessageTypeSupport, hk]

theorem keep_execGetVendorDefinedMessageSupport {z0 s : State} (hk : Keep z0 s) (pcie : Bool) (selector : BitVec 8) :
    Kept z0 (execGetVendorDefinedMessageSupport pcie selector s) := by
  simp (maxDischargeDepth := 60) +contextual [execGetVendorDefinedMessageSupport, hk]

theorem keep_execGetTid {z0 s : State} (hk : Keep z0 s) (pcie : Bool) :
    Kept z0 (execGetTid pcie s) := by
  simp (maxDischargeDepth := 60) +contextual [execGetTid, hk]

theorem keep_execSetTid {z0 s : State} (hk : Keep z0 s) (pcie : Bool) (tid : BitVec 8) :
    Kept z0 (execSetTid pcie tid s) := by
  unfold execSetTid
  rw [kept_next]
  exact keep_mctp hk _ _ fun t ht => keep_ite (fun _ => keep_pldm ht ..) fun _ =>
    keep_pldm (keep_mgt ht { t.mgt with tid := tid.toNat } id) ..

theorem keep_execGetPldmVersion {z0 s : State} (hk : Keep z0 s) (pcie : Bool) (type : BitVec 8) :
    Kept z0 (execGetPldmVersion pcie type s) := by
  simp (maxDischargeDepth := 60) +contextual [execGetPldmVersion, hk]

theorem keep_execGetPldmTypes {z0 s : State} (hk : Keep z0 s) (pcie : Bool) :
    Kept z0 (execGetPldmTypes pcie s) := by
  simp (maxDischargeDepth := 60) +contextual [execGetPldmTypes, hk]

theorem keep_execGetPldmCommands {z0 s : State} (hk : Keep z0 s) (pcie : Bool) (type : BitVec 8) :
    Kept z0 (execGetPldmCommands pcie type s) := by
  simp (maxDischargeDepth := 60) +contextual [execGetPldmCommands, hk]

theorem keep_execGetPdrRepositoryInfo {z0 s : State} (hk : Keep z0 s) (pcie : Bool) :
    Kept z0 (execGetPdrRepositoryInfo pcie s) := by
  simp (maxDischargeDepth := 60) +contextual [execGetPdrRepositoryInfo, hk]

theorem keep_execGetPdr {z0 s : State} (hk : Keep z0 s) (pcie : Bool) (handle : BitVec 32) (offset : BitVec 32) (count : BitVec 16) :
    Kept z0 (execGetPdr pcie handle offset count s) := by
  simp (maxDischargeDepth := 60) +contextual [execGetPdr, hk]

theorem keep_execGetSensorReading {z0 s : State} (hk : Keep z0 s) (pcie : Bool) (sensor : BitVec 16) (_rearm : Bool) :
    Kept z0 (execGetSensorReading pcie sensor _rearm s) := by
  simp (maxDischargeDepth := 60) +contextual [execGetSensorReading, hk]

theorem keep_execGetStateSensorReadings {z0 s : State} (hk : Keep z0 s) (pcie : Bool) (sensor : BitVec 16) :
    Kept z0 (execGetStateSensorReadings pcie sensor s) := by
  unfold execGetStateSensorReadings
  rw [kept_next]
  refine keep_mctp hk _ _ fun t ht => ?_
  dsimp only
  refine keep_ite (fun _ => keep_pldm ht ..) fun _ => ?_
  exact keep_freshOf ht (keep_pldm ht ..) _

theorem keep_execGetNumericEffecterValue {z0 s : State} (hk : Keep z0 s) (pcie : Bool) (effecter : BitVec 16) :
    Kept z0 (execGetNumericEffecterValue pcie effecter s) := by
  simp (maxDischargeDepth := 60) +contextual [execGetNumericEffecterValue, hk]

theorem keep_execSetNumericEffecterValue {z0 s : State} (hk : Keep z0 s) (pcie : Bool) (effecter : BitVec 16) (value : BitVec 16) :
    Kept z0 (execSetNumericEffecterValue pcie effecter value s) := by
  simp (maxDischargeDepth := 60) +contextual [execSetNumericEffecterValue, hk]

theorem keep_execSetEventReceiver {z0 s : State} (hk : Keep z0 s) (pcie : Bool) (enable : BitVec 8) (eid : BitVec 8) :
    Kept z0 (execSetEventReceiver pcie enable eid s) := by
  unfold execSetEventReceiver
  rw [kept_next]
  exact keep_mctp hk _ _ fun t ht => keep_ite (fun _ =>
    keep_pldm (keep_mgt ht { t.mgt with evtEnable := enable.toNat, evtEid := eid.toNat } id) ..) fun _ => keep_pldm ht ..

theorem keep_execEventMessageSupported {z0 s : State} (hk : Keep z0 s) (pcie : Bool) :
    Kept z0 (execEventMessageSupported pcie s) := by
  simp (maxDischargeDepth := 60) +contextual [execEventMessageSupported, hk]

theorem keep_execEventMessageBufferSize {z0 s : State} (hk : Keep z0 s) (pcie : Bool) (size : BitVec 16) :
    Kept z0 (execEventMessageBufferSize pcie size s) := by
  unfold execEventMessageBufferSize
  rw [kept_next]
  exact keep_mctp hk _ _ fun t ht => keep_draw (keep_pldm (keep_mgt ht { t.mgt with evtBuffer := size.toNat } id) ..)

theorem keep_execPollForPlatformEventMessage {z0 s : State} (hk : Keep z0 s) (pcie : Bool) (ack : BitVec 16) :
    Kept z0 (execPollForPlatformEventMessage pcie ack s) := by
  unfold execPollForPlatformEventMessage
  rw [kept_next]
  refine keep_mctp hk _ _ fun t ht => ?_
  dsimp only
  split
  all_goals exact keep_pldm (keep_ite (fun _ => keep_evtPop ht) fun _ => ht) ..

end Sys2Proof.Machine
end

