-- ==== Sys2Proof/Laws/KeepBoot.lean ====
section
/-! SUPPORT. What the operations and commands of Machine/Boot.lean keep. -/

namespace Sys2Proof.Machine

@[simp] theorem keep_blank {z0 s : State} (hk : Keep z0 s) (supplied : Bool) :
    Keep z0 (State.blank s supplied) := by
  unfold State.blank
  exact ⟨fun i => ⟨rfl, by simp, by simp, by simp, by simp [portSafe]⟩, hk.pending, hk.fused, hk.svn, hk.out, hk.fresh⟩

@[simp] theorem keep_domainsUp {z0 s : State} (hk : Keep z0 s)  :
    Keep z0 (State.domainsUp s) := by
  simp (maxDischargeDepth := 60) +contextual [State.domainsUp, hk]

@[simp] theorem keep_bootFail {z0 s : State} (hk : Keep z0 s) (err : Nat) (detail : Nat) :
    Keep z0 (State.bootFail s err detail) := by
  simp (maxDischargeDepth := 60) +contextual [State.bootFail, hk]

@[simp] theorem keep_setStage {z0 s : State} (hk : Keep z0 s) (n : Nat) :
    Keep z0 (State.setStage s n) := by
  simp (maxDischargeDepth := 60) +contextual [State.setStage, hk]

@[simp] theorem keep_extRun {z0 s : State} (hk : Keep z0 s) (slotB : Bool) :
    Keep z0 (State.extRun s slotB) := by
  unfold State.extRun
  dsimp only
  have h0 : Keep z0 (if (bit (leAt (flashRead (if slotB then s.part.slotB else s.part.slotA) 0 9216) 0x14 4) 0 &&
      extSvn (flashRead (if slotB then s.part.slotB else s.part.slotA) 0 9216) > s.part.minSvn) = true then
        { s.p .sec F.SEC_EXT_SVN_MIN_SVN (extSvn (flashRead (if slotB then s.part.slotB else s.part.slotA) 0 9216)) with
          part := { s.part with
            minSvn := extSvn (flashRead (if slotB then s.part.slotB else s.part.slotA) 0 9216)
            otpDigest := Config.otpCheck { s.part with
              minSvn := extSvn (flashRead (if slotB then s.part.slotB else s.part.slotA) 0 9216) }.otpValues } } else s) := by
    refine keep_ite (fun h => keep_part (keep_p hk ..) _ ⟨rfl, rfl, rfl, rfl⟩ ?_) fun _ => hk
    simp only [Bool.and_eq_true, decide_eq_true_eq] at h
    exact Nat.le_of_lt h.2
  exact keep_forN (keep_p2 (keep_p (keep_p (keep_p (keep_pb (keep_p h0 ..) ..) ..) ..) ..) ..) _ _ fun i t ht => keep_p ht ..

@[simp] theorem keep_romIrq {z0 s : State} (hk : Keep z0 s) (rom : List (Die × BitVec 16 × Word)) :
    Keep z0 (State.romIrq s rom) := by
  simp (maxDischargeDepth := 60) +contextual [State.romIrq, hk]

@[simp] theorem keep_bootDies {z0 s : State} (hk : Keep z0 s) (diesReady : Bool) (rom : List (Die × BitVec 16 × Word)) :
    Keep z0 (State.bootDies s diesReady rom) := by
  simp (maxDischargeDepth := 60) +contextual [State.bootDies, hk]

@[simp] theorem keep_bootExt {z0 s : State} (hk : Keep z0 s) (diesReady : Bool) (rom : List (Die × BitVec 16 × Word)) :
    Keep z0 (State.bootExt s diesReady rom) := by
  unfold State.bootExt
  dsimp only
  split
  all_goals simp (maxDischargeDepth := 60) +contextual [hk]

@[simp] theorem keep_bootIdentity {z0 s : State} (hk : Keep z0 s) (token : Bool) (diesReady : Bool) (rom : List (Die × BitVec 16 × Word)) :
    Keep z0 (State.bootIdentity s token diesReady rom) := by
  unfold State.bootIdentity
  dsimp only
  refine keep_ite (fun _ => keep_bootFail (keep_setStage hk _) ..) fun _ => ?_
  have h1 := keep_p (keep_p (keep_p (keep_pb (keep_pb (keep_setStage hk 2) .sec F.SEC_OTP_POLICY_EXT_REQUIRED s.part.extRequired) .sec
    F.SEC_OTP_POLICY_DEBUG_DISABLE s.part.debugDisable) .sec F.SEC_OTP_POLICY_ROOT_REVOKE s.part.rootRevoke) .sec
    F.SEC_EXT_SVN_MIN_SVN s.part.minSvn) .sec F.SEC_DEBUG_STATE
      (if s.part.debugDisable then 2 else if token && !s.part.debugDisable then 1 else 0)
  refine keep_ite (fun _ => keep_bootFail h1 ..) fun _ => ?_
  have h2 := keep_pb (keep_pb (keep_pb h1 .sec F.SEC_ID_KEY_OK (!(token && !s.part.debugDisable))) .sec F.SEC_ID_SIGN_EN
    (!(token && !s.part.debugDisable))) .sec F.SEC_ID_CERT_OK (!(token && !s.part.debugDisable) && s.part.certGood)
  generalize State.pb _ _ _ _ = x at h2
  have h3 := keep_mgt h2 { x.mgt with live := true } id
  exact keep_bootExt (keep_refreshSensors (keep_with h3 ..)) ..

@[simp] theorem keep_flrStop {z0 s : State} (hk : Keep z0 s)  :
    Keep z0 (State.flrStop s) := by
  unfold State.flrStop
  dsimp only
  have h0 := keep_queue hk [] (by simp)
  have h1 : Keep z0 { s with cmds := [], queue := [], admitting := none, save := none } := keep_with h0 ..
  have h2 := keep_stopUnits h1
  generalize { s with cmds := [], queue := [], admitting := none, save := none }.stopUnits = x at h2 ⊢
  have h3 : Keep z0 { x with units := [], run := none, lastRun := none, arms := [], links := [], hostGo := [] } := keep_with h2 ..
  exact keep_gridFree (keep_forN (keep_clearEmpty (keep_dropAdmission h3)) 18 (fun p s => s.trainStop p)
    fun _ t ht => keep_trainStop ht _)

@[simp] theorem keep_flrClear {z0 s : State} (hk : Keep z0 s)  :
    Keep z0 (State.flrClear s) := by
  exact keep_with hk ..

@[simp] theorem keep_flrSettle {z0 s : State} (hk : Keep z0 s)  :
    Keep z0 (State.flrSettle s) := by
  unfold State.flrSettle
  dsimp only
  have h7 := keep_refreshPower (keep_gateArrays (keep_pb (keep_foldl hk ((List.range 6).flatMap fun d => (List.range (setsOf d)).map
    fun k => (d, k)) (fun s x => s.cycSet x.1 x.2 0) fun t x ht => keep_cycSet ht ..) .pwr F.PWR_STATUS_BRAKE s.brakePin))
  exact keep_ite (fun _ => keep_arrayRates (keep_p h7 ..)) fun _ => h7

theorem keep_execInputPowerUp {z0 s : State} (hk : Keep z0 s)  :
    Kept z0 (execInputPowerUp s) := by
  simp (maxDischargeDepth := 60) +contextual [execInputPowerUp, hk]

theorem keep_execInputLoss {z0 s : State} (hk : Keep z0 s)  :
    Kept z0 (execInputLoss s) := by
  simp (maxDischargeDepth := 60) +contextual [execInputLoss, hk]

theorem keep_execPerstAssert {z0 s : State} (hk : Keep z0 s)  :
    Kept z0 (execPerstAssert s) := by
  unfold execPerstAssert
  refine kept_ite (fun _ => kept_next.2 hk) fun _ => kept_next.2 ?_
  dsimp only
  have h1 := keep_stopUnits (keep_p (keep_p (keep_p hk .hst F.HST_STATUS_GEN 0) .hst F.HST_STATUS_WIDTH 0) .hst F.HST_STATUS_FLIT 0)
  generalize (((s.p .hst F.HST_STATUS_GEN 0).p .hst F.HST_STATUS_WIDTH 0).p .hst F.HST_STATUS_FLIT 0).stopUnits = x at h1 ⊢
  have h2 := keep_test (keep_mem (keep_queue h1 [] (by simp)) [] [] [] (fun _ => rfl)) { x.test with
        token := false, nonce := leBytes 32 (Config.free x.fresh % 2 ^ 256)
        driven := x.test.ir == JtagIr.extest || x.test.ir == JtagIr.clamp, floating := x.test.ir == JtagIr.highz } true
        fun _ => ⟨fun _ => rfl, fun _ => rfl, fun h => by cases h⟩
  have g : ∀ y, Keep z0 y → Keep z0 { y with grid := { y.grid with leaving := false } } := fun y hy => keep_with hy ..
  have i : ∀ y, Keep z0 y → Keep z0 { y with mgt := { y.mgt with live := false, spdm := [], ext := none }, idKey := none } :=
    fun y hy => by
      have h := keep_mgt hy { y.mgt with live := false, spdm := [], ext := none } (by simp)
      exact keep_with h ..
  have h3 : ∀ y, Keep z0 y → Keep z0 (let u := y.dropAdmission.clearEmpty.gridFree
      let v := { u with grid := { u.grid with leaving := false } }
      let w := ((v.forN 18 fun p s => s.p (.nir p) F.NIR_STATUS_STATE 1).p .mgt F.MGT_STATUS_DA 0).p .mgt F.MGT_STATUS_DA_VALID 0
      { w with mgt := { w.mgt with live := false, spdm := [], ext := none }, idKey := none }) := fun y hy =>
    i _ (keep_p (keep_p (keep_forN (g _ (keep_gridFree (keep_clearEmpty (keep_dropAdmission hy)))) 18 _
      fun _ t ht => keep_p ht ..) ..) ..)
  exact h3 _ (keep_draw (keep_with h2 ..))

theorem keep_execPerstRelease {z0 s : State} (hk : Keep z0 s) (diesReady : Bool) (rom : List (Die × BitVec 16 × Word)) :
    Kept z0 (execPerstRelease diesReady rom s) := by
  unfold execPerstRelease
  refine kept_ite (fun _ => kept_next.2 hk) fun _ => kept_next.2 ?_
  dsimp only
  have h1 := keep_test (keep_blank hk true) { s.test with token := false, nonce := [], driven := false, floating := false } false
    (by simp [portSafe])
  have h2 : ∀ x b, Keep z0 x → Keep z0 ((((x.p2 .dev F.DEV_SERIAL_LO_SERIAL_LO F.DEV_SERIAL_HI_SERIAL_HI x.part.serial).pb .pwr
      F.PWR_STATUS_BRAKE b).gateArrays).refreshPower) := fun x b hx =>
    keep_refreshPower (keep_gateArrays (keep_pb (keep_p2 hx ..) ..))
  have h3 : ∀ x, Keep z0 x → Keep z0 ((if x.brakePin then (x.p .pwr F.PWR_THR_ACTIVE_POWER_DUTY 1).arrayRates else x).setStage 1) :=
    fun x hx => keep_setStage (keep_ite (fun _ => keep_arrayRates (keep_p hx ..)) fun _ => hx) _
  exact keep_ite (fun _ => keep_bootIdentity (h3 _ (h2 _ _ (keep_domainsUp h1))) ..) fun _ =>
    keep_bootFail (h3 _ (h2 _ _ (keep_domainsUp h1))) ..

theorem keep_execHbmTrainingDone {z0 s : State} (hk : Keep z0 s)  :
    Kept z0 (execHbmTrainingDone s) := by
  simp (maxDischargeDepth := 60) +contextual [execHbmTrainingDone, hk]

theorem keep_execHbmZeroDone {z0 s : State} (hk : Keep z0 s) (stack : Stack) :
    Kept z0 (execHbmZeroDone stack s) := by
  unfold execHbmZeroDone
  rw [kept_next]
  refine keep_ite (fun _ => keep_p (keep_mem hk _ _ _ fun h => ?_) ..) fun _ => hk
  unfold Memory.wf memWfList at h ⊢
  rw [tableWf_iff] at h ⊢
  exact ⟨h.1.filter _, fun p hp => h.2 p (List.mem_filter.1 hp).1⟩

theorem keep_execSlowTierTrained {z0 s : State} (hk : Keep z0 s)  :
    Kept z0 (execSlowTierTrained s) := by
  simp (maxDischargeDepth := 60) +contextual [execSlowTierTrained, hk]

theorem keep_execCalibrationDone {z0 s : State} (hk : Keep z0 s) (fixedW : BitVec 12) :
    Kept z0 (execCalibrationDone fixedW s) := by
  simp (maxDischargeDepth := 60) +contextual [execCalibrationDone, hk]

theorem keep_execStartUpBoundExpiry {z0 s : State} (hk : Keep z0 s) (hbm : Bool) (detail : BitVec 8) :
    Kept z0 (execStartUpBoundExpiry hbm detail s) := by
  simp (maxDischargeDepth := 60) +contextual [execStartUpBoundExpiry, hk]

theorem keep_execFunctionLevelReset {z0 s : State} (hk : Keep z0 s)  :
    Kept z0 (execFunctionLevelReset s) := by
  unfold execFunctionLevelReset
  exact kept_next.2 (keep_ite (fun _ => keep_flrSettle (keep_flrClear (keep_flrStop hk))) fun _ => hk)

end Sys2Proof.Machine
end

