-- ==== Sys2Proof/Laws/KeepAttest.lean ====
section
/-! SUPPORT. What the operations and commands of Machine/Attest.lean keep. -/

namespace Sys2Proof.Machine

@[simp] theorem keep_spdmSend {z0 s : State} (hk : Keep z0 s) (pcie : Bool) (bytes : List Byte) :
    Keep z0 (State.spdmSend s pcie bytes) := by
  simp (maxDischargeDepth := 60) +contextual [State.spdmSend, hk]

@[simp] theorem keep_spdmError {z0 s : State} (hk : Keep z0 s) (pcie : Bool) (code : Nat) :
    Keep z0 (State.spdmError s pcie code) := by
  simp (maxDischargeDepth := 60) +contextual [State.spdmError, hk]

theorem keep_setConn {z0 s : State} (hk : Keep z0 s) (c : SpdmConn) (e : Nat)
    (hc : (s.conn e).isSome = true ∨ s.mgt.spdm.length < 2) (he : c.eid = e) : Keep z0 (State.setConn s c) := by
  subst he
  unfold State.setConn
  refine keep_p (keep_mgt hk _ fun h => ?_) ..
  dsimp only
  split
  · simpa using h
  · rcases hc with hc | hc
    · contradiction
    · simp only [List.length_append, List.length_singleton]
      omega

/-- A request is handled on a connection that exists, or on a new one of the requester where two are not yet there. -/
theorem keep_spdm {z0 s : State} (hk : Keep z0 s) (pcie : Bool) (eid : BitVec 8) (size need : Nat)
    (f : SpdmConn → State → State)
    (hf : ∀ (c : SpdmConn) (t : State), Keep z0 t → (t.conn c.eid).isSome = true ∨ t.mgt.spdm.length < 2 → c.eid = eid.toNat →
      Keep z0 (f c t)) : Keep z0 (State.spdm s pcie eid size need f) := by
  unfold State.spdm
  dsimp only
  have h1 := keep_inc hk .mgt F.MGT_RX_MSGS_COUNT 1
  refine keep_ite (fun _ => hk) fun _ => keep_ite (fun _ => keep_inc hk ..) fun _ => ?_
  split
  · rename_i c hc
    have he : c.eid = eid.toNat := by
      have := List.find?_some hc
      simpa using this
    exact keep_ite (fun _ => keep_spdmError h1 ..) fun _ => hf c _ h1 (.inl (by rw [he, hc]; rfl)) he
  · refine keep_ite (fun _ => keep_spdmError h1 ..) fun hl => keep_ite (fun _ => keep_spdmError h1 ..) fun _ =>
      hf _ _ h1 (.inr ?_) rfl
    omega

@[simp] theorem keep_sign {z0 s : State} (hk : Keep z0 s) (ctx : String) (transcript : List Byte) :
    Keep z0 (State.sign s ctx transcript).1 := by
  simp (maxDischargeDepth := 60) +contextual [State.sign, hk]

@[simp] theorem keep_vendor {z0 s : State} (hk : Keep z0 s) (pcie : Bool) (req : Byte) (bytes : List Byte) :
    Keep z0 (State.vendor s pcie req bytes) := by
  simp (maxDischargeDepth := 60) +contextual [State.vendor, hk]

@[simp] theorem keep_setExtSlot {z0 s : State} (hk : Keep z0 s) (slotB : Bool) (l : List Byte) :
    Keep z0 (State.setExtSlot s slotB l) := by
  unfold State.setExtSlot
  cases slotB <;> exact keep_part hk _ ⟨rfl, rfl, rfl, rfl⟩ (Nat.le_refl _)

@[simp] theorem keep_setExtSeq {z0 s : State} (hk : Keep z0 s) (e : Option ExtSeq) :
    Keep z0 (State.setExtSeq s e) := by
  exact keep_mgt hk _ id

@[simp] theorem keep_jtag {z0 s : State} (hk : Keep z0 s) (ir : JtagIr) :
    Keep z0 (State.jtag s ir) := by
  unfold State.jtag
  refine keep_ite (fun _ => hk) fun _ => keep_test hk _ s.perst fun h => ⟨fun h' => ?_, fun h' => ?_, h.2.2⟩
  · simp only [Bool.and_eq_true] at h'; exact h'.1
  · simp only [Bool.and_eq_true] at h'; exact h'.1

@[simp] theorem keep_withNonce {z0 s : State} (hk : Keep z0 s)  :
    Keep z0 (State.withNonce s) := by
  unfold State.withNonce
  exact keep_ite (fun _ => keep_draw (keep_test hk _ s.perst fun h => h)) fun _ => hk

theorem keep_execGetVersion {z0 s : State} (hk : Keep z0 s) (pcie : Bool) (eid : BitVec 8) :
    Kept z0 (execGetVersion pcie eid s) := by
  unfold execGetVersion
  rw [kept_next]
  exact keep_spdm hk _ _ _ _ _ fun c t ht hc he => keep_spdmSend (keep_setConn ht _ _ hc he.symm) ..

theorem keep_execGetCapabilities {z0 s : State} (hk : Keep z0 s) (pcie : Bool) (eid : BitVec 8) (body : List Byte) :
    Kept z0 (execGetCapabilities pcie eid body s) := by
  unfold execGetCapabilities
  rw [kept_next]
  exact keep_spdm hk _ _ _ _ _ fun c t ht hc _ => keep_spdmSend (keep_setConn ht _ c.eid hc (by rfl)) ..

theorem keep_execNegotiateAlgorithms {z0 s : State} (hk : Keep z0 s) (pcie : Bool) (eid : BitVec 8) (offers : Bool) (body : List Byte) :
    Kept z0 (execNegotiateAlgorithms pcie eid offers body s) := by
  unfold execNegotiateAlgorithms
  rw [kept_next]
  exact keep_spdm hk _ _ _ _ _ fun c t ht hc _ => keep_ite (fun _ => keep_spdmError ht ..) fun _ =>
    keep_spdmSend (keep_setConn ht _ c.eid hc (by rfl)) ..

theorem keep_execGetDigests {z0 s : State} (hk : Keep z0 s) (pcie : Bool) (eid : BitVec 8) :
    Kept z0 (execGetDigests pcie eid s) := by
  unfold execGetDigests
  rw [kept_next]
  exact keep_spdm hk _ _ _ _ _ fun c t ht hc _ => keep_spdmSend (keep_setConn ht _ c.eid hc (by rfl)) ..

theorem keep_execGetCertificate {z0 s : State} (hk : Keep z0 s) (pcie : Bool) (eid : BitVec 8) (slot : BitVec 8) (offset : BitVec 16) (len : BitVec 16) :
    Kept z0 (execGetCertificate pcie eid slot offset len s) := by
  unfold execGetCertificate
  rw [kept_next]
  exact keep_spdm hk _ _ _ _ _ fun c t ht hc _ => keep_ite (fun _ => keep_spdmError ht ..) fun _ =>
    keep_spdmSend (keep_setConn ht _ c.eid hc (by rfl)) ..

theorem keep_execChallenge {z0 s : State} (hk : Keep z0 s) (pcie : Bool) (eid : BitVec 8) (slot : BitVec 8) (body : List Byte) :
    Kept z0 (execChallenge pcie eid slot body s) := by
  unfold execChallenge
  rw [kept_next]
  exact keep_spdm hk _ _ _ _ _ fun c t ht hc _ => keep_ite (fun _ => keep_spdmError ht ..) fun _ =>
    keep_ite (fun _ => keep_spdmError ht ..) fun _ =>
      keep_spdmSend (keep_setConn (keep_draw (keep_inc (keep_draw (keep_draw ht)) ..)) _ c.eid hc (by rfl)) ..

theorem keep_execGetMeasurements {z0 s : State} (hk : Keep z0 s) (pcie : Bool) (eid : BitVec 8) (op : BitVec 8) (sign : Bool) (body : List Byte) :
    Kept z0 (execGetMeasurements pcie eid op sign body s) := by
  unfold execGetMeasurements
  rw [kept_next]
  exact keep_spdm hk _ _ _ _ _ fun c t ht hc _ => keep_ite (fun _ => keep_spdmError ht ..) fun _ =>
    keep_ite (fun _ => keep_spdmError ht ..) fun _ => keep_ite (fun _ => keep_spdmError ht ..) fun _ =>
      keep_ite (fun _ => keep_spdmSend (keep_setConn (keep_draw (keep_inc (keep_draw ht) ..)) _ c.eid hc (by rfl)) ..) fun _ =>
        keep_spdmSend (keep_setConn (keep_draw ht) _ c.eid hc (by rfl)) ..

theorem keep_execExtBegin {z0 s : State} (hk : Keep z0 s) (pcie : Bool) (slot : BitVec 8) :
    Kept z0 (execExtBegin pcie slot s) := by
  simp (maxDischargeDepth := 60) +contextual [execExtBegin, hk]

theorem keep_execExtData {z0 s : State} (hk : Keep z0 s) (pcie : Bool) (offset : BitVec 32) (bytes : List Byte) :
    Kept z0 (execExtData pcie offset bytes s) := by
  unfold execExtData
  rw [kept_next]
  refine keep_ite (fun _ => keep_inc hk ..) fun _ => keep_mctp hk _ _ fun t ht => ?_
  dsimp only
  split
  · exact keep_vendor ht ..
  · exact keep_ite (fun _ => keep_vendor ht ..) fun _ => keep_vendor (keep_setExtSeq (keep_setExtSlot ht ..) _) ..

theorem keep_execExtEnd {z0 s : State} (hk : Keep z0 s) (pcie : Bool) :
    Kept z0 (execExtEnd pcie s) := by
  unfold execExtEnd
  rw [kept_next]
  refine keep_mctp hk _ _ fun t ht => ?_
  split
  · exact keep_vendor ht ..
  · exact keep_vendor (keep_setExtSeq ht _) ..

theorem keep_execExtStatus {z0 s : State} (hk : Keep z0 s) (pcie : Bool) :
    Kept z0 (execExtStatus pcie s) := by
  simp (maxDischargeDepth := 60) +contextual [execExtStatus, hk]

theorem keep_execExtSequenceTimeout {z0 s : State} (hk : Keep z0 s)  :
    Kept z0 (execExtSequenceTimeout s) := by
  unfold execExtSequenceTimeout
  rw [kept_next]
  split
  · exact hk
  · exact keep_setExtSeq (keep_setExtSlot hk ..) _

theorem keep_execBypass {z0 s : State} (hk : Keep z0 s)  :
    Kept z0 (execBypass s) := by
  simp (maxDischargeDepth := 60) +contextual [execBypass, hk]

theorem keep_execIdcode {z0 s : State} (hk : Keep z0 s)  :
    Kept z0 (execIdcode s) := by
  simp (maxDischargeDepth := 60) +contextual [execIdcode, hk]

theorem keep_execSamplePreload {z0 s : State} (hk : Keep z0 s) (cells : List Bool) :
    Kept z0 (execSamplePreload cells s) := by
  unfold execSamplePreload
  rw [kept_next]
  exact keep_ite (fun _ => hk) fun _ => keep_draw (keep_emit (keep_test (keep_jtag hk JtagIr.samplePreload)
    { (s.jtag JtagIr.samplePreload).test with cells := cells } _ id) _)

theorem keep_execExtest {z0 s : State} (hk : Keep z0 s)  :
    Kept z0 (execExtest s) := by
  simp (maxDischargeDepth := 60) +contextual [execExtest, hk]

theorem keep_execClamp {z0 s : State} (hk : Keep z0 s)  :
    Kept z0 (execClamp s) := by
  simp (maxDischargeDepth := 60) +contextual [execClamp, hk]

theorem keep_execHighz {z0 s : State} (hk : Keep z0 s)  :
    Kept z0 (execHighz s) := by
  simp (maxDischargeDepth := 60) +contextual [execHighz, hk]

theorem keep_execDebugUnlockToken {z0 s : State} (hk : Keep z0 s) (token : List Byte) :
    Kept z0 (execDebugUnlockToken token s) := by
  unfold execDebugUnlockToken
  rw [kept_next]
  refine keep_ite (fun hc => keep_ite (fun _ => ?_) fun _ => keep_withNonce hk) fun _ => hk
  have hp : s.withNonce.perst = s.perst ∧ s.withNonce.part = s.part := by
    unfold State.withNonce
    split <;> exact ⟨rfl, rfl⟩
  refine keep_test (keep_withNonce hk) { s.withNonce.test with token := true } _ fun h => ⟨h.1, h.2.1, fun _ => ?_⟩
  simp only [Bool.and_eq_true, Bool.not_eq_true'] at hc
  exact ⟨hp.1.trans hc.1.2, (congrArg Part.debugDisable hp.2).trans hc.2⟩

theorem keep_execDebugPrivateInstruction {z0 s : State} (hk : Keep z0 s) (_code : BitVec 8) :
    Kept z0 (execDebugPrivateInstruction _code s) := by
  simp (maxDischargeDepth := 60) +contextual [execDebugPrivateInstruction, hk]

end Sys2Proof.Machine
end

