-- ==== Sys2Proof/Laws/KeepAccess.lean ====
section
/-! SUPPORT. What the operations and commands of Machine/Access.lean keep. -/

namespace Sys2Proof.Machine

@[simp] theorem keep_msixWrite {z0 s : State} (hk : Keep z0 s) (a : Nat) (v : Word) :
    Keep z0 (State.msixWrite s a v) := by
  simp (maxDischargeDepth := 60) +contextual [State.msixWrite, hk]

@[simp] theorem keep_armWrite {z0 s : State} (hk : Keep z0 s) (die : Nat) (v : Word) :
    Keep z0 (State.armWrite s die v) := by
  simp (maxDischargeDepth := 60) +contextual [State.armWrite, hk]

@[simp] theorem keep_trainWrite {z0 s : State} (hk : Keep z0 s) (p : Nat) (v : Word) :
    Keep z0 (State.trainWrite s p v) := by
  simp (maxDischargeDepth := 60) +contextual [State.trainWrite, hk]

@[simp] theorem keep_writeWord {z0 s : State} (hk : Keep z0 s) (a : Nat) (v : Word) :
    Keep z0 (State.writeWord s a v) := by
  unfold State.writeWord
  dsimp only
  repeat' split
  all_goals simp (maxDischargeDepth := 60) [*]

@[simp] theorem keep_write32 {z0 s : State} (hk : Keep z0 s) (ext : Bool) (a : Nat) (v : Word) :
    Keep z0 (State.write32 s ext a v) := by
  simp (maxDischargeDepth := 60) +contextual [State.write32, hk]

@[simp] theorem keep_readWord {z0 s : State} (hk : Keep z0 s) (a : Nat) (n : Nat) :
    Keep z0 (State.readWord s a n).1 := by
  unfold State.readWord
  dsimp only
  repeat' split
  all_goals simp (maxDischargeDepth := 60) [*]

@[simp] theorem keep_readWords {z0 s : State} (hk : Keep z0 s) (a n i : Nat) : Keep z0 (State.readWords s a n i).1 := by
  induction n generalizing s a i with
  | zero => exact hk
  | succ n ih =>
    simp only [State.readWords]
    exact ih (by split; exact hk; exact keep_readWord hk ..) _ _

theorem keep_execRegisterWrite {z0 s : State} (hk : Keep z0 s) (ext : Bool) (addr : BitVec 26) (width : Width) (value : BitVec 64) :
    Kept z0 (execRegisterWrite ext addr width value s) := by
  simp (maxDischargeDepth := 60) +contextual [execRegisterWrite, hk]

theorem keep_execRegisterReadLatch {z0 s : State} (hk : Keep z0 s) (addr : BitVec 26) (bytes : BitVec 8) :
    Kept z0 (execRegisterReadLatch addr bytes s) := by
  unfold execRegisterReadLatch
  dsimp only
  repeat' split
  all_goals simp (maxDischargeDepth := 60) [*]

end Sys2Proof.Machine
end

