-- ==== Sys2Proof/Laws/KeepClock.lean ====
section
/-! SUPPORT. What the operations and commands of Machine/Clock.lean keep. -/

namespace Sys2Proof.Machine

@[simp] theorem keep_idle {z0 s : State} (hk : Keep z0 s)  :
    Keep z0 (State.idle s) := by
  simp (maxDischargeDepth := 60) +contextual [State.idle, hk]

end Sys2Proof.Machine
end

