-- ==== Sys2Proof/Laws/Replies.lean ====
section
/-! SUPPORT. What the operations that end a ring command leave alone: OnlyReplies (Safety.lean) of each. -/

namespace Sys2Proof.Machine

theorem replies_refl (R : Nat → Bool) (s : State) : OnlyReplies R s s := ⟨fun _ _ _ => rfl, rfl⟩

theorem replies_trans {R : Nat → Bool} {a s t : State} (h : OnlyReplies R a s) (h' : OnlyReplies R s t) : OnlyReplies R a t :=
  ⟨fun x hx hy => (h'.regs x hx hy).trans (h.regs x hx hy), by rw [h'.rest, h.rest]⟩

@[simp] theorem replies_foldl {R : Nat → Bool} {α : Type} {a s : State} (h : OnlyReplies R a s) (l : List α) (f : State → α → State)
    (hf : ∀ t x, x ∈ l → OnlyReplies R a t → OnlyReplies R a (f t x)) : OnlyReplies R a (l.foldl f s) := by
  induction l generalizing s with
  | nil => exact h
  | cons x l ih => exact ih (hf s x (List.mem_cons_self ..) h) fun t y hy => hf t y (List.mem_cons_of_mem _ hy)

@[simp] theorem replies_ite {R : Nat → Bool} {a s t : State} {c : Prop} [Decidable c] (h : c → OnlyReplies R a s) (h' : ¬c → OnlyReplies R a t) :
    OnlyReplies R a (if c then s else t) := by
  split
  · exact h ‹_›
  · exact h' ‹_›

@[simp] theorem replies_forN {R : Nat → Bool} {a s : State} (h : OnlyReplies R a s) (n : Nat) (f : Nat → State → State)
    (hf : ∀ i t, i < n → OnlyReplies R a t → OnlyReplies R a (f i t)) : OnlyReplies R a (s.forN n f) :=
  replies_foldl h _ _ fun t i hi ht => hf i t (List.mem_range.1 hi) ht

@[simp] theorem replies_with {R : Nat → Bool} {a s : State} (h : OnlyReplies R a s) (v52 : List Nat) (v23 : Bool) (v24 : Bool) (v26 : Table Nat) (v27 : List Nat) (v70 : List Out) (v28 : Table (Option Ring)) (v30 : List Cmd) :
    OnlyReplies R a (State.mk s.regs s.shadows s.snaps s.latch s.mem s.badPairs s.ueHits s.pages s.tlb s.tlbBad s.removals s.removed s.restores s.ceSeen s.hbmHot s.hbmMiss s.scrubPos s.bridgeCe s.arms s.silent s.ports s.links s.grid v23 v24 s.msix v26 v27 v28 s.kickRun v30 s.queue s.run s.save s.nextStep s.modeReq s.modeRevert s.admitting s.img s.tableOwner s.suspOwner s.lastRun s.suspendNext s.faultOs s.pinFault s.sensorQ s.arrays s.xpbs s.units s.scale s.stepStat s.scaleJob v52 s.irqHeld s.samplers s.cycAcc s.cycFrom s.winEnd s.edges s.hostGo s.supplied s.readyDue s.perst s.brakePin s.pwr s.part s.idKey s.mgt s.test s.fresh v70 s.pending) :=
  ⟨fun x hx hy => h.regs x hx hy, by rw [h.rest]⟩

theorem replies_wr {R : Nat → Bool} {a s : State} (h : OnlyReplies R a s) (x : Nat) (v : Word) (hx : R x = true ∨ replyReg x = true) :
    OnlyReplies R a (s.wr x v) :=
  ⟨fun y hy hz => (rd_wr_ne s x y v fun e => by subst e; rcases hx with hx | hx <;> simp_all).trans (h.regs y hy hz),
    by rw [h.rest]; rfl⟩

@[simp] theorem replies_p {R : Nat → Bool} {a s : State} (h : OnlyReplies R a s) (b : Blk) (f : Fld) (v : Nat)
    (hb : R (b.base + f.off) = true ∨ replyReg (b.base + f.off) = true) : OnlyReplies R a (s.p b f v) := replies_wr h _ _ hb

@[simp] theorem replies_pb {R : Nat → Bool} {a s : State} (h : OnlyReplies R a s) (b : Blk) (f : Fld) (v : Bool)
    (hb : R (b.base + f.off) = true ∨ replyReg (b.base + f.off) = true) : OnlyReplies R a (s.pb b f v) := replies_wr h _ _ hb

@[simp] theorem replies_inc {R : Nat → Bool} {a s : State} (h : OnlyReplies R a s) (b : Blk) (f : Fld) (n : Nat)
    (hb : R (b.base + f.off) = true ∨ replyReg (b.base + f.off) = true) : OnlyReplies R a (s.inc b f n) := replies_wr h _ _ hb

@[simp] theorem replies_line {R : Nat → Bool} {z0 s : State} (hk : OnlyReplies R z0 s) (die : Nat) (src : Nat) :
    OnlyReplies R z0 (State.line s die src) := by
  simp (maxDischargeDepth := 60) +contextual [reportReg, Blk.base, replyReg, State.line, State.forN, hk]

@[simp] theorem replies_emit {R : Nat → Bool} {z0 s : State} (hk : OnlyReplies R z0 s) (o : Out) :
    OnlyReplies R z0 (State.emit s o) := by
  simp (maxDischargeDepth := 60) +contextual [reportReg, Blk.base, replyReg, State.emit, State.forN, hk]

@[simp] theorem replies_sendMsix {R : Nat → Bool} {z0 s : State} (hk : OnlyReplies R z0 s) (v : Nat) :
    OnlyReplies R z0 (State.sendMsix s v) := by
  unfold State.sendMsix
  dsimp only
  split
  · exact hk
  · have e : v / 32 = 0 ∨ v / 32 = 1 := by omega
    have w := replies_wr hk (Blk.hst.base + 0x9000 + 4 * (v / 32))
      (s.rd (Blk.hst.base + 0x9000 + 4 * (v / 32)) ||| (1 <<< (v % 32)))
      (.inr (by rcases e with e | e <;> rw [e] <;> decide))
    split
    · exact w
    · split <;> simp (maxDischargeDepth := 60) [hk]

@[simp] theorem replies_evtWrite {R : Nat → Bool} {z0 s : State} (hk : OnlyReplies R z0 s) (e : Event) :
    OnlyReplies R z0 (State.evtWrite s e) := by
  simp (maxDischargeDepth := 60) +contextual [reportReg, Blk.base, replyReg, F.DEV_EVT_BASE_HI_BASE_HI, F.DEV_EVT_BASE_LO_BASE_LO, F.DEV_EVT_HEAD_HEAD, State.evtWrite, State.forN, hk]

@[simp] theorem replies_evtSettle {R : Nat → Bool} {z0 s : State} (hk : OnlyReplies R z0 s)  :
    OnlyReplies R z0 (State.evtSettle s) := by
  simp (maxDischargeDepth := 60) +contextual [reportReg, Blk.base, replyReg, F.DEV_EVT_STATUS_DROPPED, F.DEV_EVT_STATUS_OVERFLOW, State.evtSettle, State.forN, hk]

@[simp] theorem replies_event {R : Nat → Bool} {z0 s : State} (hk : OnlyReplies R z0 s) (e : Event) :
    OnlyReplies R z0 (State.event s e) := by
  simp (maxDischargeDepth := 60) +contextual [reportReg, Blk.base, replyReg, F.DEV_EVT_STATUS_DROPPED, F.DEV_EVT_STATUS_OVERFLOW, F.IRQ_HOST_EVT_EVT_VECTOR, F.IRQ_HOST_EVT_MIN_CLASS, State.event, State.forN, hk]

@[simp] theorem replies_setRing {R : Nat → Bool} {z0 s : State} (hk : OnlyReplies R z0 s) (i : Nat) (r : Option Ring) :
    OnlyReplies R z0 (State.setRing s i r) := by
  unfold State.setRing
  dsimp only
  exact replies_with (replies_p hk _ _ _ (.inr (by split <;> decide))) ..

@[simp] theorem replies_cqWrite {R : Nat → Bool} {z0 s : State} (hk : OnlyReplies R z0 s) (i : Nat) (r : Ring) (c : Completion) :
    OnlyReplies R z0 (State.cqWrite s i r c) := by
  simp (maxDischargeDepth := 60) +contextual [reportReg, Blk.base, replyReg, State.cqWrite, State.forN, hk]

@[simp] theorem replies_postTo {R : Nat → Bool} {z0 s : State} (hk : OnlyReplies R z0 s) (i : Nat) (c : Completion) :
    OnlyReplies R z0 (State.postTo s i c) := by
  unfold State.postTo
  split
  · exact hk
  · exact replies_ite (fun _ => hk) fun _ => replies_ite (fun _ => replies_setRing hk ..) fun _ => replies_cqWrite hk ..

@[simp] theorem replies_agentsReport {R : Nat → Bool} {z0 s : State} (hk : OnlyReplies R z0 s)  :
    OnlyReplies R z0 (State.agentsReport s) := by
  simp (maxDischargeDepth := 60) +contextual [reportReg, Blk.base, replyReg, State.agentsReport, State.forN, hk]

@[simp] theorem replies_ringFree {R : Nat → Bool} {z0 s : State} (hk : OnlyReplies R z0 s) (i : Nat) :
    OnlyReplies R z0 (State.ringFree s i) := by
  unfold State.ringFree
  split
  · exact hk
  · exact replies_setRing hk ..

@[simp] theorem replies_complete {R : Nat → Bool} {z0 s : State} (hk : OnlyReplies R z0 s) (c : Cmd) (status result : Nat) :
    OnlyReplies R z0 (State.complete s c status result) := by
  have h1 := replies_ringFree (replies_inc (replies_agentsReport hk) .hst F.HST_CMDS_COUNT 1 (.inr (by decide))) c.ring
  have h2 : OnlyReplies R z0 { (s.agentsReport.inc .hst F.HST_CMDS_COUNT 1).ringFree c.ring with
      cmds := ((s.agentsReport.inc .hst F.HST_CMDS_COUNT 1).ringFree c.ring).cmds.filter (· != c) } := replies_with h1 ..
  exact replies_ite (fun _ => h2) fun _ => replies_postTo h2 ..

@[simp] theorem replies_refuse {R : Nat → Bool} {z0 s : State} (hk : OnlyReplies R z0 s) (c : Cmd) (code : Nat) :
    OnlyReplies R z0 (State.refuse s c code) := by
  simp (maxDischargeDepth := 60) +contextual [reportReg, Blk.base, replyReg, State.refuse, State.forN, hk]

@[simp] theorem replies_hostErr {R : Nat → Bool} {z0 s : State} (hk : OnlyReplies R z0 s) (code ring : Nat) :
    OnlyReplies R z0 (State.hostErr s code ring) := by
  unfold State.hostErr
  refine replies_event (replies_line (replies_p (replies_p (replies_p hk _ _ _ ?_) _ _ _ ?_) _ _ _ ?_) _ _) _
  all_goals exact .inr (by decide)

@[simp] theorem replies_addressFail {R : Nat → Bool} {z0 s : State} (hk : OnlyReplies R z0 s) (c : Cmd) (e : HostErr) :
    OnlyReplies R z0 (State.addressFail s c e) := by
  simp (maxDischargeDepth := 60) +contextual [reportReg, Blk.base, replyReg, State.addressFail, State.forN, hk]

@[simp] theorem replies_setCmd {R : Nat → Bool} {z0 s : State} (hk : OnlyReplies R z0 s) (c : Cmd) (c' : Cmd) :
    OnlyReplies R z0 (State.setCmd s c c') := by
  simp (maxDischargeDepth := 60) +contextual [reportReg, Blk.base, replyReg, State.setCmd, State.forN, hk]

end Sys2Proof.Machine
end

