-- ==== Sys2Proof/Laws/Reports.lean ====
section
/-! SUPPORT. What the operations that report to the host leave alone: OnlyReports (Safety.lean) of each. -/

namespace Sys2Proof.Machine

theorem reports_refl (R : Nat → Bool) (s : State) : OnlyReports R s s := ⟨fun _ _ _ => rfl, rfl⟩

theorem reports_trans {R : Nat → Bool} {a s t : State} (h : OnlyReports R a s) (h' : OnlyReports R s t) : OnlyReports R a t :=
  ⟨fun x hx hy => (h'.regs x hx hy).trans (h.regs x hx hy), by rw [h'.rest, h.rest]⟩

@[simp] theorem reports_foldl {R : Nat → Bool} {α : Type} {a s : State} (h : OnlyReports R a s) (l : List α) (f : State → α → State)
    (hf : ∀ t x, x ∈ l → OnlyReports R a t → OnlyReports R a (f t x)) : OnlyReports R a (l.foldl f s) := by
  induction l generalizing s with
  | nil => exact h
  | cons x l ih => exact ih (hf s x (List.mem_cons_self ..) h) fun t y hy => hf t y (List.mem_cons_of_mem _ hy)

@[simp] theorem reports_ite {R : Nat → Bool} {a s t : State} {c : Prop} [Decidable c] (h : c → OnlyReports R a s) (h' : ¬c → OnlyReports R a t) :
    OnlyReports R a (if c then s else t) := by
  split
  · exact h ‹_›
  · exact h' ‹_›

@[simp] theorem reports_forN {R : Nat → Bool} {a s : State} (h : OnlyReports R a s) (n : Nat) (f : Nat → State → State)
    (hf : ∀ i t, i < n → OnlyReports R a t → OnlyReports R a (f i t)) : OnlyReports R a (s.forN n f) :=
  reports_foldl h _ _ fun t i hi ht => hf i t (List.mem_range.1 hi) ht

@[simp] theorem reports_with {R : Nat → Bool} {a s : State} (h : OnlyReports R a s) (v52 : List Nat) (v23 : Bool) (v24 : Bool) (v26 : Table Nat) (v27 : List Nat) (v70 : List Out) :
    OnlyReports R a (State.mk s.regs s.shadows s.snaps s.latch s.mem s.badPairs s.ueHits s.pages s.tlb s.tlbBad s.removals s.removed s.restores s.ceSeen s.hbmHot s.hbmMiss s.scrubPos s.bridgeCe s.arms s.silent s.ports s.links s.grid v23 v24 s.msix v26 v27 s.rings s.kickRun s.cmds s.queue s.run s.save s.nextStep s.modeReq s.modeRevert s.admitting s.img s.tableOwner s.suspOwner s.lastRun s.suspendNext s.faultOs s.pinFault s.sensorQ s.arrays s.xpbs s.units s.scale s.stepStat s.scaleJob v52 s.irqHeld s.samplers s.cycAcc s.cycFrom s.winEnd s.edges s.hostGo s.supplied s.readyDue s.perst s.brakePin s.pwr s.part s.idKey s.mgt s.test s.fresh v70 s.pending) :=
  ⟨fun x hx hy => h.regs x hx hy, by rw [h.rest]⟩

theorem reports_wr {R : Nat → Bool} {a s : State} (h : OnlyReports R a s) (x : Nat) (v : Word) (hx : R x = true ∨ reportReg x = true) :
    OnlyReports R a (s.wr x v) :=
  ⟨fun y hy hz => (rd_wr_ne s x y v fun e => by subst e; rcases hx with hx | hx <;> simp_all).trans (h.regs y hy hz),
    by rw [h.rest]; rfl⟩

@[simp] theorem reports_p {R : Nat → Bool} {a s : State} (h : OnlyReports R a s) (b : Blk) (f : Fld) (v : Nat)
    (hb : R (b.base + f.off) = true ∨ reportReg (b.base + f.off) = true) : OnlyReports R a (s.p b f v) := reports_wr h _ _ hb

@[simp] theorem reports_pb {R : Nat → Bool} {a s : State} (h : OnlyReports R a s) (b : Blk) (f : Fld) (v : Bool)
    (hb : R (b.base + f.off) = true ∨ reportReg (b.base + f.off) = true) : OnlyReports R a (s.pb b f v) := reports_wr h _ _ hb

@[simp] theorem reports_inc {R : Nat → Bool} {a s : State} (h : OnlyReports R a s) (b : Blk) (f : Fld) (n : Nat)
    (hb : R (b.base + f.off) = true ∨ reportReg (b.base + f.off) = true) : OnlyReports R a (s.inc b f n) := reports_wr h _ _ hb

@[simp] theorem reports_line {R : Nat → Bool} {z0 s : State} (hk : OnlyReports R z0 s) (die : Nat) (src : Nat) :
    OnlyReports R z0 (State.line s die src) := by
  simp (maxDischargeDepth := 60) +contextual [reportReg, Blk.base, State.line, State.forN, hk]

@[simp] theorem reports_emit {R : Nat → Bool} {z0 s : State} (hk : OnlyReports R z0 s) (o : Out) :
    OnlyReports R z0 (State.emit s o) := by
  simp (maxDischargeDepth := 60) +contextual [reportReg, Blk.base, State.emit, State.forN, hk]

@[simp] theorem reports_sendMsix {R : Nat → Bool} {z0 s : State} (hk : OnlyReports R z0 s) (v : Nat) :
    OnlyReports R z0 (State.sendMsix s v) := by
  unfold State.sendMsix
  dsimp only
  split
  · exact hk
  · have e : v / 32 = 0 ∨ v / 32 = 1 := by omega
    have w := reports_wr hk (Blk.hst.base + 0x9000 + 4 * (v / 32))
      (s.rd (Blk.hst.base + 0x9000 + 4 * (v / 32)) ||| (1 <<< (v % 32)))
      (.inr (by rcases e with e | e <;> rw [e] <;> decide))
    split
    · exact w
    · split <;> simp (maxDischargeDepth := 60) [hk]

@[simp] theorem reports_evtWrite {R : Nat → Bool} {z0 s : State} (hk : OnlyReports R z0 s) (e : Event) :
    OnlyReports R z0 (State.evtWrite s e) := by
  simp (maxDischargeDepth := 60) +contextual [reportReg, Blk.base, F.DEV_EVT_BASE_HI_BASE_HI, F.DEV_EVT_BASE_LO_BASE_LO, F.DEV_EVT_HEAD_HEAD, State.evtWrite, State.forN, hk]

@[simp] theorem reports_evtSettle {R : Nat → Bool} {z0 s : State} (hk : OnlyReports R z0 s)  :
    OnlyReports R z0 (State.evtSettle s) := by
  simp (maxDischargeDepth := 60) +contextual [reportReg, Blk.base, F.DEV_EVT_STATUS_DROPPED, F.DEV_EVT_STATUS_OVERFLOW, State.evtSettle, State.forN, hk]

@[simp] theorem reports_event {R : Nat → Bool} {z0 s : State} (hk : OnlyReports R z0 s) (e : Event) :
    OnlyReports R z0 (State.event s e) := by
  simp (maxDischargeDepth := 60) +contextual [reportReg, Blk.base, F.DEV_EVT_STATUS_DROPPED, F.DEV_EVT_STATUS_OVERFLOW, F.IRQ_HOST_EVT_EVT_VECTOR, F.IRQ_HOST_EVT_MIN_CLASS, State.event, State.forN, hk]

@[simp] theorem reports_unitErr {R : Nat → Bool} {z0 s : State} (hk : OnlyReports R z0 s) (b : Blk) (inst : Nat) (cls : Nat) (code : Nat) (slot : Nat) :
    OnlyReports R z0 (State.unitErr s b inst cls code slot) := by
  simp (maxDischargeDepth := 60) +contextual [reportReg, Blk.base, State.unitErr, State.forN, hk]

end Sys2Proof.Machine
end

