-- ==== Sys2Proof/Laws/Posting.lean ====
section
/-! SUPPORT. When an event entry and a completion entry leave the device: Logged and Posted of Safety.lean for the operations
that make them, and how a ring's command starts. -/

namespace Sys2Proof.Machine

theorem suffix_mem {l m : List Out} {o : Out} (h : o ∈ l) (hs : l <:+ m) : o ∈ m := hs.subset h

/-- What an operation that keeps has sent stays sent. -/
theorem Logged.mono {s t u : State} {e : Event} (h : Logged s e t) (hs : t.out <:+ u.out) : Logged s e u :=
  fun a b c d => suffix_mem (h a b c d) hs

theorem Posted.mono {s t u : State} {c : Cmd} {x y : Nat} (h : Posted s c x y t) (hs : t.out <:+ u.out) : Posted s c x y u :=
  fun r a b d e f g => suffix_mem (h r a b d e f g) hs

/-- An event finds its place from a state that differs nowhere that the event ring's entry comes from. -/
theorem Logged.from {s t u : State} {e : Event} (h : Logged t e u)
    (hr : ∀ a ∈ [0x020000, 0x010000, 0x000044, 0x000048, 0x00004C, 0x000050, 0x000058], t.rd a = s.rd a)
    (hp : t.evtPhase = s.evtPhase) (ho : t.evtOwed = s.evtOwed) (hg : t.grid = s.grid) : Logged s e u := by
  have h0 := hr 0x020000 (by decide)
  have h1 := hr 0x010000 (by decide)
  have h2 := hr 0x000044 (by decide)
  have h3 := hr 0x000048 (by decide)
  have h4 := hr 0x00004C (by decide)
  have h5 := hr 0x000050 (by decide)
  have h6 := hr 0x000058 (by decide)
  intro a b c d
  have e1 : t.hostUp = s.hostUp := by simp [State.hostUp, State.g, Blk.base, F.HST_STATUS_GEN, h0]
  have e2 : t.evtEntries = s.evtEntries := by simp [State.evtEntries, State.g, Blk.base, F.DEV_EVT_SIZE_ENTRIES, h3]
  have e3 : t.evtFull = s.evtFull := by
    simp [State.evtFull, e2, State.g, Blk.base, F.DEV_EVT_HEAD_HEAD, F.DEV_EVT_TAIL_TAIL, h4, h5]
  have e4 : t.knotNow = s.knotNow := by
    simp [State.knotNow, State.g, Blk.base, F.GRID_STATUS_LOCK_STATE, h1, hg]
  have e5 : t.g2 .dev F.DEV_EVT_BASE_LO_BASE_LO F.DEV_EVT_BASE_HI_BASE_HI
      = s.g2 .dev F.DEV_EVT_BASE_LO_BASE_LO F.DEV_EVT_BASE_HI_BASE_HI := by
    simp [State.g2, State.g, Blk.base, F.DEV_EVT_BASE_LO_BASE_LO, F.DEV_EVT_BASE_HI_BASE_HI, h2, h6]
  have e6 : t.g .dev F.DEV_EVT_HEAD_HEAD = s.g .dev F.DEV_EVT_HEAD_HEAD := by
    simp [State.g, Blk.base, F.DEV_EVT_HEAD_HEAD, h4]
  have := h (e1 ▸ a) (e2 ▸ b) (e3 ▸ c) (ho ▸ d)
  rw [e4, e5, e6, hp, hg] at this
  exact this

/-- An event is logged where the ring takes it. -/
theorem logged_event (s : State) (e : Event) : Logged s e (s.event e) := by
  intro a b c d
  have w : Out.hostWrite (s.g2 .dev F.DEV_EVT_BASE_LO_BASE_LO F.DEV_EVT_BASE_HI_BASE_HI + 32 * s.g .dev F.DEV_EVT_HEAD_HEAD)
      (eventBytes s.evtPhase s.grid.time s.knotNow e) ∈ (s.evtWrite e).out := by
    simp [State.evtWrite, State.emit, a, State.line, State.p, State.wr]
  have st : s.evtSettle = s := by simp [State.evtSettle, d]
  unfold State.event
  simp only [b, if_false, st, c]
  split
  · exact absurd ‹_› (by simp)
  · split
    · exact suffix_mem w (keep_sendMsix (keep_refl _) _).out
    · exact w

theorem ring_setRing_self (s : State) (i : Nat) (r : Ring) : (s.setRing i (some r)).ring i = some r := by
  show tget none (tput none s.rings i (some r)) i = some r
  rw [tget_tput, if_pos rfl]

theorem hostUp_setRing (s : State) (i : Nat) (r : Option Ring) : (s.setRing i r).hostUp = s.hostUp := by
  unfold State.setRing
  dsimp only
  show State.hostUp (State.p _ _ _ _) = _
  unfold State.hostUp
  rw [g_p_ne _ _ _ _ _ (.inl (by split <;> decide))]

/-- A ring that takes a completion at once writes it at the CQ tail. -/
theorem postTo_posts (s : State) (i : Nat) (c : Completion) (r : Ring) (hr : s.ring i = some r) (hs : r.stopped = false)
    (hf : r.full = false) (hd : r.deferred = []) (hu : s.hostUp = true) :
    Out.hostWrite (r.cqBase + 16 * r.cqTail) (completionBytes r.phase c) ∈ (s.postTo i c).out := by
  unfold State.postTo
  rw [hr]
  simp only [hs, hf, hd, Bool.false_eq_true, if_false, List.isEmpty_nil, Bool.not_true, Bool.or_self]
  unfold State.cqWrite
  refine suffix_mem ?_ (keep_sendMsix (keep_setRing (keep_refl _) _ _) _).out
  simp only [State.emit, hu]
  exact List.mem_cons_self ..

/-- A completion is posted where the ring takes it. -/
theorem posted_complete (s : State) (c : Cmd) (status result : Nat) : Posted s c status result (s.complete c status result) := by
  intro r hr hs hf hd hc hu
  have h1 : (s.agentsReport.inc .hst F.HST_CMDS_COUNT 1).hostUp = s.hostUp := by
    unfold State.agentsReport
    split <;> simp [State.hostUp, State.inc, State.line,
      g_p_ne _ _ _ _ _ (show F.HST_STATUS_GEN.off ≠ F.HST_CMDS_COUNT.off ∨ _ from .inl (by decide))] <;> rfl
  have h4 : (s.agentsReport.inc .hst F.HST_CMDS_COUNT 1).ring c.ring = some r := by
    rw [← hr]
    unfold State.agentsReport
    split <;> rfl
  unfold State.complete
  generalize s.agentsReport.inc .hst F.HST_CMDS_COUNT 1 = x at h1 h4
  have h5 : (x.ringFree c.ring).ring c.ring = some { r with doneAt := some x.grid.time } := by
    unfold State.ringFree
    rw [h4]
    exact ring_setRing_self ..
  have h6 : (x.ringFree c.ring).hostUp = true := by
    unfold State.ringFree
    rw [h4]
    exact (hostUp_setRing ..).trans (h1.trans hu)
  generalize x.ringFree c.ring = y at h5 h6
  dsimp only
  rw [if_neg (by simp [hc])]
  exact postTo_posts { y with cmds := y.cmds.filter (· != c) } c.ring _ { r with doneAt := some x.grid.time } h5 hs hf hd h6

/-- A completion finds its ring from a state with the same ring and the same link. -/
theorem Posted.from {s t u : State} {c : Cmd} {x y : Nat} (h : Posted t c x y u) (hr : t.ring c.ring = s.ring c.ring)
    (hu : t.hostUp = s.hostUp) : Posted s c x y u :=
  fun r a b d e f g => h r (hr ▸ a) b d e f (hu ▸ g)

end Sys2Proof.Machine
end

