-- ==== Sys2Proof/Laws/State.lean ====
section
/-! SUPPORT. Field by field, what the plainest updates of the state leave as it was: each is the record update of one field
(registers, memory, the supply of free values, interrupt lines, ports, arrays, transposing buffers). -/

namespace Sys2Proof.Machine

/-! ### State.wr: a register word is written -/

@[simp] theorem State.wr_shadows (s : State) (a : Nat) (v : Word) : (s.wr a v).shadows = s.shadows := rfl
@[simp] theorem State.wr_snaps (s : State) (a : Nat) (v : Word) : (s.wr a v).snaps = s.snaps := rfl
@[simp] theorem State.wr_latch (s : State) (a : Nat) (v : Word) : (s.wr a v).latch = s.latch := rfl
@[simp] theorem State.wr_mem (s : State) (a : Nat) (v : Word) : (s.wr a v).mem = s.mem := rfl
@[simp] theorem State.wr_badPairs (s : State) (a : Nat) (v : Word) : (s.wr a v).badPairs = s.badPairs := rfl
@[simp] theorem State.wr_ueHits (s : State) (a : Nat) (v : Word) : (s.wr a v).ueHits = s.ueHits := rfl
@[simp] theorem State.wr_pages (s : State) (a : Nat) (v : Word) : (s.wr a v).pages = s.pages := rfl
@[simp] theorem State.wr_tlb (s : State) (a : Nat) (v : Word) : (s.wr a v).tlb = s.tlb := rfl
@[simp] theorem State.wr_tlbBad (s : State) (a : Nat) (v : Word) : (s.wr a v).tlbBad = s.tlbBad := rfl
@[simp] theorem State.wr_removals (s : State) (a : Nat) (v : Word) : (s.wr a v).removals = s.removals := rfl
@[simp] theorem State.wr_removed (s : State) (a : Nat) (v : Word) : (s.wr a v).removed = s.removed := rfl
@[simp] theorem State.wr_restores (s : State) (a : Nat) (v : Word) : (s.wr a v).restores = s.restores := rfl
@[simp] theorem State.wr_ceSeen (s : State) (a : Nat) (v : Word) : (s.wr a v).ceSeen = s.ceSeen := rfl
@[simp] theorem State.wr_hbmHot (s : State) (a : Nat) (v : Word) : (s.wr a v).hbmHot = s.hbmHot := rfl
@[simp] theorem State.wr_hbmMiss (s : State) (a : Nat) (v : Word) : (s.wr a v).hbmMiss = s.hbmMiss := rfl
@[simp] theorem State.wr_scrubPos (s : State) (a : Nat) (v : Word) : (s.wr a v).scrubPos = s.scrubPos := rfl
@[simp] theorem State.wr_bridgeCe (s : State) (a : Nat) (v : Word) : (s.wr a v).bridgeCe = s.bridgeCe := rfl
@[simp] theorem State.wr_arms (s : State) (a : Nat) (v : Word) : (s.wr a v).arms = s.arms := rfl
@[simp] theorem State.wr_silent (s : State) (a : Nat) (v : Word) : (s.wr a v).silent = s.silent := rfl
@[simp] theorem State.wr_ports (s : State) (a : Nat) (v : Word) : (s.wr a v).ports = s.ports := rfl
@[simp] theorem State.wr_links (s : State) (a : Nat) (v : Word) : (s.wr a v).links = s.links := rfl
@[simp] theorem State.wr_grid (s : State) (a : Nat) (v : Word) : (s.wr a v).grid = s.grid := rfl
@[simp] theorem State.wr_evtPhase (s : State) (a : Nat) (v : Word) : (s.wr a v).evtPhase = s.evtPhase := rfl
@[simp] theorem State.wr_evtOwed (s : State) (a : Nat) (v : Word) : (s.wr a v).evtOwed = s.evtOwed := rfl
@[simp] theorem State.wr_msix (s : State) (a : Nat) (v : Word) : (s.wr a v).msix = s.msix := rfl
@[simp] theorem State.wr_msixLast (s : State) (a : Nat) (v : Word) : (s.wr a v).msixLast = s.msixLast := rfl
@[simp] theorem State.wr_msixHeld (s : State) (a : Nat) (v : Word) : (s.wr a v).msixHeld = s.msixHeld := rfl
@[simp] theorem State.wr_rings (s : State) (a : Nat) (v : Word) : (s.wr a v).rings = s.rings := rfl
@[simp] theorem State.wr_kickRun (s : State) (a : Nat) (v : Word) : (s.wr a v).kickRun = s.kickRun := rfl
@[simp] theorem State.wr_cmds (s : State) (a : Nat) (v : Word) : (s.wr a v).cmds = s.cmds := rfl
@[simp] theorem State.wr_queue (s : State) (a : Nat) (v : Word) : (s.wr a v).queue = s.queue := rfl
@[simp] theorem State.wr_run (s : State) (a : Nat) (v : Word) : (s.wr a v).run = s.run := rfl
@[simp] theorem State.wr_save (s : State) (a : Nat) (v : Word) : (s.wr a v).save = s.save := rfl
@[simp] theorem State.wr_nextStep (s : State) (a : Nat) (v : Word) : (s.wr a v).nextStep = s.nextStep := rfl
@[simp] theorem State.wr_modeReq (s : State) (a : Nat) (v : Word) : (s.wr a v).modeReq = s.modeReq := rfl
@[simp] theorem State.wr_modeRevert (s : State) (a : Nat) (v : Word) : (s.wr a v).modeRevert = s.modeRevert := rfl
@[simp] theorem State.wr_admitting (s : State) (a : Nat) (v : Word) : (s.wr a v).admitting = s.admitting := rfl
@[simp] theorem State.wr_img (s : State) (a : Nat) (v : Word) : (s.wr a v).img = s.img := rfl
@[simp] theorem State.wr_tableOwner (s : State) (a : Nat) (v : Word) : (s.wr a v).tableOwner = s.tableOwner := rfl
@[simp] theorem State.wr_suspOwner (s : State) (a : Nat) (v : Word) : (s.wr a v).suspOwner = s.suspOwner := rfl
@[simp] theorem State.wr_lastRun (s : State) (a : Nat) (v : Word) : (s.wr a v).lastRun = s.lastRun := rfl
@[simp] theorem State.wr_suspendNext (s : State) (a : Nat) (v : Word) : (s.wr a v).suspendNext = s.suspendNext := rfl
@[simp] theorem State.wr_faultOs (s : State) (a : Nat) (v : Word) : (s.wr a v).faultOs = s.faultOs := rfl
@[simp] theorem State.wr_pinFault (s : State) (a : Nat) (v : Word) : (s.wr a v).pinFault = s.pinFault := rfl
@[simp] theorem State.wr_sensorQ (s : State) (a : Nat) (v : Word) : (s.wr a v).sensorQ = s.sensorQ := rfl
@[simp] theorem State.wr_arrays (s : State) (a : Nat) (v : Word) : (s.wr a v).arrays = s.arrays := rfl
@[simp] theorem State.wr_xpbs (s : State) (a : Nat) (v : Word) : (s.wr a v).xpbs = s.xpbs := rfl
@[simp] theorem State.wr_units (s : State) (a : Nat) (v : Word) : (s.wr a v).units = s.units := rfl
@[simp] theorem State.wr_scale (s : State) (a : Nat) (v : Word) : (s.wr a v).scale = s.scale := rfl
@[simp] theorem State.wr_stepStat (s : State) (a : Nat) (v : Word) : (s.wr a v).stepStat = s.stepStat := rfl
@[simp] theorem State.wr_scaleJob (s : State) (a : Nat) (v : Word) : (s.wr a v).scaleJob = s.scaleJob := rfl
@[simp] theorem State.wr_lines (s : State) (a : Nat) (v : Word) : (s.wr a v).lines = s.lines := rfl
@[simp] theorem State.wr_irqHeld (s : State) (a : Nat) (v : Word) : (s.wr a v).irqHeld = s.irqHeld := rfl
@[simp] theorem State.wr_samplers (s : State) (a : Nat) (v : Word) : (s.wr a v).samplers = s.samplers := rfl
@[simp] theorem State.wr_cycAcc (s : State) (a : Nat) (v : Word) : (s.wr a v).cycAcc = s.cycAcc := rfl
@[simp] theorem State.wr_cycFrom (s : State) (a : Nat) (v : Word) : (s.wr a v).cycFrom = s.cycFrom := rfl
@[simp] theorem State.wr_winEnd (s : State) (a : Nat) (v : Word) : (s.wr a v).winEnd = s.winEnd := rfl
@[simp] theorem State.wr_edges (s : State) (a : Nat) (v : Word) : (s.wr a v).edges = s.edges := rfl
@[simp] theorem State.wr_hostGo (s : State) (a : Nat) (v : Word) : (s.wr a v).hostGo = s.hostGo := rfl
@[simp] theorem State.wr_supplied (s : State) (a : Nat) (v : Word) : (s.wr a v).supplied = s.supplied := rfl
@[simp] theorem State.wr_readyDue (s : State) (a : Nat) (v : Word) : (s.wr a v).readyDue = s.readyDue := rfl
@[simp] theorem State.wr_perst (s : State) (a : Nat) (v : Word) : (s.wr a v).perst = s.perst := rfl
@[simp] theorem State.wr_brakePin (s : State) (a : Nat) (v : Word) : (s.wr a v).brakePin = s.brakePin := rfl
@[simp] theorem State.wr_pwr (s : State) (a : Nat) (v : Word) : (s.wr a v).pwr = s.pwr := rfl
@[simp] theorem State.wr_part (s : State) (a : Nat) (v : Word) : (s.wr a v).part = s.part := rfl
@[simp] theorem State.wr_idKey (s : State) (a : Nat) (v : Word) : (s.wr a v).idKey = s.idKey := rfl
@[simp] theorem State.wr_mgt (s : State) (a : Nat) (v : Word) : (s.wr a v).mgt = s.mgt := rfl
@[simp] theorem State.wr_test (s : State) (a : Nat) (v : Word) : (s.wr a v).test = s.test := rfl
@[simp] theorem State.wr_fresh (s : State) (a : Nat) (v : Word) : (s.wr a v).fresh = s.fresh := rfl
@[simp] theorem State.wr_out (s : State) (a : Nat) (v : Word) : (s.wr a v).out = s.out := rfl
@[simp] theorem State.wr_pending (s : State) (a : Nat) (v : Word) : (s.wr a v).pending = s.pending := rfl

/-! ### State.p: a field of a register is written -/

@[simp] theorem State.p_shadows (s : State) (b : Blk) (f : Fld) (v : Nat) : (s.p b f v).shadows = s.shadows := rfl
@[simp] theorem State.p_snaps (s : State) (b : Blk) (f : Fld) (v : Nat) : (s.p b f v).snaps = s.snaps := rfl
@[simp] theorem State.p_latch (s : State) (b : Blk) (f : Fld) (v : Nat) : (s.p b f v).latch = s.latch := rfl
@[simp] theorem State.p_mem (s : State) (b : Blk) (f : Fld) (v : Nat) : (s.p b f v).mem = s.mem := rfl
@[simp] theorem State.p_badPairs (s : State) (b : Blk) (f : Fld) (v : Nat) : (s.p b f v).badPairs = s.badPairs := rfl
@[simp] theorem State.p_ueHits (s : State) (b : Blk) (f : Fld) (v : Nat) : (s.p b f v).ueHits = s.ueHits := rfl
@[simp] theorem State.p_pages (s : State) (b : Blk) (f : Fld) (v : Nat) : (s.p b f v).pages = s.pages := rfl
@[simp] theorem State.p_tlb (s : State) (b : Blk) (f : Fld) (v : Nat) : (s.p b f v).tlb = s.tlb := rfl
@[simp] theorem State.p_tlbBad (s : State) (b : Blk) (f : Fld) (v : Nat) : (s.p b f v).tlbBad = s.tlbBad := rfl
@[simp] theorem State.p_removals (s : State) (b : Blk) (f : Fld) (v : Nat) : (s.p b f v).removals = s.removals := rfl
@[simp] theorem State.p_removed (s : State) (b : Blk) (f : Fld) (v : Nat) : (s.p b f v).removed = s.removed := rfl
@[simp] theorem State.p_restores (s : State) (b : Blk) (f : Fld) (v : Nat) : (s.p b f v).restores = s.restores := rfl
@[simp] theorem State.p_ceSeen (s : State) (b : Blk) (f : Fld) (v : Nat) : (s.p b f v).ceSeen = s.ceSeen := rfl
@[simp] theorem State.p_hbmHot (s : State) (b : Blk) (f : Fld) (v : Nat) : (s.p b f v).hbmHot = s.hbmHot := rfl
@[simp] theorem State.p_hbmMiss (s : State) (b : Blk) (f : Fld) (v : Nat) : (s.p b f v).hbmMiss = s.hbmMiss := rfl
@[simp] theorem State.p_scrubPos (s : State) (b : Blk) (f : Fld) (v : Nat) : (s.p b f v).scrubPos = s.scrubPos := rfl
@[simp] theorem State.p_bridgeCe (s : State) (b : Blk) (f : Fld) (v : Nat) : (s.p b f v).bridgeCe = s.bridgeCe := rfl
@[simp] theorem State.p_arms (s : State) (b : Blk) (f : Fld) (v : Nat) : (s.p b f v).arms = s.arms := rfl
@[simp] theorem State.p_silent (s : State) (b : Blk) (f : Fld) (v : Nat) : (s.p b f v).silent = s.silent := rfl
@[simp] theorem State.p_ports (s : State) (b : Blk) (f : Fld) (v : Nat) : (s.p b f v).ports = s.ports := rfl
@[simp] theorem State.p_links (s : State) (b : Blk) (f : Fld) (v : Nat) : (s.p b f v).links = s.links := rfl
@[simp] theorem State.p_grid (s : State) (b : Blk) (f : Fld) (v : Nat) : (s.p b f v).grid = s.grid := rfl
@[simp] theorem State.p_evtPhase (s : State) (b : Blk) (f : Fld) (v : Nat) : (s.p b f v).evtPhase = s.evtPhase := rfl
@[simp] theorem State.p_evtOwed (s : State) (b : Blk) (f : Fld) (v : Nat) : (s.p b f v).evtOwed = s.evtOwed := rfl
@[simp] theorem State.p_msix (s : State) (b : Blk) (f : Fld) (v : Nat) : (s.p b f v).msix = s.msix := rfl
@[simp] theorem State.p_msixLast (s : State) (b : Blk) (f : Fld) (v : Nat) : (s.p b f v).msixLast = s.msixLast := rfl
@[simp] theorem State.p_msixHeld (s : State) (b : Blk) (f : Fld) (v : Nat) : (s.p b f v).msixHeld = s.msixHeld := rfl
@[simp] theorem State.p_rings (s : State) (b : Blk) (f : Fld) (v : Nat) : (s.p b f v).rings = s.rings := rfl
@[simp] theorem State.p_kickRun (s : State) (b : Blk) (f : Fld) (v : Nat) : (s.p b f v).kickRun = s.kickRun := rfl
@[simp] theorem State.p_cmds (s : State) (b : Blk) (f : Fld) (v : Nat) : (s.p b f v).cmds = s.cmds := rfl
@[simp] theorem State.p_queue (s : State) (b : Blk) (f : Fld) (v : Nat) : (s.p b f v).queue = s.queue := rfl
@[simp] theorem State.p_run (s : State) (b : Blk) (f : Fld) (v : Nat) : (s.p b f v).run = s.run := rfl
@[simp] theorem State.p_save (s : State) (b : Blk) (f : Fld) (v : Nat) : (s.p b f v).save = s.save := rfl
@[simp] theorem State.p_nextStep (s : State) (b : Blk) (f : Fld) (v : Nat) : (s.p b f v).nextStep = s.nextStep := rfl
@[simp] theorem State.p_modeReq (s : State) (b : Blk) (f : Fld) (v : Nat) : (s.p b f v).modeReq = s.modeReq := rfl
@[simp] theorem State.p_modeRevert (s : State) (b : Blk) (f : Fld) (v : Nat) : (s.p b f v).modeRevert = s.modeRevert := rfl
@[simp] theorem State.p_admitting (s : State) (b : Blk) (f : Fld) (v : Nat) : (s.p b f v).admitting = s.admitting := rfl
@[simp] theorem State.p_img (s : State) (b : Blk) (f : Fld) (v : Nat) : (s.p b f v).img = s.img := rfl
@[simp] theorem State.p_tableOwner (s : State) (b : Blk) (f : Fld) (v : Nat) : (s.p b f v).tableOwner = s.tableOwner := rfl
@[simp] theorem State.p_suspOwner (s : State) (b : Blk) (f : Fld) (v : Nat) : (s.p b f v).suspOwner = s.suspOwner := rfl
@[simp] theorem State.p_lastRun (s : State) (b : Blk) (f : Fld) (v : Nat) : (s.p b f v).lastRun = s.lastRun := rfl
@[simp] theorem State.p_suspendNext (s : State) (b : Blk) (f : Fld) (v : Nat) : (s.p b f v).suspendNext = s.suspendNext := rfl
@[simp] theorem State.p_faultOs (s : State) (b : Blk) (f : Fld) (v : Nat) : (s.p b f v).faultOs = s.faultOs := rfl
@[simp] theorem State.p_pinFault (s : State) (b : Blk) (f : Fld) (v : Nat) : (s.p b f v).pinFault = s.pinFault := rfl
@[simp] theorem State.p_sensorQ (s : State) (b : Blk) (f : Fld) (v : Nat) : (s.p b f v).sensorQ = s.sensorQ := rfl
@[simp] theorem State.p_arrays (s : State) (b : Blk) (f : Fld) (v : Nat) : (s.p b f v).arrays = s.arrays := rfl
@[simp] theorem State.p_xpbs (s : State) (b : Blk) (f : Fld) (v : Nat) : (s.p b f v).xpbs = s.xpbs := rfl
@[simp] theorem State.p_units (s : State) (b : Blk) (f : Fld) (v : Nat) : (s.p b f v).units = s.units := rfl
@[simp] theorem State.p_scale (s : State) (b : Blk) (f : Fld) (v : Nat) : (s.p b f v).scale = s.scale := rfl
@[simp] theorem State.p_stepStat (s : State) (b : Blk) (f : Fld) (v : Nat) : (s.p b f v).stepStat = s.stepStat := rfl
@[simp] theorem State.p_scaleJob (s : State) (b : Blk) (f : Fld) (v : Nat) : (s.p b f v).scaleJob = s.scaleJob := rfl
@[simp] theorem State.p_lines (s : State) (b : Blk) (f : Fld) (v : Nat) : (s.p b f v).lines = s.lines := rfl
@[simp] theorem State.p_irqHeld (s : State) (b : Blk) (f : Fld) (v : Nat) : (s.p b f v).irqHeld = s.irqHeld := rfl
@[simp] theorem State.p_samplers (s : State) (b : Blk) (f : Fld) (v : Nat) : (s.p b f v).samplers = s.samplers := rfl
@[simp] theorem State.p_cycAcc (s : State) (b : Blk) (f : Fld) (v : Nat) : (s.p b f v).cycAcc = s.cycAcc := rfl
@[simp] theorem State.p_cycFrom (s : State) (b : Blk) (f : Fld) (v : Nat) : (s.p b f v).cycFrom = s.cycFrom := rfl
@[simp] theorem State.p_winEnd (s : State) (b : Blk) (f : Fld) (v : Nat) : (s.p b f v).winEnd = s.winEnd := rfl
@[simp] theorem State.p_edges (s : State) (b : Blk) (f : Fld) (v : Nat) : (s.p b f v).edges = s.edges := rfl
@[simp] theorem State.p_hostGo (s : State) (b : Blk) (f : Fld) (v : Nat) : (s.p b f v).hostGo = s.hostGo := rfl
@[simp] theorem State.p_supplied (s : State) (b : Blk) (f : Fld) (v : Nat) : (s.p b f v).supplied = s.supplied := rfl
@[simp] theorem State.p_readyDue (s : State) (b : Blk) (f : Fld) (v : Nat) : (s.p b f v).readyDue = s.readyDue := rfl
@[simp] theorem State.p_perst (s : State) (b : Blk) (f : Fld) (v : Nat) : (s.p b f v).perst = s.perst := rfl
@[simp] theorem State.p_brakePin (s : State) (b : Blk) (f : Fld) (v : Nat) : (s.p b f v).brakePin = s.brakePin := rfl
@[simp] theorem State.p_pwr (s : State) (b : Blk) (f : Fld) (v : Nat) : (s.p b f v).pwr = s.pwr := rfl
@[simp] theorem State.p_part (s : State) (b : Blk) (f : Fld) (v : Nat) : (s.p b f v).part = s.part := rfl
@[simp] theorem State.p_idKey (s : State) (b : Blk) (f : Fld) (v : Nat) : (s.p b f v).idKey = s.idKey := rfl
@[simp] theorem State.p_mgt (s : State) (b : Blk) (f : Fld) (v : Nat) : (s.p b f v).mgt = s.mgt := rfl
@[simp] theorem State.p_test (s : State) (b : Blk) (f : Fld) (v : Nat) : (s.p b f v).test = s.test := rfl
@[simp] theorem State.p_fresh (s : State) (b : Blk) (f : Fld) (v : Nat) : (s.p b f v).fresh = s.fresh := rfl
@[simp] theorem State.p_out (s : State) (b : Blk) (f : Fld) (v : Nat) : (s.p b f v).out = s.out := rfl
@[simp] theorem State.p_pending (s : State) (b : Blk) (f : Fld) (v : Nat) : (s.p b f v).pending = s.pending := rfl

/-! ### State.pb: a bit of a register is written -/

@[simp] theorem State.pb_shadows (s : State) (b : Blk) (f : Fld) (v : Bool) : (s.pb b f v).shadows = s.shadows := rfl
@[simp] theorem State.pb_snaps (s : State) (b : Blk) (f : Fld) (v : Bool) : (s.pb b f v).snaps = s.snaps := rfl
@[simp] theorem State.pb_latch (s : State) (b : Blk) (f : Fld) (v : Bool) : (s.pb b f v).latch = s.latch := rfl
@[simp] theorem State.pb_mem (s : State) (b : Blk) (f : Fld) (v : Bool) : (s.pb b f v).mem = s.mem := rfl
@[simp] theorem State.pb_badPairs (s : State) (b : Blk) (f : Fld) (v : Bool) : (s.pb b f v).badPairs = s.badPairs := rfl
@[simp] theorem State.pb_ueHits (s : State) (b : Blk) (f : Fld) (v : Bool) : (s.pb b f v).ueHits = s.ueHits := rfl
@[simp] theorem State.pb_pages (s : State) (b : Blk) (f : Fld) (v : Bool) : (s.pb b f v).pages = s.pages := rfl
@[simp] theorem State.pb_tlb (s : State) (b : Blk) (f : Fld) (v : Bool) : (s.pb b f v).tlb = s.tlb := rfl
@[simp] theorem State.pb_tlbBad (s : State) (b : Blk) (f : Fld) (v : Bool) : (s.pb b f v).tlbBad = s.tlbBad := rfl
@[simp] theorem State.pb_removals (s : State) (b : Blk) (f : Fld) (v : Bool) : (s.pb b f v).removals = s.removals := rfl
@[simp] theorem State.pb_removed (s : State) (b : Blk) (f : Fld) (v : Bool) : (s.pb b f v).removed = s.removed := rfl
@[simp] theorem State.pb_restores (s : State) (b : Blk) (f : Fld) (v : Bool) : (s.pb b f v).restores = s.restores := rfl
@[simp] theorem State.pb_ceSeen (s : State) (b : Blk) (f : Fld) (v : Bool) : (s.pb b f v).ceSeen = s.ceSeen := rfl
@[simp] theorem State.pb_hbmHot (s : State) (b : Blk) (f : Fld) (v : Bool) : (s.pb b f v).hbmHot = s.hbmHot := rfl
@[simp] theorem State.pb_hbmMiss (s : State) (b : Blk) (f : Fld) (v : Bool) : (s.pb b f v).hbmMiss = s.hbmMiss := rfl
@[simp] theorem State.pb_scrubPos (s : State) (b : Blk) (f : Fld) (v : Bool) : (s.pb b f v).scrubPos = s.scrubPos := rfl
@[simp] theorem State.pb_bridgeCe (s : State) (b : Blk) (f : Fld) (v : Bool) : (s.pb b f v).bridgeCe = s.bridgeCe := rfl
@[simp] theorem State.pb_arms (s : State) (b : Blk) (f : Fld) (v : Bool) : (s.pb b f v).arms = s.arms := rfl
@[simp] theorem State.pb_silent (s : State) (b : Blk) (f : Fld) (v : Bool) : (s.pb b f v).silent = s.silent := rfl
@[simp] theorem State.pb_ports (s : State) (b : Blk) (f : Fld) (v : Bool) : (s.pb b f v).ports = s.ports := rfl
@[simp] theorem State.pb_links (s : State) (b : Blk) (f : Fld) (v : Bool) : (s.pb b f v).links = s.links := rfl
@[simp] theorem State.pb_grid (s : State) (b : Blk) (f : Fld) (v : Bool) : (s.pb b f v).grid = s.grid := rfl
@[simp] theorem State.pb_evtPhase (s : State) (b : Blk) (f : Fld) (v : Bool) : (s.pb b f v).evtPhase = s.evtPhase := rfl
@[simp] theorem State.pb_evtOwed (s : State) (b : Blk) (f : Fld) (v : Bool) : (s.pb b f v).evtOwed = s.evtOwed := rfl
@[simp] theorem State.pb_msix (s : State) (b : Blk) (f : Fld) (v : Bool) : (s.pb b f v).msix = s.msix := rfl
@[simp] theorem State.pb_msixLast (s : State) (b : Blk) (f : Fld) (v : Bool) : (s.pb b f v).msixLast = s.msixLast := rfl
@[simp] theorem State.pb_msixHeld (s : State) (b : Blk) (f : Fld) (v : Bool) : (s.pb b f v).msixHeld = s.msixHeld := rfl
@[simp] theorem State.pb_rings (s : State) (b : Blk) (f : Fld) (v : Bool) : (s.pb b f v).rings = s.rings := rfl
@[simp] theorem State.pb_kickRun (s : State) (b : Blk) (f : Fld) (v : Bool) : (s.pb b f v).kickRun = s.kickRun := rfl
@[simp] theorem State.pb_cmds (s : State) (b : Blk) (f : Fld) (v : Bool) : (s.pb b f v).cmds = s.cmds := rfl
@[simp] theorem State.pb_queue (s : State) (b : Blk) (f : Fld) (v : Bool) : (s.pb b f v).queue = s.queue := rfl
@[simp] theorem State.pb_run (s : State) (b : Blk) (f : Fld) (v : Bool) : (s.pb b f v).run = s.run := rfl
@[simp] theorem State.pb_save (s : State) (b : Blk) (f : Fld) (v : Bool) : (s.pb b f v).save = s.save := rfl
@[simp] theorem State.pb_nextStep (s : State) (b : Blk) (f : Fld) (v : Bool) : (s.pb b f v).nextStep = s.nextStep := rfl
@[simp] theorem State.pb_modeReq (s : State) (b : Blk) (f : Fld) (v : Bool) : (s.pb b f v).modeReq = s.modeReq := rfl
@[simp] theorem State.pb_modeRevert (s : State) (b : Blk) (f : Fld) (v : Bool) : (s.pb b f v).modeRevert = s.modeRevert := rfl
@[simp] theorem State.pb_admitting (s : State) (b : Blk) (f : Fld) (v : Bool) : (s.pb b f v).admitting = s.admitting := rfl
@[simp] theorem State.pb_img (s : State) (b : Blk) (f : Fld) (v : Bool) : (s.pb b f v).img = s.img := rfl
@[simp] theorem State.pb_tableOwner (s : State) (b : Blk) (f : Fld) (v : Bool) : (s.pb b f v).tableOwner = s.tableOwner := rfl
@[simp] theorem State.pb_suspOwner (s : State) (b : Blk) (f : Fld) (v : Bool) : (s.pb b f v).suspOwner = s.suspOwner := rfl
@[simp] theorem State.pb_lastRun (s : State) (b : Blk) (f : Fld) (v : Bool) : (s.pb b f v).lastRun = s.lastRun := rfl
@[simp] theorem State.pb_suspendNext (s : State) (b : Blk) (f : Fld) (v : Bool) : (s.pb b f v).suspendNext = s.suspendNext := rfl
@[simp] theorem State.pb_faultOs (s : State) (b : Blk) (f : Fld) (v : Bool) : (s.pb b f v).faultOs = s.faultOs := rfl
@[simp] theorem State.pb_pinFault (s : State) (b : Blk) (f : Fld) (v : Bool) : (s.pb b f v).pinFault = s.pinFault := rfl
@[simp] theorem State.pb_sensorQ (s : State) (b : Blk) (f : Fld) (v : Bool) : (s.pb b f v).sensorQ = s.sensorQ := rfl
@[simp] theorem State.pb_arrays (s : State) (b : Blk) (f : Fld) (v : Bool) : (s.pb b f v).arrays = s.arrays := rfl
@[simp] theorem State.pb_xpbs (s : State) (b : Blk) (f : Fld) (v : Bool) : (s.pb b f v).xpbs = s.xpbs := rfl
@[simp] theorem State.pb_units (s : State) (b : Blk) (f : Fld) (v : Bool) : (s.pb b f v).units = s.units := rfl
@[simp] theorem State.pb_scale (s : State) (b : Blk) (f : Fld) (v : Bool) : (s.pb b f v).scale = s.scale := rfl
@[simp] theorem State.pb_stepStat (s : State) (b : Blk) (f : Fld) (v : Bool) : (s.pb b f v).stepStat = s.stepStat := rfl
@[simp] theorem State.pb_scaleJob (s : State) (b : Blk) (f : Fld) (v : Bool) : (s.pb b f v).scaleJob = s.scaleJob := rfl
@[simp] theorem State.pb_lines (s : State) (b : Blk) (f : Fld) (v : Bool) : (s.pb b f v).lines = s.lines := rfl
@[simp] theorem State.pb_irqHeld (s : State) (b : Blk) (f : Fld) (v : Bool) : (s.pb b f v).irqHeld = s.irqHeld := rfl
@[simp] theorem State.pb_samplers (s : State) (b : Blk) (f : Fld) (v : Bool) : (s.pb b f v).samplers = s.samplers := rfl
@[simp] theorem State.pb_cycAcc (s : State) (b : Blk) (f : Fld) (v : Bool) : (s.pb b f v).cycAcc = s.cycAcc := rfl
@[simp] theorem State.pb_cycFrom (s : State) (b : Blk) (f : Fld) (v : Bool) : (s.pb b f v).cycFrom = s.cycFrom := rfl
@[simp] theorem State.pb_winEnd (s : State) (b : Blk) (f : Fld) (v : Bool) : (s.pb b f v).winEnd = s.winEnd := rfl
@[simp] theorem State.pb_edges (s : State) (b : Blk) (f : Fld) (v : Bool) : (s.pb b f v).edges = s.edges := rfl
@[simp] theorem State.pb_hostGo (s : State) (b : Blk) (f : Fld) (v : Bool) : (s.pb b f v).hostGo = s.hostGo := rfl
@[simp] theorem State.pb_supplied (s : State) (b : Blk) (f : Fld) (v : Bool) : (s.pb b f v).supplied = s.supplied := rfl
@[simp] theorem State.pb_readyDue (s : State) (b : Blk) (f : Fld) (v : Bool) : (s.pb b f v).readyDue = s.readyDue := rfl
@[simp] theorem State.pb_perst (s : State) (b : Blk) (f : Fld) (v : Bool) : (s.pb b f v).perst = s.perst := rfl
@[simp] theorem State.pb_brakePin (s : State) (b : Blk) (f : Fld) (v : Bool) : (s.pb b f v).brakePin = s.brakePin := rfl
@[simp] theorem State.pb_pwr (s : State) (b : Blk) (f : Fld) (v : Bool) : (s.pb b f v).pwr = s.pwr := rfl
@[simp] theorem State.pb_part (s : State) (b : Blk) (f : Fld) (v : Bool) : (s.pb b f v).part = s.part := rfl
@[simp] theorem State.pb_idKey (s : State) (b : Blk) (f : Fld) (v : Bool) : (s.pb b f v).idKey = s.idKey := rfl
@[simp] theorem State.pb_mgt (s : State) (b : Blk) (f : Fld) (v : Bool) : (s.pb b f v).mgt = s.mgt := rfl
@[simp] theorem State.pb_test (s : State) (b : Blk) (f : Fld) (v : Bool) : (s.pb b f v).test = s.test := rfl
@[simp] theorem State.pb_fresh (s : State) (b : Blk) (f : Fld) (v : Bool) : (s.pb b f v).fresh = s.fresh := rfl
@[simp] theorem State.pb_out (s : State) (b : Blk) (f : Fld) (v : Bool) : (s.pb b f v).out = s.out := rfl
@[simp] theorem State.pb_pending (s : State) (b : Blk) (f : Fld) (v : Bool) : (s.pb b f v).pending = s.pending := rfl

/-! ### State.inc: a saturating counter is raised -/

@[simp] theorem State.inc_shadows (s : State) (b : Blk) (f : Fld) (n : Nat) : (s.inc b f n).shadows = s.shadows := rfl
@[simp] theorem State.inc_snaps (s : State) (b : Blk) (f : Fld) (n : Nat) : (s.inc b f n).snaps = s.snaps := rfl
@[simp] theorem State.inc_latch (s : State) (b : Blk) (f : Fld) (n : Nat) : (s.inc b f n).latch = s.latch := rfl
@[simp] theorem State.inc_mem (s : State) (b : Blk) (f : Fld) (n : Nat) : (s.inc b f n).mem = s.mem := rfl
@[simp] theorem State.inc_badPairs (s : State) (b : Blk) (f : Fld) (n : Nat) : (s.inc b f n).badPairs = s.badPairs := rfl
@[simp] theorem State.inc_ueHits (s : State) (b : Blk) (f : Fld) (n : Nat) : (s.inc b f n).ueHits = s.ueHits := rfl
@[simp] theorem State.inc_pages (s : State) (b : Blk) (f : Fld) (n : Nat) : (s.inc b f n).pages = s.pages := rfl
@[simp] theorem State.inc_tlb (s : State) (b : Blk) (f : Fld) (n : Nat) : (s.inc b f n).tlb = s.tlb := rfl
@[simp] theorem State.inc_tlbBad (s : State) (b : Blk) (f : Fld) (n : Nat) : (s.inc b f n).tlbBad = s.tlbBad := rfl
@[simp] theorem State.inc_removals (s : State) (b : Blk) (f : Fld) (n : Nat) : (s.inc b f n).removals = s.removals := rfl
@[simp] theorem State.inc_removed (s : State) (b : Blk) (f : Fld) (n : Nat) : (s.inc b f n).removed = s.removed := rfl
@[simp] theorem State.inc_restores (s : State) (b : Blk) (f : Fld) (n : Nat) : (s.inc b f n).restores = s.restores := rfl
@[simp] theorem State.inc_ceSeen (s : State) (b : Blk) (f : Fld) (n : Nat) : (s.inc b f n).ceSeen = s.ceSeen := rfl
@[simp] theorem State.inc_hbmHot (s : State) (b : Blk) (f : Fld) (n : Nat) : (s.inc b f n).hbmHot = s.hbmHot := rfl
@[simp] theorem State.inc_hbmMiss (s : State) (b : Blk) (f : Fld) (n : Nat) : (s.inc b f n).hbmMiss = s.hbmMiss := rfl
@[simp] theorem State.inc_scrubPos (s : State) (b : Blk) (f : Fld) (n : Nat) : (s.inc b f n).scrubPos = s.scrubPos := rfl
@[simp] theorem State.inc_bridgeCe (s : State) (b : Blk) (f : Fld) (n : Nat) : (s.inc b f n).bridgeCe = s.bridgeCe := rfl
@[simp] theorem State.inc_arms (s : State) (b : Blk) (f : Fld) (n : Nat) : (s.inc b f n).arms = s.arms := rfl
@[simp] theorem State.inc_silent (s : State) (b : Blk) (f : Fld) (n : Nat) : (s.inc b f n).silent = s.silent := rfl
@[simp] theorem State.inc_ports (s : State) (b : Blk) (f : Fld) (n : Nat) : (s.inc b f n).ports = s.ports := rfl
@[simp] theorem State.inc_links (s : State) (b : Blk) (f : Fld) (n : Nat) : (s.inc b f n).links = s.links := rfl
@[simp] theorem State.inc_grid (s : State) (b : Blk) (f : Fld) (n : Nat) : (s.inc b f n).grid = s.grid := rfl
@[simp] theorem State.inc_evtPhase (s : State) (b : Blk) (f : Fld) (n : Nat) : (s.inc b f n).evtPhase = s.evtPhase := rfl
@[simp] theorem State.inc_evtOwed (s : State) (b : Blk) (f : Fld) (n : Nat) : (s.inc b f n).evtOwed = s.evtOwed := rfl
@[simp] theorem State.inc_msix (s : State) (b : Blk) (f : Fld) (n : Nat) : (s.inc b f n).msix = s.msix := rfl
@[simp] theorem State.inc_msixLast (s : State) (b : Blk) (f : Fld) (n : Nat) : (s.inc b f n).msixLast = s.msixLast := rfl
@[simp] theorem State.inc_msixHeld (s : State) (b : Blk) (f : Fld) (n : Nat) : (s.inc b f n).msixHeld = s.msixHeld := rfl
@[simp] theorem State.inc_rings (s : State) (b : Blk) (f : Fld) (n : Nat) : (s.inc b f n).rings = s.rings := rfl
@[simp] theorem State.inc_kickRun (s : State) (b : Blk) (f : Fld) (n : Nat) : (s.inc b f n).kickRun = s.kickRun := rfl
@[simp] theorem State.inc_cmds (s : State) (b : Blk) (f : Fld) (n : Nat) : (s.inc b f n).cmds = s.cmds := rfl
@[simp] theorem State.inc_queue (s : State) (b : Blk) (f : Fld) (n : Nat) : (s.inc b f n).queue = s.queue := rfl
@[simp] theorem State.inc_run (s : State) (b : Blk) (f : Fld) (n : Nat) : (s.inc b f n).run = s.run := rfl
@[simp] theorem State.inc_save (s : State) (b : Blk) (f : Fld) (n : Nat) : (s.inc b f n).save = s.save := rfl
@[simp] theorem State.inc_nextStep (s : State) (b : Blk) (f : Fld) (n : Nat) : (s.inc b f n).nextStep = s.nextStep := rfl
@[simp] theorem State.inc_modeReq (s : State) (b : Blk) (f : Fld) (n : Nat) : (s.inc b f n).modeReq = s.modeReq := rfl
@[simp] theorem State.inc_modeRevert (s : State) (b : Blk) (f : Fld) (n : Nat) : (s.inc b f n).modeRevert = s.modeRevert := rfl
@[simp] theorem State.inc_admitting (s : State) (b : Blk) (f : Fld) (n : Nat) : (s.inc b f n).admitting = s.admitting := rfl
@[simp] theorem State.inc_img (s : State) (b : Blk) (f : Fld) (n : Nat) : (s.inc b f n).img = s.img := rfl
@[simp] theorem State.inc_tableOwner (s : State) (b : Blk) (f : Fld) (n : Nat) : (s.inc b f n).tableOwner = s.tableOwner := rfl
@[simp] theorem State.inc_suspOwner (s : State) (b : Blk) (f : Fld) (n : Nat) : (s.inc b f n).suspOwner = s.suspOwner := rfl
@[simp] theorem State.inc_lastRun (s : State) (b : Blk) (f : Fld) (n : Nat) : (s.inc b f n).lastRun = s.lastRun := rfl
@[simp] theorem State.inc_suspendNext (s : State) (b : Blk) (f : Fld) (n : Nat) : (s.inc b f n).suspendNext = s.suspendNext := rfl
@[simp] theorem State.inc_faultOs (s : State) (b : Blk) (f : Fld) (n : Nat) : (s.inc b f n).faultOs = s.faultOs := rfl
@[simp] theorem State.inc_pinFault (s : State) (b : Blk) (f : Fld) (n : Nat) : (s.inc b f n).pinFault = s.pinFault := rfl
@[simp] theorem State.inc_sensorQ (s : State) (b : Blk) (f : Fld) (n : Nat) : (s.inc b f n).sensorQ = s.sensorQ := rfl
@[simp] theorem State.inc_arrays (s : State) (b : Blk) (f : Fld) (n : Nat) : (s.inc b f n).arrays = s.arrays := rfl
@[simp] theorem State.inc_xpbs (s : State) (b : Blk) (f : Fld) (n : Nat) : (s.inc b f n).xpbs = s.xpbs := rfl
@[simp] theorem State.inc_units (s : State) (b : Blk) (f : Fld) (n : Nat) : (s.inc b f n).units = s.units := rfl
@[simp] theorem State.inc_scale (s : State) (b : Blk) (f : Fld) (n : Nat) : (s.inc b f n).scale = s.scale := rfl
@[simp] theorem State.inc_stepStat (s : State) (b : Blk) (f : Fld) (n : Nat) : (s.inc b f n).stepStat = s.stepStat := rfl
@[simp] theorem State.inc_scaleJob (s : State) (b : Blk) (f : Fld) (n : Nat) : (s.inc b f n).scaleJob = s.scaleJob := rfl
@[simp] theorem State.inc_lines (s : State) (b : Blk) (f : Fld) (n : Nat) : (s.inc b f n).lines = s.lines := rfl
@[simp] theorem State.inc_irqHeld (s : State) (b : Blk) (f : Fld) (n : Nat) : (s.inc b f n).irqHeld = s.irqHeld := rfl
@[simp] theorem State.inc_samplers (s : State) (b : Blk) (f : Fld) (n : Nat) : (s.inc b f n).samplers = s.samplers := rfl
@[simp] theorem State.inc_cycAcc (s : State) (b : Blk) (f : Fld) (n : Nat) : (s.inc b f n).cycAcc = s.cycAcc := rfl
@[simp] theorem State.inc_cycFrom (s : State) (b : Blk) (f : Fld) (n : Nat) : (s.inc b f n).cycFrom = s.cycFrom := rfl
@[simp] theorem State.inc_winEnd (s : State) (b : Blk) (f : Fld) (n : Nat) : (s.inc b f n).winEnd = s.winEnd := rfl
@[simp] theorem State.inc_edges (s : State) (b : Blk) (f : Fld) (n : Nat) : (s.inc b f n).edges = s.edges := rfl
@[simp] theorem State.inc_hostGo (s : State) (b : Blk) (f : Fld) (n : Nat) : (s.inc b f n).hostGo = s.hostGo := rfl
@[simp] theorem State.inc_supplied (s : State) (b : Blk) (f : Fld) (n : Nat) : (s.inc b f n).supplied = s.supplied := rfl
@[simp] theorem State.inc_readyDue (s : State) (b : Blk) (f : Fld) (n : Nat) : (s.inc b f n).readyDue = s.readyDue := rfl
@[simp] theorem State.inc_perst (s : State) (b : Blk) (f : Fld) (n : Nat) : (s.inc b f n).perst = s.perst := rfl
@[simp] theorem State.inc_brakePin (s : State) (b : Blk) (f : Fld) (n : Nat) : (s.inc b f n).brakePin = s.brakePin := rfl
@[simp] theorem State.inc_pwr (s : State) (b : Blk) (f : Fld) (n : Nat) : (s.inc b f n).pwr = s.pwr := rfl
@[simp] theorem State.inc_part (s : State) (b : Blk) (f : Fld) (n : Nat) : (s.inc b f n).part = s.part := rfl
@[simp] theorem State.inc_idKey (s : State) (b : Blk) (f : Fld) (n : Nat) : (s.inc b f n).idKey = s.idKey := rfl
@[simp] theorem State.inc_mgt (s : State) (b : Blk) (f : Fld) (n : Nat) : (s.inc b f n).mgt = s.mgt := rfl
@[simp] theorem State.inc_test (s : State) (b : Blk) (f : Fld) (n : Nat) : (s.inc b f n).test = s.test := rfl
@[simp] theorem State.inc_fresh (s : State) (b : Blk) (f : Fld) (n : Nat) : (s.inc b f n).fresh = s.fresh := rfl
@[simp] theorem State.inc_out (s : State) (b : Blk) (f : Fld) (n : Nat) : (s.inc b f n).out = s.out := rfl
@[simp] theorem State.inc_pending (s : State) (b : Blk) (f : Fld) (n : Nat) : (s.inc b f n).pending = s.pending := rfl

/-! ### State.p2: a value in two halves is written -/

@[simp] theorem State.p2_shadows (s : State) (b : Blk) (f g : Fld) (v : Nat) : (s.p2 b f g v).shadows = s.shadows := rfl
@[simp] theorem State.p2_snaps (s : State) (b : Blk) (f g : Fld) (v : Nat) : (s.p2 b f g v).snaps = s.snaps := rfl
@[simp] theorem State.p2_latch (s : State) (b : Blk) (f g : Fld) (v : Nat) : (s.p2 b f g v).latch = s.latch := rfl
@[simp] theorem State.p2_mem (s : State) (b : Blk) (f g : Fld) (v : Nat) : (s.p2 b f g v).mem = s.mem := rfl
@[simp] theorem State.p2_badPairs (s : State) (b : Blk) (f g : Fld) (v : Nat) : (s.p2 b f g v).badPairs = s.badPairs := rfl
@[simp] theorem State.p2_ueHits (s : State) (b : Blk) (f g : Fld) (v : Nat) : (s.p2 b f g v).ueHits = s.ueHits := rfl
@[simp] theorem State.p2_pages (s : State) (b : Blk) (f g : Fld) (v : Nat) : (s.p2 b f g v).pages = s.pages := rfl
@[simp] theorem State.p2_tlb (s : State) (b : Blk) (f g : Fld) (v : Nat) : (s.p2 b f g v).tlb = s.tlb := rfl
@[simp] theorem State.p2_tlbBad (s : State) (b : Blk) (f g : Fld) (v : Nat) : (s.p2 b f g v).tlbBad = s.tlbBad := rfl
@[simp] theorem State.p2_removals (s : State) (b : Blk) (f g : Fld) (v : Nat) : (s.p2 b f g v).removals = s.removals := rfl
@[simp] theorem State.p2_removed (s : State) (b : Blk) (f g : Fld) (v : Nat) : (s.p2 b f g v).removed = s.removed := rfl
@[simp] theorem State.p2_restores (s : State) (b : Blk) (f g : Fld) (v : Nat) : (s.p2 b f g v).restores = s.restores := rfl
@[simp] theorem State.p2_ceSeen (s : State) (b : Blk) (f g : Fld) (v : Nat) : (s.p2 b f g v).ceSeen = s.ceSeen := rfl
@[simp] theorem State.p2_hbmHot (s : State) (b : Blk) (f g : Fld) (v : Nat) : (s.p2 b f g v).hbmHot = s.hbmHot := rfl
@[simp] theorem State.p2_hbmMiss (s : State) (b : Blk) (f g : Fld) (v : Nat) : (s.p2 b f g v).hbmMiss = s.hbmMiss := rfl
@[simp] theorem State.p2_scrubPos (s : State) (b : Blk) (f g : Fld) (v : Nat) : (s.p2 b f g v).scrubPos = s.scrubPos := rfl
@[simp] theorem State.p2_bridgeCe (s : State) (b : Blk) (f g : Fld) (v : Nat) : (s.p2 b f g v).bridgeCe = s.bridgeCe := rfl
@[simp] theorem State.p2_arms (s : State) (b : Blk) (f g : Fld) (v : Nat) : (s.p2 b f g v).arms = s.arms := rfl
@[simp] theorem State.p2_silent (s : State) (b : Blk) (f g : Fld) (v : Nat) : (s.p2 b f g v).silent = s.silent := rfl
@[simp] theorem State.p2_ports (s : State) (b : Blk) (f g : Fld) (v : Nat) : (s.p2 b f g v).ports = s.ports := rfl
@[simp] theorem State.p2_links (s : State) (b : Blk) (f g : Fld) (v : Nat) : (s.p2 b f g v).links = s.links := rfl
@[simp] theorem State.p2_grid (s : State) (b : Blk) (f g : Fld) (v : Nat) : (s.p2 b f g v).grid = s.grid := rfl
@[simp] theorem State.p2_evtPhase (s : State) (b : Blk) (f g : Fld) (v : Nat) : (s.p2 b f g v).evtPhase = s.evtPhase := rfl
@[simp] theorem State.p2_evtOwed (s : State) (b : Blk) (f g : Fld) (v : Nat) : (s.p2 b f g v).evtOwed = s.evtOwed := rfl
@[simp] theorem State.p2_msix (s : State) (b : Blk) (f g : Fld) (v : Nat) : (s.p2 b f g v).msix = s.msix := rfl
@[simp] theorem State.p2_msixLast (s : State) (b : Blk) (f g : Fld) (v : Nat) : (s.p2 b f g v).msixLast = s.msixLast := rfl
@[simp] theorem State.p2_msixHeld (s : State) (b : Blk) (f g : Fld) (v : Nat) : (s.p2 b f g v).msixHeld = s.msixHeld := rfl
@[simp] theorem State.p2_rings (s : State) (b : Blk) (f g : Fld) (v : Nat) : (s.p2 b f g v).rings = s.rings := rfl
@[simp] theorem State.p2_kickRun (s : State) (b : Blk) (f g : Fld) (v : Nat) : (s.p2 b f g v).kickRun = s.kickRun := rfl
@[simp] theorem State.p2_cmds (s : State) (b : Blk) (f g : Fld) (v : Nat) : (s.p2 b f g v).cmds = s.cmds := rfl
@[simp] theorem State.p2_queue (s : State) (b : Blk) (f g : Fld) (v : Nat) : (s.p2 b f g v).queue = s.queue := rfl
@[simp] theorem State.p2_run (s : State) (b : Blk) (f g : Fld) (v : Nat) : (s.p2 b f g v).run = s.run := rfl
@[simp] theorem State.p2_save (s : State) (b : Blk) (f g : Fld) (v : Nat) : (s.p2 b f g v).save = s.save := rfl
@[simp] theorem State.p2_nextStep (s : State) (b : Blk) (f g : Fld) (v : Nat) : (s.p2 b f g v).nextStep = s.nextStep := rfl
@[simp] theorem State.p2_modeReq (s : State) (b : Blk) (f g : Fld) (v : Nat) : (s.p2 b f g v).modeReq = s.modeReq := rfl
@[simp] theorem State.p2_modeRevert (s : State) (b : Blk) (f g : Fld) (v : Nat) : (s.p2 b f g v).modeRevert = s.modeRevert := rfl
@[simp] theorem State.p2_admitting (s : State) (b : Blk) (f g : Fld) (v : Nat) : (s.p2 b f g v).admitting = s.admitting := rfl
@[simp] theorem State.p2_img (s : State) (b : Blk) (f g : Fld) (v : Nat) : (s.p2 b f g v).img = s.img := rfl
@[simp] theorem State.p2_tableOwner (s : State) (b : Blk) (f g : Fld) (v : Nat) : (s.p2 b f g v).tableOwner = s.tableOwner := rfl
@[simp] theorem State.p2_suspOwner (s : State) (b : Blk) (f g : Fld) (v : Nat) : (s.p2 b f g v).suspOwner = s.suspOwner := rfl
@[simp] theorem State.p2_lastRun (s : State) (b : Blk) (f g : Fld) (v : Nat) : (s.p2 b f g v).lastRun = s.lastRun := rfl
@[simp] theorem State.p2_suspendNext (s : State) (b : Blk) (f g : Fld) (v : Nat) : (s.p2 b f g v).suspendNext = s.suspendNext := rfl
@[simp] theorem State.p2_faultOs (s : State) (b : Blk) (f g : Fld) (v : Nat) : (s.p2 b f g v).faultOs = s.faultOs := rfl
@[simp] theorem State.p2_pinFault (s : State) (b : Blk) (f g : Fld) (v : Nat) : (s.p2 b f g v).pinFault = s.pinFault := rfl
@[simp] theorem State.p2_sensorQ (s : State) (b : Blk) (f g : Fld) (v : Nat) : (s.p2 b f g v).sensorQ = s.sensorQ := rfl
@[simp] theorem State.p2_arrays (s : State) (b : Blk) (f g : Fld) (v : Nat) : (s.p2 b f g v).arrays = s.arrays := rfl
@[simp] theorem State.p2_xpbs (s : State) (b : Blk) (f g : Fld) (v : Nat) : (s.p2 b f g v).xpbs = s.xpbs := rfl
@[simp] theorem State.p2_units (s : State) (b : Blk) (f g : Fld) (v : Nat) : (s.p2 b f g v).units = s.units := rfl
@[simp] theorem State.p2_scale (s : State) (b : Blk) (f g : Fld) (v : Nat) : (s.p2 b f g v).scale = s.scale := rfl
@[simp] theorem State.p2_stepStat (s : State) (b : Blk) (f g : Fld) (v : Nat) : (s.p2 b f g v).stepStat = s.stepStat := rfl
@[simp] theorem State.p2_scaleJob (s : State) (b : Blk) (f g : Fld) (v : Nat) : (s.p2 b f g v).scaleJob = s.scaleJob := rfl
@[simp] theorem State.p2_lines (s : State) (b : Blk) (f g : Fld) (v : Nat) : (s.p2 b f g v).lines = s.lines := rfl
@[simp] theorem State.p2_irqHeld (s : State) (b : Blk) (f g : Fld) (v : Nat) : (s.p2 b f g v).irqHeld = s.irqHeld := rfl
@[simp] theorem State.p2_samplers (s : State) (b : Blk) (f g : Fld) (v : Nat) : (s.p2 b f g v).samplers = s.samplers := rfl
@[simp] theorem State.p2_cycAcc (s : State) (b : Blk) (f g : Fld) (v : Nat) : (s.p2 b f g v).cycAcc = s.cycAcc := rfl
@[simp] theorem State.p2_cycFrom (s : State) (b : Blk) (f g : Fld) (v : Nat) : (s.p2 b f g v).cycFrom = s.cycFrom := rfl
@[simp] theorem State.p2_winEnd (s : State) (b : Blk) (f g : Fld) (v : Nat) : (s.p2 b f g v).winEnd = s.winEnd := rfl
@[simp] theorem State.p2_edges (s : State) (b : Blk) (f g : Fld) (v : Nat) : (s.p2 b f g v).edges = s.edges := rfl
@[simp] theorem State.p2_hostGo (s : State) (b : Blk) (f g : Fld) (v : Nat) : (s.p2 b f g v).hostGo = s.hostGo := rfl
@[simp] theorem State.p2_supplied (s : State) (b : Blk) (f g : Fld) (v : Nat) : (s.p2 b f g v).supplied = s.supplied := rfl
@[simp] theorem State.p2_readyDue (s : State) (b : Blk) (f g : Fld) (v : Nat) : (s.p2 b f g v).readyDue = s.readyDue := rfl
@[simp] theorem State.p2_perst (s : State) (b : Blk) (f g : Fld) (v : Nat) : (s.p2 b f g v).perst = s.perst := rfl
@[simp] theorem State.p2_brakePin (s : State) (b : Blk) (f g : Fld) (v : Nat) : (s.p2 b f g v).brakePin = s.brakePin := rfl
@[simp] theorem State.p2_pwr (s : State) (b : Blk) (f g : Fld) (v : Nat) : (s.p2 b f g v).pwr = s.pwr := rfl
@[simp] theorem State.p2_part (s : State) (b : Blk) (f g : Fld) (v : Nat) : (s.p2 b f g v).part = s.part := rfl
@[simp] theorem State.p2_idKey (s : State) (b : Blk) (f g : Fld) (v : Nat) : (s.p2 b f g v).idKey = s.idKey := rfl
@[simp] theorem State.p2_mgt (s : State) (b : Blk) (f g : Fld) (v : Nat) : (s.p2 b f g v).mgt = s.mgt := rfl
@[simp] theorem State.p2_test (s : State) (b : Blk) (f g : Fld) (v : Nat) : (s.p2 b f g v).test = s.test := rfl
@[simp] theorem State.p2_fresh (s : State) (b : Blk) (f g : Fld) (v : Nat) : (s.p2 b f g v).fresh = s.fresh := rfl
@[simp] theorem State.p2_out (s : State) (b : Blk) (f g : Fld) (v : Nat) : (s.p2 b f g v).out = s.out := rfl
@[simp] theorem State.p2_pending (s : State) (b : Blk) (f g : Fld) (v : Nat) : (s.p2 b f g v).pending = s.pending := rfl

/-! ### State.writeByte: a byte of device memory is written -/

@[simp] theorem State.writeByte_regs (s : State) (a : Nat) (v : Byte) : (s.writeByte a v).regs = s.regs := rfl
@[simp] theorem State.writeByte_shadows (s : State) (a : Nat) (v : Byte) : (s.writeByte a v).shadows = s.shadows := rfl
@[simp] theorem State.writeByte_snaps (s : State) (a : Nat) (v : Byte) : (s.writeByte a v).snaps = s.snaps := rfl
@[simp] theorem State.writeByte_latch (s : State) (a : Nat) (v : Byte) : (s.writeByte a v).latch = s.latch := rfl
@[simp] theorem State.writeByte_badPairs (s : State) (a : Nat) (v : Byte) : (s.writeByte a v).badPairs = s.badPairs := rfl
@[simp] theorem State.writeByte_ueHits (s : State) (a : Nat) (v : Byte) : (s.writeByte a v).ueHits = s.ueHits := rfl
@[simp] theorem State.writeByte_pages (s : State) (a : Nat) (v : Byte) : (s.writeByte a v).pages = s.pages := rfl
@[simp] theorem State.writeByte_tlb (s : State) (a : Nat) (v : Byte) : (s.writeByte a v).tlb = s.tlb := rfl
@[simp] theorem State.writeByte_tlbBad (s : State) (a : Nat) (v : Byte) : (s.writeByte a v).tlbBad = s.tlbBad := rfl
@[simp] theorem State.writeByte_removals (s : State) (a : Nat) (v : Byte) : (s.writeByte a v).removals = s.removals := rfl
@[simp] theorem State.writeByte_removed (s : State) (a : Nat) (v : Byte) : (s.writeByte a v).removed = s.removed := rfl
@[simp] theorem State.writeByte_restores (s : State) (a : Nat) (v : Byte) : (s.writeByte a v).restores = s.restores := rfl
@[simp] theorem State.writeByte_ceSeen (s : State) (a : Nat) (v : Byte) : (s.writeByte a v).ceSeen = s.ceSeen := rfl
@[simp] theorem State.writeByte_hbmHot (s : State) (a : Nat) (v : Byte) : (s.writeByte a v).hbmHot = s.hbmHot := rfl
@[simp] theorem State.writeByte_hbmMiss (s : State) (a : Nat) (v : Byte) : (s.writeByte a v).hbmMiss = s.hbmMiss := rfl
@[simp] theorem State.writeByte_scrubPos (s : State) (a : Nat) (v : Byte) : (s.writeByte a v).scrubPos = s.scrubPos := rfl
@[simp] theorem State.writeByte_bridgeCe (s : State) (a : Nat) (v : Byte) : (s.writeByte a v).bridgeCe = s.bridgeCe := rfl
@[simp] theorem State.writeByte_arms (s : State) (a : Nat) (v : Byte) : (s.writeByte a v).arms = s.arms := rfl
@[simp] theorem State.writeByte_silent (s : State) (a : Nat) (v : Byte) : (s.writeByte a v).silent = s.silent := rfl
@[simp] theorem State.writeByte_ports (s : State) (a : Nat) (v : Byte) : (s.writeByte a v).ports = s.ports := rfl
@[simp] theorem State.writeByte_links (s : State) (a : Nat) (v : Byte) : (s.writeByte a v).links = s.links := rfl
@[simp] theorem State.writeByte_grid (s : State) (a : Nat) (v : Byte) : (s.writeByte a v).grid = s.grid := rfl
@[simp] theorem State.writeByte_evtPhase (s : State) (a : Nat) (v : Byte) : (s.writeByte a v).evtPhase = s.evtPhase := rfl
@[simp] theorem State.writeByte_evtOwed (s : State) (a : Nat) (v : Byte) : (s.writeByte a v).evtOwed = s.evtOwed := rfl
@[simp] theorem State.writeByte_msix (s : State) (a : Nat) (v : Byte) : (s.writeByte a v).msix = s.msix := rfl
@[simp] theorem State.writeByte_msixLast (s : State) (a : Nat) (v : Byte) : (s.writeByte a v).msixLast = s.msixLast := rfl
@[simp] theorem State.writeByte_msixHeld (s : State) (a : Nat) (v : Byte) : (s.writeByte a v).msixHeld = s.msixHeld := rfl
@[simp] theorem State.writeByte_rings (s : State) (a : Nat) (v : Byte) : (s.writeByte a v).rings = s.rings := rfl
@[simp] theorem State.writeByte_kickRun (s : State) (a : Nat) (v : Byte) : (s.writeByte a v).kickRun = s.kickRun := rfl
@[simp] theorem State.writeByte_cmds (s : State) (a : Nat) (v : Byte) : (s.writeByte a v).cmds = s.cmds := rfl
@[simp] theorem State.writeByte_queue (s : State) (a : Nat) (v : Byte) : (s.writeByte a v).queue = s.queue := rfl
@[simp] theorem State.writeByte_run (s : State) (a : Nat) (v : Byte) : (s.writeByte a v).run = s.run := rfl
@[simp] theorem State.writeByte_save (s : State) (a : Nat) (v : Byte) : (s.writeByte a v).save = s.save := rfl
@[simp] theorem State.writeByte_nextStep (s : State) (a : Nat) (v : Byte) : (s.writeByte a v).nextStep = s.nextStep := rfl
@[simp] theorem State.writeByte_modeReq (s : State) (a : Nat) (v : Byte) : (s.writeByte a v).modeReq = s.modeReq := rfl
@[simp] theorem State.writeByte_modeRevert (s : State) (a : Nat) (v : Byte) : (s.writeByte a v).modeRevert = s.modeRevert := rfl
@[simp] theorem State.writeByte_admitting (s : State) (a : Nat) (v : Byte) : (s.writeByte a v).admitting = s.admitting := rfl
@[simp] theorem State.writeByte_img (s : State) (a : Nat) (v : Byte) : (s.writeByte a v).img = s.img := rfl
@[simp] theorem State.writeByte_tableOwner (s : State) (a : Nat) (v : Byte) : (s.writeByte a v).tableOwner = s.tableOwner := rfl
@[simp] theorem State.writeByte_suspOwner (s : State) (a : Nat) (v : Byte) : (s.writeByte a v).suspOwner = s.suspOwner := rfl
@[simp] theorem State.writeByte_lastRun (s : State) (a : Nat) (v : Byte) : (s.writeByte a v).lastRun = s.lastRun := rfl
@[simp] theorem State.writeByte_suspendNext (s : State) (a : Nat) (v : Byte) : (s.writeByte a v).suspendNext = s.suspendNext := rfl
@[simp] theorem State.writeByte_faultOs (s : State) (a : Nat) (v : Byte) : (s.writeByte a v).faultOs = s.faultOs := rfl
@[simp] theorem State.writeByte_pinFault (s : State) (a : Nat) (v : Byte) : (s.writeByte a v).pinFault = s.pinFault := rfl
@[simp] theorem State.writeByte_sensorQ (s : State) (a : Nat) (v : Byte) : (s.writeByte a v).sensorQ = s.sensorQ := rfl
@[simp] theorem State.writeByte_arrays (s : State) (a : Nat) (v : Byte) : (s.writeByte a v).arrays = s.arrays := rfl
@[simp] theorem State.writeByte_xpbs (s : State) (a : Nat) (v : Byte) : (s.writeByte a v).xpbs = s.xpbs := rfl
@[simp] theorem State.writeByte_units (s : State) (a : Nat) (v : Byte) : (s.writeByte a v).units = s.units := rfl
@[simp] theorem State.writeByte_scale (s : State) (a : Nat) (v : Byte) : (s.writeByte a v).scale = s.scale := rfl
@[simp] theorem State.writeByte_stepStat (s : State) (a : Nat) (v : Byte) : (s.writeByte a v).stepStat = s.stepStat := rfl
@[simp] theorem State.writeByte_scaleJob (s : State) (a : Nat) (v : Byte) : (s.writeByte a v).scaleJob = s.scaleJob := rfl
@[simp] theorem State.writeByte_lines (s : State) (a : Nat) (v : Byte) : (s.writeByte a v).lines = s.lines := rfl
@[simp] theorem State.writeByte_irqHeld (s : State) (a : Nat) (v : Byte) : (s.writeByte a v).irqHeld = s.irqHeld := rfl
@[simp] theorem State.writeByte_samplers (s : State) (a : Nat) (v : Byte) : (s.writeByte a v).samplers = s.samplers := rfl
@[simp] theorem State.writeByte_cycAcc (s : State) (a : Nat) (v : Byte) : (s.writeByte a v).cycAcc = s.cycAcc := rfl
@[simp] theorem State.writeByte_cycFrom (s : State) (a : Nat) (v : Byte) : (s.writeByte a v).cycFrom = s.cycFrom := rfl
@[simp] theorem State.writeByte_winEnd (s : State) (a : Nat) (v : Byte) : (s.writeByte a v).winEnd = s.winEnd := rfl
@[simp] theorem State.writeByte_edges (s : State) (a : Nat) (v : Byte) : (s.writeByte a v).edges = s.edges := rfl
@[simp] theorem State.writeByte_hostGo (s : State) (a : Nat) (v : Byte) : (s.writeByte a v).hostGo = s.hostGo := rfl
@[simp] theorem State.writeByte_supplied (s : State) (a : Nat) (v : Byte) : (s.writeByte a v).supplied = s.supplied := rfl
@[simp] theorem State.writeByte_readyDue (s : State) (a : Nat) (v : Byte) : (s.writeByte a v).readyDue = s.readyDue := rfl
@[simp] theorem State.writeByte_perst (s : State) (a : Nat) (v : Byte) : (s.writeByte a v).perst = s.perst := rfl
@[simp] theorem State.writeByte_brakePin (s : State) (a : Nat) (v : Byte) : (s.writeByte a v).brakePin = s.brakePin := rfl
@[simp] theorem State.writeByte_pwr (s : State) (a : Nat) (v : Byte) : (s.writeByte a v).pwr = s.pwr := rfl
@[simp] theorem State.writeByte_part (s : State) (a : Nat) (v : Byte) : (s.writeByte a v).part = s.part := rfl
@[simp] theorem State.writeByte_idKey (s : State) (a : Nat) (v : Byte) : (s.writeByte a v).idKey = s.idKey := rfl
@[simp] theorem State.writeByte_mgt (s : State) (a : Nat) (v : Byte) : (s.writeByte a v).mgt = s.mgt := rfl
@[simp] theorem State.writeByte_test (s : State) (a : Nat) (v : Byte) : (s.writeByte a v).test = s.test := rfl
@[simp] theorem State.writeByte_fresh (s : State) (a : Nat) (v : Byte) : (s.writeByte a v).fresh = s.fresh := rfl
@[simp] theorem State.writeByte_out (s : State) (a : Nat) (v : Byte) : (s.writeByte a v).out = s.out := rfl
@[simp] theorem State.writeByte_pending (s : State) (a : Nat) (v : Byte) : (s.writeByte a v).pending = s.pending := rfl

/-! ### State.draw: a free value is drawn -/

@[simp] theorem State.draw_regs (s : State) : (s.draw).regs = s.regs := rfl
@[simp] theorem State.draw_shadows (s : State) : (s.draw).shadows = s.shadows := rfl
@[simp] theorem State.draw_snaps (s : State) : (s.draw).snaps = s.snaps := rfl
@[simp] theorem State.draw_latch (s : State) : (s.draw).latch = s.latch := rfl
@[simp] theorem State.draw_mem (s : State) : (s.draw).mem = s.mem := rfl
@[simp] theorem State.draw_badPairs (s : State) : (s.draw).badPairs = s.badPairs := rfl
@[simp] theorem State.draw_ueHits (s : State) : (s.draw).ueHits = s.ueHits := rfl
@[simp] theorem State.draw_pages (s : State) : (s.draw).pages = s.pages := rfl
@[simp] theorem State.draw_tlb (s : State) : (s.draw).tlb = s.tlb := rfl
@[simp] theorem State.draw_tlbBad (s : State) : (s.draw).tlbBad = s.tlbBad := rfl
@[simp] theorem State.draw_removals (s : State) : (s.draw).removals = s.removals := rfl
@[simp] theorem State.draw_removed (s : State) : (s.draw).removed = s.removed := rfl
@[simp] theorem State.draw_restores (s : State) : (s.draw).restores = s.restores := rfl
@[simp] theorem State.draw_ceSeen (s : State) : (s.draw).ceSeen = s.ceSeen := rfl
@[simp] theorem State.draw_hbmHot (s : State) : (s.draw).hbmHot = s.hbmHot := rfl
@[simp] theorem State.draw_hbmMiss (s : State) : (s.draw).hbmMiss = s.hbmMiss := rfl
@[simp] theorem State.draw_scrubPos (s : State) : (s.draw).scrubPos = s.scrubPos := rfl
@[simp] theorem State.draw_bridgeCe (s : State) : (s.draw).bridgeCe = s.bridgeCe := rfl
@[simp] theorem State.draw_arms (s : State) : (s.draw).arms = s.arms := rfl
@[simp] theorem State.draw_silent (s : State) : (s.draw).silent = s.silent := rfl
@[simp] theorem State.draw_ports (s : State) : (s.draw).ports = s.ports := rfl
@[simp] theorem State.draw_links (s : State) : (s.draw).links = s.links := rfl
@[simp] theorem State.draw_grid (s : State) : (s.draw).grid = s.grid := rfl
@[simp] theorem State.draw_evtPhase (s : State) : (s.draw).evtPhase = s.evtPhase := rfl
@[simp] theorem State.draw_evtOwed (s : State) : (s.draw).evtOwed = s.evtOwed := rfl
@[simp] theorem State.draw_msix (s : State) : (s.draw).msix = s.msix := rfl
@[simp] theorem State.draw_msixLast (s : State) : (s.draw).msixLast = s.msixLast := rfl
@[simp] theorem State.draw_msixHeld (s : State) : (s.draw).msixHeld = s.msixHeld := rfl
@[simp] theorem State.draw_rings (s : State) : (s.draw).rings = s.rings := rfl
@[simp] theorem State.draw_kickRun (s : State) : (s.draw).kickRun = s.kickRun := rfl
@[simp] theorem State.draw_cmds (s : State) : (s.draw).cmds = s.cmds := rfl
@[simp] theorem State.draw_queue (s : State) : (s.draw).queue = s.queue := rfl
@[simp] theorem State.draw_run (s : State) : (s.draw).run = s.run := rfl
@[simp] theorem State.draw_save (s : State) : (s.draw).save = s.save := rfl
@[simp] theorem State.draw_nextStep (s : State) : (s.draw).nextStep = s.nextStep := rfl
@[simp] theorem State.draw_modeReq (s : State) : (s.draw).modeReq = s.modeReq := rfl
@[simp] theorem State.draw_modeRevert (s : State) : (s.draw).modeRevert = s.modeRevert := rfl
@[simp] theorem State.draw_admitting (s : State) : (s.draw).admitting = s.admitting := rfl
@[simp] theorem State.draw_img (s : State) : (s.draw).img = s.img := rfl
@[simp] theorem State.draw_tableOwner (s : State) : (s.draw).tableOwner = s.tableOwner := rfl
@[simp] theorem State.draw_suspOwner (s : State) : (s.draw).suspOwner = s.suspOwner := rfl
@[simp] theorem State.draw_lastRun (s : State) : (s.draw).lastRun = s.lastRun := rfl
@[simp] theorem State.draw_suspendNext (s : State) : (s.draw).suspendNext = s.suspendNext := rfl
@[simp] theorem State.draw_faultOs (s : State) : (s.draw).faultOs = s.faultOs := rfl
@[simp] theorem State.draw_pinFault (s : State) : (s.draw).pinFault = s.pinFault := rfl
@[simp] theorem State.draw_sensorQ (s : State) : (s.draw).sensorQ = s.sensorQ := rfl
@[simp] theorem State.draw_arrays (s : State) : (s.draw).arrays = s.arrays := rfl
@[simp] theorem State.draw_xpbs (s : State) : (s.draw).xpbs = s.xpbs := rfl
@[simp] theorem State.draw_units (s : State) : (s.draw).units = s.units := rfl
@[simp] theorem State.draw_scale (s : State) : (s.draw).scale = s.scale := rfl
@[simp] theorem State.draw_stepStat (s : State) : (s.draw).stepStat = s.stepStat := rfl
@[simp] theorem State.draw_scaleJob (s : State) : (s.draw).scaleJob = s.scaleJob := rfl
@[simp] theorem State.draw_lines (s : State) : (s.draw).lines = s.lines := rfl
@[simp] theorem State.draw_irqHeld (s : State) : (s.draw).irqHeld = s.irqHeld := rfl
@[simp] theorem State.draw_samplers (s : State) : (s.draw).samplers = s.samplers := rfl
@[simp] theorem State.draw_cycAcc (s : State) : (s.draw).cycAcc = s.cycAcc := rfl
@[simp] theorem State.draw_cycFrom (s : State) : (s.draw).cycFrom = s.cycFrom := rfl
@[simp] theorem State.draw_winEnd (s : State) : (s.draw).winEnd = s.winEnd := rfl
@[simp] theorem State.draw_edges (s : State) : (s.draw).edges = s.edges := rfl
@[simp] theorem State.draw_hostGo (s : State) : (s.draw).hostGo = s.hostGo := rfl
@[simp] theorem State.draw_supplied (s : State) : (s.draw).supplied = s.supplied := rfl
@[simp] theorem State.draw_readyDue (s : State) : (s.draw).readyDue = s.readyDue := rfl
@[simp] theorem State.draw_perst (s : State) : (s.draw).perst = s.perst := rfl
@[simp] theorem State.draw_brakePin (s : State) : (s.draw).brakePin = s.brakePin := rfl
@[simp] theorem State.draw_pwr (s : State) : (s.draw).pwr = s.pwr := rfl
@[simp] theorem State.draw_part (s : State) : (s.draw).part = s.part := rfl
@[simp] theorem State.draw_idKey (s : State) : (s.draw).idKey = s.idKey := rfl
@[simp] theorem State.draw_mgt (s : State) : (s.draw).mgt = s.mgt := rfl
@[simp] theorem State.draw_test (s : State) : (s.draw).test = s.test := rfl
@[simp] theorem State.draw_out (s : State) : (s.draw).out = s.out := rfl
@[simp] theorem State.draw_pending (s : State) : (s.draw).pending = s.pending := rfl

/-! ### State.line: a unit drives an interrupt line -/

@[simp] theorem State.line_regs (s : State) (d n : Nat) : (s.line d n).regs = s.regs := rfl
@[simp] theorem State.line_shadows (s : State) (d n : Nat) : (s.line d n).shadows = s.shadows := rfl
@[simp] theorem State.line_snaps (s : State) (d n : Nat) : (s.line d n).snaps = s.snaps := rfl
@[simp] theorem State.line_latch (s : State) (d n : Nat) : (s.line d n).latch = s.latch := rfl
@[simp] theorem State.line_mem (s : State) (d n : Nat) : (s.line d n).mem = s.mem := rfl
@[simp] theorem State.line_badPairs (s : State) (d n : Nat) : (s.line d n).badPairs = s.badPairs := rfl
@[simp] theorem State.line_ueHits (s : State) (d n : Nat) : (s.line d n).ueHits = s.ueHits := rfl
@[simp] theorem State.line_pages (s : State) (d n : Nat) : (s.line d n).pages = s.pages := rfl
@[simp] theorem State.line_tlb (s : State) (d n : Nat) : (s.line d n).tlb = s.tlb := rfl
@[simp] theorem State.line_tlbBad (s : State) (d n : Nat) : (s.line d n).tlbBad = s.tlbBad := rfl
@[simp] theorem State.line_removals (s : State) (d n : Nat) : (s.line d n).removals = s.removals := rfl
@[simp] theorem State.line_removed (s : State) (d n : Nat) : (s.line d n).removed = s.removed := rfl
@[simp] theorem State.line_restores (s : State) (d n : Nat) : (s.line d n).restores = s.restores := rfl
@[simp] theorem State.line_ceSeen (s : State) (d n : Nat) : (s.line d n).ceSeen = s.ceSeen := rfl
@[simp] theorem State.line_hbmHot (s : State) (d n : Nat) : (s.line d n).hbmHot = s.hbmHot := rfl
@[simp] theorem State.line_hbmMiss (s : State) (d n : Nat) : (s.line d n).hbmMiss = s.hbmMiss := rfl
@[simp] theorem State.line_scrubPos (s : State) (d n : Nat) : (s.line d n).scrubPos = s.scrubPos := rfl
@[simp] theorem State.line_bridgeCe (s : State) (d n : Nat) : (s.line d n).bridgeCe = s.bridgeCe := rfl
@[simp] theorem State.line_arms (s : State) (d n : Nat) : (s.line d n).arms = s.arms := rfl
@[simp] theorem State.line_silent (s : State) (d n : Nat) : (s.line d n).silent = s.silent := rfl
@[simp] theorem State.line_ports (s : State) (d n : Nat) : (s.line d n).ports = s.ports := rfl
@[simp] theorem State.line_links (s : State) (d n : Nat) : (s.line d n).links = s.links := rfl
@[simp] theorem State.line_grid (s : State) (d n : Nat) : (s.line d n).grid = s.grid := rfl
@[simp] theorem State.line_evtPhase (s : State) (d n : Nat) : (s.line d n).evtPhase = s.evtPhase := rfl
@[simp] theorem State.line_evtOwed (s : State) (d n : Nat) : (s.line d n).evtOwed = s.evtOwed := rfl
@[simp] theorem State.line_msix (s : State) (d n : Nat) : (s.line d n).msix = s.msix := rfl
@[simp] theorem State.line_msixLast (s : State) (d n : Nat) : (s.line d n).msixLast = s.msixLast := rfl
@[simp] theorem State.line_msixHeld (s : State) (d n : Nat) : (s.line d n).msixHeld = s.msixHeld := rfl
@[simp] theorem State.line_rings (s : State) (d n : Nat) : (s.line d n).rings = s.rings := rfl
@[simp] theorem State.line_kickRun (s : State) (d n : Nat) : (s.line d n).kickRun = s.kickRun := rfl
@[simp] theorem State.line_cmds (s : State) (d n : Nat) : (s.line d n).cmds = s.cmds := rfl
@[simp] theorem State.line_queue (s : State) (d n : Nat) : (s.line d n).queue = s.queue := rfl
@[simp] theorem State.line_run (s : State) (d n : Nat) : (s.line d n).run = s.run := rfl
@[simp] theorem State.line_save (s : State) (d n : Nat) : (s.line d n).save = s.save := rfl
@[simp] theorem State.line_nextStep (s : State) (d n : Nat) : (s.line d n).nextStep = s.nextStep := rfl
@[simp] theorem State.line_modeReq (s : State) (d n : Nat) : (s.line d n).modeReq = s.modeReq := rfl
@[simp] theorem State.line_modeRevert (s : State) (d n : Nat) : (s.line d n).modeRevert = s.modeRevert := rfl
@[simp] theorem State.line_admitting (s : State) (d n : Nat) : (s.line d n).admitting = s.admitting := rfl
@[simp] theorem State.line_img (s : State) (d n : Nat) : (s.line d n).img = s.img := rfl
@[simp] theorem State.line_tableOwner (s : State) (d n : Nat) : (s.line d n).tableOwner = s.tableOwner := rfl
@[simp] theorem State.line_suspOwner (s : State) (d n : Nat) : (s.line d n).suspOwner = s.suspOwner := rfl
@[simp] theorem State.line_lastRun (s : State) (d n : Nat) : (s.line d n).lastRun = s.lastRun := rfl
@[simp] theorem State.line_suspendNext (s : State) (d n : Nat) : (s.line d n).suspendNext = s.suspendNext := rfl
@[simp] theorem State.line_faultOs (s : State) (d n : Nat) : (s.line d n).faultOs = s.faultOs := rfl
@[simp] theorem State.line_pinFault (s : State) (d n : Nat) : (s.line d n).pinFault = s.pinFault := rfl
@[simp] theorem State.line_sensorQ (s : State) (d n : Nat) : (s.line d n).sensorQ = s.sensorQ := rfl
@[simp] theorem State.line_arrays (s : State) (d n : Nat) : (s.line d n).arrays = s.arrays := rfl
@[simp] theorem State.line_xpbs (s : State) (d n : Nat) : (s.line d n).xpbs = s.xpbs := rfl
@[simp] theorem State.line_units (s : State) (d n : Nat) : (s.line d n).units = s.units := rfl
@[simp] theorem State.line_scale (s : State) (d n : Nat) : (s.line d n).scale = s.scale := rfl
@[simp] theorem State.line_stepStat (s : State) (d n : Nat) : (s.line d n).stepStat = s.stepStat := rfl
@[simp] theorem State.line_scaleJob (s : State) (d n : Nat) : (s.line d n).scaleJob = s.scaleJob := rfl
@[simp] theorem State.line_irqHeld (s : State) (d n : Nat) : (s.line d n).irqHeld = s.irqHeld := rfl
@[simp] theorem State.line_samplers (s : State) (d n : Nat) : (s.line d n).samplers = s.samplers := rfl
@[simp] theorem State.line_cycAcc (s : State) (d n : Nat) : (s.line d n).cycAcc = s.cycAcc := rfl
@[simp] theorem State.line_cycFrom (s : State) (d n : Nat) : (s.line d n).cycFrom = s.cycFrom := rfl
@[simp] theorem State.line_winEnd (s : State) (d n : Nat) : (s.line d n).winEnd = s.winEnd := rfl
@[simp] theorem State.line_edges (s : State) (d n : Nat) : (s.line d n).edges = s.edges := rfl
@[simp] theorem State.line_hostGo (s : State) (d n : Nat) : (s.line d n).hostGo = s.hostGo := rfl
@[simp] theorem State.line_supplied (s : State) (d n : Nat) : (s.line d n).supplied = s.supplied := rfl
@[simp] theorem State.line_readyDue (s : State) (d n : Nat) : (s.line d n).readyDue = s.readyDue := rfl
@[simp] theorem State.line_perst (s : State) (d n : Nat) : (s.line d n).perst = s.perst := rfl
@[simp] theorem State.line_brakePin (s : State) (d n : Nat) : (s.line d n).brakePin = s.brakePin := rfl
@[simp] theorem State.line_pwr (s : State) (d n : Nat) : (s.line d n).pwr = s.pwr := rfl
@[simp] theorem State.line_part (s : State) (d n : Nat) : (s.line d n).part = s.part := rfl
@[simp] theorem State.line_idKey (s : State) (d n : Nat) : (s.line d n).idKey = s.idKey := rfl
@[simp] theorem State.line_mgt (s : State) (d n : Nat) : (s.line d n).mgt = s.mgt := rfl
@[simp] theorem State.line_test (s : State) (d n : Nat) : (s.line d n).test = s.test := rfl
@[simp] theorem State.line_fresh (s : State) (d n : Nat) : (s.line d n).fresh = s.fresh := rfl
@[simp] theorem State.line_out (s : State) (d n : Nat) : (s.line d n).out = s.out := rfl
@[simp] theorem State.line_pending (s : State) (d n : Nat) : (s.line d n).pending = s.pending := rfl

/-! ### State.portMod: what a port keeps changes -/

@[simp] theorem State.portMod_regs (s : State) (n : Nat) (f : PortUnit → PortUnit) : (s.portMod n f).regs = s.regs := rfl
@[simp] theorem State.portMod_shadows (s : State) (n : Nat) (f : PortUnit → PortUnit) : (s.portMod n f).shadows = s.shadows := rfl
@[simp] theorem State.portMod_snaps (s : State) (n : Nat) (f : PortUnit → PortUnit) : (s.portMod n f).snaps = s.snaps := rfl
@[simp] theorem State.portMod_latch (s : State) (n : Nat) (f : PortUnit → PortUnit) : (s.portMod n f).latch = s.latch := rfl
@[simp] theorem State.portMod_mem (s : State) (n : Nat) (f : PortUnit → PortUnit) : (s.portMod n f).mem = s.mem := rfl
@[simp] theorem State.portMod_badPairs (s : State) (n : Nat) (f : PortUnit → PortUnit) : (s.portMod n f).badPairs = s.badPairs := rfl
@[simp] theorem State.portMod_ueHits (s : State) (n : Nat) (f : PortUnit → PortUnit) : (s.portMod n f).ueHits = s.ueHits := rfl
@[simp] theorem State.portMod_pages (s : State) (n : Nat) (f : PortUnit → PortUnit) : (s.portMod n f).pages = s.pages := rfl
@[simp] theorem State.portMod_tlb (s : State) (n : Nat) (f : PortUnit → PortUnit) : (s.portMod n f).tlb = s.tlb := rfl
@[simp] theorem State.portMod_tlbBad (s : State) (n : Nat) (f : PortUnit → PortUnit) : (s.portMod n f).tlbBad = s.tlbBad := rfl
@[simp] theorem State.portMod_removals (s : State) (n : Nat) (f : PortUnit → PortUnit) : (s.portMod n f).removals = s.removals := rfl
@[simp] theorem State.portMod_removed (s : State) (n : Nat) (f : PortUnit → PortUnit) : (s.portMod n f).removed = s.removed := rfl
@[simp] theorem State.portMod_restores (s : State) (n : Nat) (f : PortUnit → PortUnit) : (s.portMod n f).restores = s.restores := rfl
@[simp] theorem State.portMod_ceSeen (s : State) (n : Nat) (f : PortUnit → PortUnit) : (s.portMod n f).ceSeen = s.ceSeen := rfl
@[simp] theorem State.portMod_hbmHot (s : State) (n : Nat) (f : PortUnit → PortUnit) : (s.portMod n f).hbmHot = s.hbmHot := rfl
@[simp] theorem State.portMod_hbmMiss (s : State) (n : Nat) (f : PortUnit → PortUnit) : (s.portMod n f).hbmMiss = s.hbmMiss := rfl
@[simp] theorem State.portMod_scrubPos (s : State) (n : Nat) (f : PortUnit → PortUnit) : (s.portMod n f).scrubPos = s.scrubPos := rfl
@[simp] theorem State.portMod_bridgeCe (s : State) (n : Nat) (f : PortUnit → PortUnit) : (s.portMod n f).bridgeCe = s.bridgeCe := rfl
@[simp] theorem State.portMod_arms (s : State) (n : Nat) (f : PortUnit → PortUnit) : (s.portMod n f).arms = s.arms := rfl
@[simp] theorem State.portMod_silent (s : State) (n : Nat) (f : PortUnit → PortUnit) : (s.portMod n f).silent = s.silent := rfl
@[simp] theorem State.portMod_links (s : State) (n : Nat) (f : PortUnit → PortUnit) : (s.portMod n f).links = s.links := rfl
@[simp] theorem State.portMod_grid (s : State) (n : Nat) (f : PortUnit → PortUnit) : (s.portMod n f).grid = s.grid := rfl
@[simp] theorem State.portMod_evtPhase (s : State) (n : Nat) (f : PortUnit → PortUnit) : (s.portMod n f).evtPhase = s.evtPhase := rfl
@[simp] theorem State.portMod_evtOwed (s : State) (n : Nat) (f : PortUnit → PortUnit) : (s.portMod n f).evtOwed = s.evtOwed := rfl
@[simp] theorem State.portMod_msix (s : State) (n : Nat) (f : PortUnit → PortUnit) : (s.portMod n f).msix = s.msix := rfl
@[simp] theorem State.portMod_msixLast (s : State) (n : Nat) (f : PortUnit → PortUnit) : (s.portMod n f).msixLast = s.msixLast := rfl
@[simp] theorem State.portMod_msixHeld (s : State) (n : Nat) (f : PortUnit → PortUnit) : (s.portMod n f).msixHeld = s.msixHeld := rfl
@[simp] theorem State.portMod_rings (s : State) (n : Nat) (f : PortUnit → PortUnit) : (s.portMod n f).rings = s.rings := rfl
@[simp] theorem State.portMod_kickRun (s : State) (n : Nat) (f : PortUnit → PortUnit) : (s.portMod n f).kickRun = s.kickRun := rfl
@[simp] theorem State.portMod_cmds (s : State) (n : Nat) (f : PortUnit → PortUnit) : (s.portMod n f).cmds = s.cmds := rfl
@[simp] theorem State.portMod_queue (s : State) (n : Nat) (f : PortUnit → PortUnit) : (s.portMod n f).queue = s.queue := rfl
@[simp] theorem State.portMod_run (s : State) (n : Nat) (f : PortUnit → PortUnit) : (s.portMod n f).run = s.run := rfl
@[simp] theorem State.portMod_save (s : State) (n : Nat) (f : PortUnit → PortUnit) : (s.portMod n f).save = s.save := rfl
@[simp] theorem State.portMod_nextStep (s : State) (n : Nat) (f : PortUnit → PortUnit) : (s.portMod n f).nextStep = s.nextStep := rfl
@[simp] theorem State.portMod_modeReq (s : State) (n : Nat) (f : PortUnit → PortUnit) : (s.portMod n f).modeReq = s.modeReq := rfl
@[simp] theorem State.portMod_modeRevert (s : State) (n : Nat) (f : PortUnit → PortUnit) : (s.portMod n f).modeRevert = s.modeRevert := rfl
@[simp] theorem State.portMod_admitting (s : State) (n : Nat) (f : PortUnit → PortUnit) : (s.portMod n f).admitting = s.admitting := rfl
@[simp] theorem State.portMod_img (s : State) (n : Nat) (f : PortUnit → PortUnit) : (s.portMod n f).img = s.img := rfl
@[simp] theorem State.portMod_tableOwner (s : State) (n : Nat) (f : PortUnit → PortUnit) : (s.portMod n f).tableOwner = s.tableOwner := rfl
@[simp] theorem State.portMod_suspOwner (s : State) (n : Nat) (f : PortUnit → PortUnit) : (s.portMod n f).suspOwner = s.suspOwner := rfl
@[simp] theorem State.portMod_lastRun (s : State) (n : Nat) (f : PortUnit → PortUnit) : (s.portMod n f).lastRun = s.lastRun := rfl
@[simp] theorem State.portMod_suspendNext (s : State) (n : Nat) (f : PortUnit → PortUnit) : (s.portMod n f).suspendNext = s.suspendNext := rfl
@[simp] theorem State.portMod_faultOs (s : State) (n : Nat) (f : PortUnit → PortUnit) : (s.portMod n f).faultOs = s.faultOs := rfl
@[simp] theorem State.portMod_pinFault (s : State) (n : Nat) (f : PortUnit → PortUnit) : (s.portMod n f).pinFault = s.pinFault := rfl
@[simp] theorem State.portMod_sensorQ (s : State) (n : Nat) (f : PortUnit → PortUnit) : (s.portMod n f).sensorQ = s.sensorQ := rfl
@[simp] theorem State.portMod_arrays (s : State) (n : Nat) (f : PortUnit → PortUnit) : (s.portMod n f).arrays = s.arrays := rfl
@[simp] theorem State.portMod_xpbs (s : State) (n : Nat) (f : PortUnit → PortUnit) : (s.portMod n f).xpbs = s.xpbs := rfl
@[simp] theorem State.portMod_units (s : State) (n : Nat) (f : PortUnit → PortUnit) : (s.portMod n f).units = s.units := rfl
@[simp] theorem State.portMod_scale (s : State) (n : Nat) (f : PortUnit → PortUnit) : (s.portMod n f).scale = s.scale := rfl
@[simp] theorem State.portMod_stepStat (s : State) (n : Nat) (f : PortUnit → PortUnit) : (s.portMod n f).stepStat = s.stepStat := rfl
@[simp] theorem State.portMod_scaleJob (s : State) (n : Nat) (f : PortUnit → PortUnit) : (s.portMod n f).scaleJob = s.scaleJob := rfl
@[simp] theorem State.portMod_lines (s : State) (n : Nat) (f : PortUnit → PortUnit) : (s.portMod n f).lines = s.lines := rfl
@[simp] theorem State.portMod_irqHeld (s : State) (n : Nat) (f : PortUnit → PortUnit) : (s.portMod n f).irqHeld = s.irqHeld := rfl
@[simp] theorem State.portMod_samplers (s : State) (n : Nat) (f : PortUnit → PortUnit) : (s.portMod n f).samplers = s.samplers := rfl
@[simp] theorem State.portMod_cycAcc (s : State) (n : Nat) (f : PortUnit → PortUnit) : (s.portMod n f).cycAcc = s.cycAcc := rfl
@[simp] theorem State.portMod_cycFrom (s : State) (n : Nat) (f : PortUnit → PortUnit) : (s.portMod n f).cycFrom = s.cycFrom := rfl
@[simp] theorem State.portMod_winEnd (s : State) (n : Nat) (f : PortUnit → PortUnit) : (s.portMod n f).winEnd = s.winEnd := rfl
@[simp] theorem State.portMod_edges (s : State) (n : Nat) (f : PortUnit → PortUnit) : (s.portMod n f).edges = s.edges := rfl
@[simp] theorem State.portMod_hostGo (s : State) (n : Nat) (f : PortUnit → PortUnit) : (s.portMod n f).hostGo = s.hostGo := rfl
@[simp] theorem State.portMod_supplied (s : State) (n : Nat) (f : PortUnit → PortUnit) : (s.portMod n f).supplied = s.supplied := rfl
@[simp] theorem State.portMod_readyDue (s : State) (n : Nat) (f : PortUnit → PortUnit) : (s.portMod n f).readyDue = s.readyDue := rfl
@[simp] theorem State.portMod_perst (s : State) (n : Nat) (f : PortUnit → PortUnit) : (s.portMod n f).perst = s.perst := rfl
@[simp] theorem State.portMod_brakePin (s : State) (n : Nat) (f : PortUnit → PortUnit) : (s.portMod n f).brakePin = s.brakePin := rfl
@[simp] theorem State.portMod_pwr (s : State) (n : Nat) (f : PortUnit → PortUnit) : (s.portMod n f).pwr = s.pwr := rfl
@[simp] theorem State.portMod_part (s : State) (n : Nat) (f : PortUnit → PortUnit) : (s.portMod n f).part = s.part := rfl
@[simp] theorem State.portMod_idKey (s : State) (n : Nat) (f : PortUnit → PortUnit) : (s.portMod n f).idKey = s.idKey := rfl
@[simp] theorem State.portMod_mgt (s : State) (n : Nat) (f : PortUnit → PortUnit) : (s.portMod n f).mgt = s.mgt := rfl
@[simp] theorem State.portMod_test (s : State) (n : Nat) (f : PortUnit → PortUnit) : (s.portMod n f).test = s.test := rfl
@[simp] theorem State.portMod_fresh (s : State) (n : Nat) (f : PortUnit → PortUnit) : (s.portMod n f).fresh = s.fresh := rfl
@[simp] theorem State.portMod_out (s : State) (n : Nat) (f : PortUnit → PortUnit) : (s.portMod n f).out = s.out := rfl
@[simp] theorem State.portMod_pending (s : State) (n : Nat) (f : PortUnit → PortUnit) : (s.portMod n f).pending = s.pending := rfl

/-! ### State.arrMod: what an array keeps changes -/

@[simp] theorem State.arrMod_regs (s : State) (a : Nat) (f : ArrayUnit → ArrayUnit) : (s.arrMod a f).regs = s.regs := rfl
@[simp] theorem State.arrMod_shadows (s : State) (a : Nat) (f : ArrayUnit → ArrayUnit) : (s.arrMod a f).shadows = s.shadows := rfl
@[simp] theorem State.arrMod_snaps (s : State) (a : Nat) (f : ArrayUnit → ArrayUnit) : (s.arrMod a f).snaps = s.snaps := rfl
@[simp] theorem State.arrMod_latch (s : State) (a : Nat) (f : ArrayUnit → ArrayUnit) : (s.arrMod a f).latch = s.latch := rfl
@[simp] theorem State.arrMod_mem (s : State) (a : Nat) (f : ArrayUnit → ArrayUnit) : (s.arrMod a f).mem = s.mem := rfl
@[simp] theorem State.arrMod_badPairs (s : State) (a : Nat) (f : ArrayUnit → ArrayUnit) : (s.arrMod a f).badPairs = s.badPairs := rfl
@[simp] theorem State.arrMod_ueHits (s : State) (a : Nat) (f : ArrayUnit → ArrayUnit) : (s.arrMod a f).ueHits = s.ueHits := rfl
@[simp] theorem State.arrMod_pages (s : State) (a : Nat) (f : ArrayUnit → ArrayUnit) : (s.arrMod a f).pages = s.pages := rfl
@[simp] theorem State.arrMod_tlb (s : State) (a : Nat) (f : ArrayUnit → ArrayUnit) : (s.arrMod a f).tlb = s.tlb := rfl
@[simp] theorem State.arrMod_tlbBad (s : State) (a : Nat) (f : ArrayUnit → ArrayUnit) : (s.arrMod a f).tlbBad = s.tlbBad := rfl
@[simp] theorem State.arrMod_removals (s : State) (a : Nat) (f : ArrayUnit → ArrayUnit) : (s.arrMod a f).removals = s.removals := rfl
@[simp] theorem State.arrMod_removed (s : State) (a : Nat) (f : ArrayUnit → ArrayUnit) : (s.arrMod a f).removed = s.removed := rfl
@[simp] theorem State.arrMod_restores (s : State) (a : Nat) (f : ArrayUnit → ArrayUnit) : (s.arrMod a f).restores = s.restores := rfl
@[simp] theorem State.arrMod_ceSeen (s : State) (a : Nat) (f : ArrayUnit → ArrayUnit) : (s.arrMod a f).ceSeen = s.ceSeen := rfl
@[simp] theorem State.arrMod_hbmHot (s : State) (a : Nat) (f : ArrayUnit → ArrayUnit) : (s.arrMod a f).hbmHot = s.hbmHot := rfl
@[simp] theorem State.arrMod_hbmMiss (s : State) (a : Nat) (f : ArrayUnit → ArrayUnit) : (s.arrMod a f).hbmMiss = s.hbmMiss := rfl
@[simp] theorem State.arrMod_scrubPos (s : State) (a : Nat) (f : ArrayUnit → ArrayUnit) : (s.arrMod a f).scrubPos = s.scrubPos := rfl
@[simp] theorem State.arrMod_bridgeCe (s : State) (a : Nat) (f : ArrayUnit → ArrayUnit) : (s.arrMod a f).bridgeCe = s.bridgeCe := rfl
@[simp] theorem State.arrMod_arms (s : State) (a : Nat) (f : ArrayUnit → ArrayUnit) : (s.arrMod a f).arms = s.arms := rfl
@[simp] theorem State.arrMod_silent (s : State) (a : Nat) (f : ArrayUnit → ArrayUnit) : (s.arrMod a f).silent = s.silent := rfl
@[simp] theorem State.arrMod_ports (s : State) (a : Nat) (f : ArrayUnit → ArrayUnit) : (s.arrMod a f).ports = s.ports := rfl
@[simp] theorem State.arrMod_links (s : State) (a : Nat) (f : ArrayUnit → ArrayUnit) : (s.arrMod a f).links = s.links := rfl
@[simp] theorem State.arrMod_grid (s : State) (a : Nat) (f : ArrayUnit → ArrayUnit) : (s.arrMod a f).grid = s.grid := rfl
@[simp] theorem State.arrMod_evtPhase (s : State) (a : Nat) (f : ArrayUnit → ArrayUnit) : (s.arrMod a f).evtPhase = s.evtPhase := rfl
@[simp] theorem State.arrMod_evtOwed (s : State) (a : Nat) (f : ArrayUnit → ArrayUnit) : (s.arrMod a f).evtOwed = s.evtOwed := rfl
@[simp] theorem State.arrMod_msix (s : State) (a : Nat) (f : ArrayUnit → ArrayUnit) : (s.arrMod a f).msix = s.msix := rfl
@[simp] theorem State.arrMod_msixLast (s : State) (a : Nat) (f : ArrayUnit → ArrayUnit) : (s.arrMod a f).msixLast = s.msixLast := rfl
@[simp] theorem State.arrMod_msixHeld (s : State) (a : Nat) (f : ArrayUnit → ArrayUnit) : (s.arrMod a f).msixHeld = s.msixHeld := rfl
@[simp] theorem State.arrMod_rings (s : State) (a : Nat) (f : ArrayUnit → ArrayUnit) : (s.arrMod a f).rings = s.rings := rfl
@[simp] theorem State.arrMod_kickRun (s : State) (a : Nat) (f : ArrayUnit → ArrayUnit) : (s.arrMod a f).kickRun = s.kickRun := rfl
@[simp] theorem State.arrMod_cmds (s : State) (a : Nat) (f : ArrayUnit → ArrayUnit) : (s.arrMod a f).cmds = s.cmds := rfl
@[simp] theorem State.arrMod_queue (s : State) (a : Nat) (f : ArrayUnit → ArrayUnit) : (s.arrMod a f).queue = s.queue := rfl
@[simp] theorem State.arrMod_run (s : State) (a : Nat) (f : ArrayUnit → ArrayUnit) : (s.arrMod a f).run = s.run := rfl
@[simp] theorem State.arrMod_save (s : State) (a : Nat) (f : ArrayUnit → ArrayUnit) : (s.arrMod a f).save = s.save := rfl
@[simp] theorem State.arrMod_nextStep (s : State) (a : Nat) (f : ArrayUnit → ArrayUnit) : (s.arrMod a f).nextStep = s.nextStep := rfl
@[simp] theorem State.arrMod_modeReq (s : State) (a : Nat) (f : ArrayUnit → ArrayUnit) : (s.arrMod a f).modeReq = s.modeReq := rfl
@[simp] theorem State.arrMod_modeRevert (s : State) (a : Nat) (f : ArrayUnit → ArrayUnit) : (s.arrMod a f).modeRevert = s.modeRevert := rfl
@[simp] theorem State.arrMod_admitting (s : State) (a : Nat) (f : ArrayUnit → ArrayUnit) : (s.arrMod a f).admitting = s.admitting := rfl
@[simp] theorem State.arrMod_img (s : State) (a : Nat) (f : ArrayUnit → ArrayUnit) : (s.arrMod a f).img = s.img := rfl
@[simp] theorem State.arrMod_tableOwner (s : State) (a : Nat) (f : ArrayUnit → ArrayUnit) : (s.arrMod a f).tableOwner = s.tableOwner := rfl
@[simp] theorem State.arrMod_suspOwner (s : State) (a : Nat) (f : ArrayUnit → ArrayUnit) : (s.arrMod a f).suspOwner = s.suspOwner := rfl
@[simp] theorem State.arrMod_lastRun (s : State) (a : Nat) (f : ArrayUnit → ArrayUnit) : (s.arrMod a f).lastRun = s.lastRun := rfl
@[simp] theorem State.arrMod_suspendNext (s : State) (a : Nat) (f : ArrayUnit → ArrayUnit) : (s.arrMod a f).suspendNext = s.suspendNext := rfl
@[simp] theorem State.arrMod_faultOs (s : State) (a : Nat) (f : ArrayUnit → ArrayUnit) : (s.arrMod a f).faultOs = s.faultOs := rfl
@[simp] theorem State.arrMod_pinFault (s : State) (a : Nat) (f : ArrayUnit → ArrayUnit) : (s.arrMod a f).pinFault = s.pinFault := rfl
@[simp] theorem State.arrMod_sensorQ (s : State) (a : Nat) (f : ArrayUnit → ArrayUnit) : (s.arrMod a f).sensorQ = s.sensorQ := rfl
@[simp] theorem State.arrMod_xpbs (s : State) (a : Nat) (f : ArrayUnit → ArrayUnit) : (s.arrMod a f).xpbs = s.xpbs := rfl
@[simp] theorem State.arrMod_units (s : State) (a : Nat) (f : ArrayUnit → ArrayUnit) : (s.arrMod a f).units = s.units := rfl
@[simp] theorem State.arrMod_scale (s : State) (a : Nat) (f : ArrayUnit → ArrayUnit) : (s.arrMod a f).scale = s.scale := rfl
@[simp] theorem State.arrMod_stepStat (s : State) (a : Nat) (f : ArrayUnit → ArrayUnit) : (s.arrMod a f).stepStat = s.stepStat := rfl
@[simp] theorem State.arrMod_scaleJob (s : State) (a : Nat) (f : ArrayUnit → ArrayUnit) : (s.arrMod a f).scaleJob = s.scaleJob := rfl
@[simp] theorem State.arrMod_lines (s : State) (a : Nat) (f : ArrayUnit → ArrayUnit) : (s.arrMod a f).lines = s.lines := rfl
@[simp] theorem State.arrMod_irqHeld (s : State) (a : Nat) (f : ArrayUnit → ArrayUnit) : (s.arrMod a f).irqHeld = s.irqHeld := rfl
@[simp] theorem State.arrMod_samplers (s : State) (a : Nat) (f : ArrayUnit → ArrayUnit) : (s.arrMod a f).samplers = s.samplers := rfl
@[simp] theorem State.arrMod_cycAcc (s : State) (a : Nat) (f : ArrayUnit → ArrayUnit) : (s.arrMod a f).cycAcc = s.cycAcc := rfl
@[simp] theorem State.arrMod_cycFrom (s : State) (a : Nat) (f : ArrayUnit → ArrayUnit) : (s.arrMod a f).cycFrom = s.cycFrom := rfl
@[simp] theorem State.arrMod_winEnd (s : State) (a : Nat) (f : ArrayUnit → ArrayUnit) : (s.arrMod a f).winEnd = s.winEnd := rfl
@[simp] theorem State.arrMod_edges (s : State) (a : Nat) (f : ArrayUnit → ArrayUnit) : (s.arrMod a f).edges = s.edges := rfl
@[simp] theorem State.arrMod_hostGo (s : State) (a : Nat) (f : ArrayUnit → ArrayUnit) : (s.arrMod a f).hostGo = s.hostGo := rfl
@[simp] theorem State.arrMod_supplied (s : State) (a : Nat) (f : ArrayUnit → ArrayUnit) : (s.arrMod a f).supplied = s.supplied := rfl
@[simp] theorem State.arrMod_readyDue (s : State) (a : Nat) (f : ArrayUnit → ArrayUnit) : (s.arrMod a f).readyDue = s.readyDue := rfl
@[simp] theorem State.arrMod_perst (s : State) (a : Nat) (f : ArrayUnit → ArrayUnit) : (s.arrMod a f).perst = s.perst := rfl
@[simp] theorem State.arrMod_brakePin (s : State) (a : Nat) (f : ArrayUnit → ArrayUnit) : (s.arrMod a f).brakePin = s.brakePin := rfl
@[simp] theorem State.arrMod_pwr (s : State) (a : Nat) (f : ArrayUnit → ArrayUnit) : (s.arrMod a f).pwr = s.pwr := rfl
@[simp] theorem State.arrMod_part (s : State) (a : Nat) (f : ArrayUnit → ArrayUnit) : (s.arrMod a f).part = s.part := rfl
@[simp] theorem State.arrMod_idKey (s : State) (a : Nat) (f : ArrayUnit → ArrayUnit) : (s.arrMod a f).idKey = s.idKey := rfl
@[simp] theorem State.arrMod_mgt (s : State) (a : Nat) (f : ArrayUnit → ArrayUnit) : (s.arrMod a f).mgt = s.mgt := rfl
@[simp] theorem State.arrMod_test (s : State) (a : Nat) (f : ArrayUnit → ArrayUnit) : (s.arrMod a f).test = s.test := rfl
@[simp] theorem State.arrMod_fresh (s : State) (a : Nat) (f : ArrayUnit → ArrayUnit) : (s.arrMod a f).fresh = s.fresh := rfl
@[simp] theorem State.arrMod_out (s : State) (a : Nat) (f : ArrayUnit → ArrayUnit) : (s.arrMod a f).out = s.out := rfl
@[simp] theorem State.arrMod_pending (s : State) (a : Nat) (f : ArrayUnit → ArrayUnit) : (s.arrMod a f).pending = s.pending := rfl

/-! ### State.setXpb: what a transposing buffer keeps changes -/

@[simp] theorem State.setXpb_regs (s : State) (k : Nat) (u : XpbBuf) : (s.setXpb k u).regs = s.regs := rfl
@[simp] theorem State.setXpb_shadows (s : State) (k : Nat) (u : XpbBuf) : (s.setXpb k u).shadows = s.shadows := rfl
@[simp] theorem State.setXpb_snaps (s : State) (k : Nat) (u : XpbBuf) : (s.setXpb k u).snaps = s.snaps := rfl
@[simp] theorem State.setXpb_latch (s : State) (k : Nat) (u : XpbBuf) : (s.setXpb k u).latch = s.latch := rfl
@[simp] theorem State.setXpb_mem (s : State) (k : Nat) (u : XpbBuf) : (s.setXpb k u).mem = s.mem := rfl
@[simp] theorem State.setXpb_badPairs (s : State) (k : Nat) (u : XpbBuf) : (s.setXpb k u).badPairs = s.badPairs := rfl
@[simp] theorem State.setXpb_ueHits (s : State) (k : Nat) (u : XpbBuf) : (s.setXpb k u).ueHits = s.ueHits := rfl
@[simp] theorem State.setXpb_pages (s : State) (k : Nat) (u : XpbBuf) : (s.setXpb k u).pages = s.pages := rfl
@[simp] theorem State.setXpb_tlb (s : State) (k : Nat) (u : XpbBuf) : (s.setXpb k u).tlb = s.tlb := rfl
@[simp] theorem State.setXpb_tlbBad (s : State) (k : Nat) (u : XpbBuf) : (s.setXpb k u).tlbBad = s.tlbBad := rfl
@[simp] theorem State.setXpb_removals (s : State) (k : Nat) (u : XpbBuf) : (s.setXpb k u).removals = s.removals := rfl
@[simp] theorem State.setXpb_removed (s : State) (k : Nat) (u : XpbBuf) : (s.setXpb k u).removed = s.removed := rfl
@[simp] theorem State.setXpb_restores (s : State) (k : Nat) (u : XpbBuf) : (s.setXpb k u).restores = s.restores := rfl
@[simp] theorem State.setXpb_ceSeen (s : State) (k : Nat) (u : XpbBuf) : (s.setXpb k u).ceSeen = s.ceSeen := rfl
@[simp] theorem State.setXpb_hbmHot (s : State) (k : Nat) (u : XpbBuf) : (s.setXpb k u).hbmHot = s.hbmHot := rfl
@[simp] theorem State.setXpb_hbmMiss (s : State) (k : Nat) (u : XpbBuf) : (s.setXpb k u).hbmMiss = s.hbmMiss := rfl
@[simp] theorem State.setXpb_scrubPos (s : State) (k : Nat) (u : XpbBuf) : (s.setXpb k u).scrubPos = s.scrubPos := rfl
@[simp] theorem State.setXpb_bridgeCe (s : State) (k : Nat) (u : XpbBuf) : (s.setXpb k u).bridgeCe = s.bridgeCe := rfl
@[simp] theorem State.setXpb_arms (s : State) (k : Nat) (u : XpbBuf) : (s.setXpb k u).arms = s.arms := rfl
@[simp] theorem State.setXpb_silent (s : State) (k : Nat) (u : XpbBuf) : (s.setXpb k u).silent = s.silent := rfl
@[simp] theorem State.setXpb_ports (s : State) (k : Nat) (u : XpbBuf) : (s.setXpb k u).ports = s.ports := rfl
@[simp] theorem State.setXpb_links (s : State) (k : Nat) (u : XpbBuf) : (s.setXpb k u).links = s.links := rfl
@[simp] theorem State.setXpb_grid (s : State) (k : Nat) (u : XpbBuf) : (s.setXpb k u).grid = s.grid := rfl
@[simp] theorem State.setXpb_evtPhase (s : State) (k : Nat) (u : XpbBuf) : (s.setXpb k u).evtPhase = s.evtPhase := rfl
@[simp] theorem State.setXpb_evtOwed (s : State) (k : Nat) (u : XpbBuf) : (s.setXpb k u).evtOwed = s.evtOwed := rfl
@[simp] theorem State.setXpb_msix (s : State) (k : Nat) (u : XpbBuf) : (s.setXpb k u).msix = s.msix := rfl
@[simp] theorem State.setXpb_msixLast (s : State) (k : Nat) (u : XpbBuf) : (s.setXpb k u).msixLast = s.msixLast := rfl
@[simp] theorem State.setXpb_msixHeld (s : State) (k : Nat) (u : XpbBuf) : (s.setXpb k u).msixHeld = s.msixHeld := rfl
@[simp] theorem State.setXpb_rings (s : State) (k : Nat) (u : XpbBuf) : (s.setXpb k u).rings = s.rings := rfl
@[simp] theorem State.setXpb_kickRun (s : State) (k : Nat) (u : XpbBuf) : (s.setXpb k u).kickRun = s.kickRun := rfl
@[simp] theorem State.setXpb_cmds (s : State) (k : Nat) (u : XpbBuf) : (s.setXpb k u).cmds = s.cmds := rfl
@[simp] theorem State.setXpb_queue (s : State) (k : Nat) (u : XpbBuf) : (s.setXpb k u).queue = s.queue := rfl
@[simp] theorem State.setXpb_run (s : State) (k : Nat) (u : XpbBuf) : (s.setXpb k u).run = s.run := rfl
@[simp] theorem State.setXpb_save (s : State) (k : Nat) (u : XpbBuf) : (s.setXpb k u).save = s.save := rfl
@[simp] theorem State.setXpb_nextStep (s : State) (k : Nat) (u : XpbBuf) : (s.setXpb k u).nextStep = s.nextStep := rfl
@[simp] theorem State.setXpb_modeReq (s : State) (k : Nat) (u : XpbBuf) : (s.setXpb k u).modeReq = s.modeReq := rfl
@[simp] theorem State.setXpb_modeRevert (s : State) (k : Nat) (u : XpbBuf) : (s.setXpb k u).modeRevert = s.modeRevert := rfl
@[simp] theorem State.setXpb_admitting (s : State) (k : Nat) (u : XpbBuf) : (s.setXpb k u).admitting = s.admitting := rfl
@[simp] theorem State.setXpb_img (s : State) (k : Nat) (u : XpbBuf) : (s.setXpb k u).img = s.img := rfl
@[simp] theorem State.setXpb_tableOwner (s : State) (k : Nat) (u : XpbBuf) : (s.setXpb k u).tableOwner = s.tableOwner := rfl
@[simp] theorem State.setXpb_suspOwner (s : State) (k : Nat) (u : XpbBuf) : (s.setXpb k u).suspOwner = s.suspOwner := rfl
@[simp] theorem State.setXpb_lastRun (s : State) (k : Nat) (u : XpbBuf) : (s.setXpb k u).lastRun = s.lastRun := rfl
@[simp] theorem State.setXpb_suspendNext (s : State) (k : Nat) (u : XpbBuf) : (s.setXpb k u).suspendNext = s.suspendNext := rfl
@[simp] theorem State.setXpb_faultOs (s : State) (k : Nat) (u : XpbBuf) : (s.setXpb k u).faultOs = s.faultOs := rfl
@[simp] theorem State.setXpb_pinFault (s : State) (k : Nat) (u : XpbBuf) : (s.setXpb k u).pinFault = s.pinFault := rfl
@[simp] theorem State.setXpb_sensorQ (s : State) (k : Nat) (u : XpbBuf) : (s.setXpb k u).sensorQ = s.sensorQ := rfl
@[simp] theorem State.setXpb_arrays (s : State) (k : Nat) (u : XpbBuf) : (s.setXpb k u).arrays = s.arrays := rfl
@[simp] theorem State.setXpb_units (s : State) (k : Nat) (u : XpbBuf) : (s.setXpb k u).units = s.units := rfl
@[simp] theorem State.setXpb_scale (s : State) (k : Nat) (u : XpbBuf) : (s.setXpb k u).scale = s.scale := rfl
@[simp] theorem State.setXpb_stepStat (s : State) (k : Nat) (u : XpbBuf) : (s.setXpb k u).stepStat = s.stepStat := rfl
@[simp] theorem State.setXpb_scaleJob (s : State) (k : Nat) (u : XpbBuf) : (s.setXpb k u).scaleJob = s.scaleJob := rfl
@[simp] theorem State.setXpb_lines (s : State) (k : Nat) (u : XpbBuf) : (s.setXpb k u).lines = s.lines := rfl
@[simp] theorem State.setXpb_irqHeld (s : State) (k : Nat) (u : XpbBuf) : (s.setXpb k u).irqHeld = s.irqHeld := rfl
@[simp] theorem State.setXpb_samplers (s : State) (k : Nat) (u : XpbBuf) : (s.setXpb k u).samplers = s.samplers := rfl
@[simp] theorem State.setXpb_cycAcc (s : State) (k : Nat) (u : XpbBuf) : (s.setXpb k u).cycAcc = s.cycAcc := rfl
@[simp] theorem State.setXpb_cycFrom (s : State) (k : Nat) (u : XpbBuf) : (s.setXpb k u).cycFrom = s.cycFrom := rfl
@[simp] theorem State.setXpb_winEnd (s : State) (k : Nat) (u : XpbBuf) : (s.setXpb k u).winEnd = s.winEnd := rfl
@[simp] theorem State.setXpb_edges (s : State) (k : Nat) (u : XpbBuf) : (s.setXpb k u).edges = s.edges := rfl
@[simp] theorem State.setXpb_hostGo (s : State) (k : Nat) (u : XpbBuf) : (s.setXpb k u).hostGo = s.hostGo := rfl
@[simp] theorem State.setXpb_supplied (s : State) (k : Nat) (u : XpbBuf) : (s.setXpb k u).supplied = s.supplied := rfl
@[simp] theorem State.setXpb_readyDue (s : State) (k : Nat) (u : XpbBuf) : (s.setXpb k u).readyDue = s.readyDue := rfl
@[simp] theorem State.setXpb_perst (s : State) (k : Nat) (u : XpbBuf) : (s.setXpb k u).perst = s.perst := rfl
@[simp] theorem State.setXpb_brakePin (s : State) (k : Nat) (u : XpbBuf) : (s.setXpb k u).brakePin = s.brakePin := rfl
@[simp] theorem State.setXpb_pwr (s : State) (k : Nat) (u : XpbBuf) : (s.setXpb k u).pwr = s.pwr := rfl
@[simp] theorem State.setXpb_part (s : State) (k : Nat) (u : XpbBuf) : (s.setXpb k u).part = s.part := rfl
@[simp] theorem State.setXpb_idKey (s : State) (k : Nat) (u : XpbBuf) : (s.setXpb k u).idKey = s.idKey := rfl
@[simp] theorem State.setXpb_mgt (s : State) (k : Nat) (u : XpbBuf) : (s.setXpb k u).mgt = s.mgt := rfl
@[simp] theorem State.setXpb_test (s : State) (k : Nat) (u : XpbBuf) : (s.setXpb k u).test = s.test := rfl
@[simp] theorem State.setXpb_fresh (s : State) (k : Nat) (u : XpbBuf) : (s.setXpb k u).fresh = s.fresh := rfl
@[simp] theorem State.setXpb_out (s : State) (k : Nat) (u : XpbBuf) : (s.setXpb k u).out = s.out := rfl
@[simp] theorem State.setXpb_pending (s : State) (k : Nat) (u : XpbBuf) : (s.setXpb k u).pending = s.pending := rfl

@[simp] theorem State.draw_fresh (s : State) : s.draw.fresh = s.fresh + 1 := rfl

end Sys2Proof.Machine
end

