-- ==== Sys2Proof/WellFormed.lean ====
section
/-! DEFINITION. Which commands the hardware can be given: operands that name a unit which exists and messages that have the
length their link carries. A command that is not well formed has no counterpart outside; the machine leaves the state as it is
or reads the part that exists. -/

namespace Sys2Proof

/-- Counter sets of a die: 17 on a Hoop, 6 on a Shuttle (R434). -/
def setExists (die : Die) (set : Fin 17) : Bool := decide (die.val < 4) || decide (set.val < 6)

/-- Bobbins of a die: 32 on a Hoop, 8 on a Shuttle (R82). -/
def bobbinExists (die : Die) (b : BobbinId) : Bool := decide (die.val < 4) || decide (b.val < 8)

/-- Bridges of a die: three on a Hoop, two on a Shuttle (R21, R427). -/
def bridgeExists (die : Die) (b : Fin 3) : Bool := decide (die.val < 4) || decide (b.val < 2)

/-- A host read of n bytes brings n bytes or an error. -/
def HostRead.wf (n : Nat) : HostRead → Bool
  | .ok bs => bs.length == n
  | .fail _ => true

/-- A reader names a bobbin that exists (R82). -/
def Reader.wf : Reader → Bool
  | .bobbin die b _ _ _ => bobbinExists die b
  | _ => true

/-- Projected slots: the slot index has 17 bits and the completion is a 48.16 time (R48, R88). -/
def Projection.wf (p : Projection) : Bool := decide (p.slot < 2 ^ 17) && decide (p.done < 2 ^ 64)

/-- A received frame: at most 50 positions of 256 bytes and 21 codewords, each with a count for each of 8 lanes of the at most
68 symbols that the lane carries of it (R253 to R255). -/
def RxFrame.wf (f : RxFrame) : Bool :=
  decide (f.flits.length ≤ 50) && f.flits.all (fun x => x.length == 256) && decide (f.lines.length ≤ 21)
    && f.lines.all fun w => w.length == 8 && w.all fun n => decide (n ≤ 68)

/-- A register access lies within a word, a doubleword, or a run of words (R64, R441). -/
def readWf (addr : BitVec 26) (bytes : BitVec 8) : Bool :=
  let n := bytes.toNat
  decide (0 < n) && ((decide (n ≤ 8) && addr.toNat % n == 0) || (addr.toNat % 4 == 0 && n % 4 == 0 && decide (n ≤ 128)))

/-- An MCTP message, with what its header takes, is at most 8,192 bytes long (R408). -/
def messageWf (bytes : List Byte) : Bool := decide (bytes.length ≤ 8192)

namespace Instr

/-- The operands name what exists. -/
def wf : Instr → Bool
  | .knotEvent late _ => late.all Projection.wf
  | .snagReprojection late => late.all Projection.wf
  | .registerReadLatch addr bytes => readWf addr bytes
  | .sweepFetch _ page => page.wf 4096
  | .pendingArmEffect die b => bobbinExists die b
  | .bufferSlotFree die b _ => bobbinExists die b
  | .transferComplete die b _ => bobbinExists die b
  | .beatFault die b _ _ _ _ => bobbinExists die b
  | .hbmReadReturn _ _ _ r | .strReadReturn _ _ _ r => r.wf
  | .frameReceive _ f => f.wf
  | .bridgeFlitReceive die b _ => bridgeExists die b
  | .bridgeTimeout die b => bridgeExists die b
  | .pmuSetClear die set => setExists die set
  | .pmuWindowEnd die set => setExists die set
  | .pmuCounterWrap die set => setExists die set
  | .getCapabilities _ _ body => messageWf body
  | .negotiateAlgorithms _ _ _ body => messageWf body
  | .challenge _ _ _ body => messageWf body
  | .getMeasurements _ _ _ _ body => messageWf body
  | .extData _ _ bytes => messageWf bytes
  | .inputPowerUp | .supplyUv _ | .supplyOv _ | .regFault _ | .inputLoss | .perstRelease _ _ | .perstAssert
  | .hbmTrainingDone | .hbmZeroDone _ | .slowTierTrained | .calibrationDone _ | .functionLevelReset | .refclkLoss
  | .pwrbrakeAssert | .pwrbrakeRelease | .clsRead _ | .gridJoin _ _ | .beaconListenTimeout | .beaconSend
  | .beaconReceive _ _ _ | .lockTimeout | .beaconLoss | .holdoverExpiry | .backupRootTakeover | .delayReqSend _
  | .delayReqReceive _ _ _ | .delayRespReceive _ _ _ | .joinReport _ _ | .gridsyncEdge _ | .gridsyncEdgeMissing
  | .localTick | .snagForward _ _ | .snagRootReceive _ _ | .gridLeave _ _ | .cfgApplyGo _ | .modeRequest _
  | .configScrub _ | .registerWrite _ _ _ _ | .evtTailWrite _ | .eventWriteFail | .kick _ _ | .reservedOpcode _ _ _
  | .identify _ _ _ | .ringCreate _ _ | .ringDelete _ _ | .map _ _ _ | .unmap _ _ | .memRead _ _ | .memWrite _ _ _
  | .hostCopyDone _ _ | .trainPorts _ _ | .admitPricking _ _ | .startStep _ _ _ | .abortStep _ _ | .preempt _ _ | .resume _ _
  | .setPowerCap _ _ | .extensionCommand _ _ _ | .completionDeferredPost _ | .completionWriteFail _ _
  | .preemptSaveDone | .resumeRestoreDone | .slotDispatch _ | .slotDeadlineCheck _ _ | .headPassDeferredStart _
  | .vector0Entry _ _ | .arrayFreezeLimit _ _ | .passComplete _ _ _ _ | .statWriteRelease _ | .arrayError _ _
  | .xpbLoadRelease _ _ _ | .xpbLoadComplete _ _ | .vecOpError _ _ | .scaleTableApply | .releaseReceive _ _
  | .hostArm _ | .hbmScrub _ _ | .hbmTempRead _ _
  | .strMr4Read _ _ | .sramScrub _ _ | .nirTrainGo _ | .nirStop _ | .trainReceive _ _ _ | .trainSignalDetect _
  | .trainDetectTimeout _ | .trainCapsDone _ | .trainCapsTimeout _ | .trainEqDone _ | .trainEqTimeout _
  | .trainAlignDone _ _ _ | .trainAlignTimeout _ | .trainDelayDone _ _ | .laneLockLoss _ _ | .deskewLoss _
  | .fecErrorLimit _ _ | .portDownReceive _ _ | .frameTransmit _ _ | .slotCheckTimeout _ _ | .controlFlitReceive _ _
  | .faultReceive _ _ | .powerSample _ | .slowLoop | .opChangeComplete _ | .droopTrip _ | .droopRecovery _
  | .regulatorCurrentLimit _ | .hoopTempRead _ | .hoopThermalStep _ | .shuttleTempRead _ | .controlWatchdog _
  | .irqLineFiltered _ _ _ | .irqAck _ _ _ | .irqDone _ _ _ | .pmuSampleSelect _ _ | .pmuSampleTailWrite _ _
  | .sensorRefresh | .enec _ _ | .disec _ _ | .rstdaa | .entdaa _ | .setdasa _ | .setnewda _ | .setmwl _ | .setmrl _ _
  | .getmwl | .getmrl | .getpid | .getbcr | .getdcr | .getstatus | .rstact _ | .setEndpointId _ _ _ | .getEndpointId _
  | .getMctpVersionSupport _ _ | .getMessageTypeSupport _ | .getVendorDefinedMessageSupport _ _ | .getTid _
  | .setTid _ _ | .getPldmVersion _ _ | .getPldmTypes _ | .getPldmCommands _ _ | .getPdrRepositoryInfo _
  | .getPdr _ _ _ _ | .getSensorReading _ _ _ | .getStateSensorReadings _ _ | .getNumericEffecterValue _ _
  | .setNumericEffecterValue _ _ _ | .setEventReceiver _ _ _ | .eventMessageSupported _ | .eventMessageBufferSize _ _
  | .pollForPlatformEventMessage _ _ | .getVersion _ _ | .getDigests _ _ | .getCertificate _ _ _ _ _ | .extBegin _ _
  | .extEnd _ | .extStatus _ | .extSequenceTimeout | .bypass | .idcode | .samplePreload _ | .extest | .clamp | .highz
  | .debugUnlockToken _ | .debugPrivateInstruction _ | .admissionComplete _ _ | .unitSlotComplete _ _
  | .pcieLinkChange _ _ | .startUpBoundExpiry _ _ => true

end Instr

end Sys2Proof
end

