-- ==== Sys2Proof/Tests/Slice0.lean ====
section
/-! SUPPORT. Tests: commands that are not well formed are refused by the check, small states that meet the hypotheses of each
statement (clause by clause), and worked examples of the spec. -/

open Sys2Proof Sys2Proof.Machine

/-! ### Small states -/

namespace Sys2Proof.Tests

/-- Fields written one after another. -/
def put (s : State) (l : List (Blk × Fld × Nat)) : State := l.foldl (fun s x => s.p x.1 x.2.1 x.2.2) s

/-- Supplied, out of reset, READY, with the host link up and the management endpoint addressed. -/
def live : State :=
  { put State.reset [(.dev, F.DEV_STATUS_READY, 1), (.hst, F.HST_STATUS_GEN, 6), (.mgt, F.MGT_STATUS_DA_VALID, 1),
      (.mgt, F.MGT_STATUS_VDM_UP, 1)] with perst := false, mgt := { live := true } }

/-- The same in the fail-safe state. -/
def failed : State := put live [(.dev, F.DEV_STATUS_FATAL, 1)]

/-- Expert level. -/
def experts : State := put live [(.dev, F.DEV_MODE_STATE_CUR_EXPERT, 1)]

end Sys2Proof.Tests

namespace Sys2Proof.Tests

-- One proof at a time: a proof that waits for another's unfolding lemmas holds a thread and its stack.
set_option Elab.async false

/-! ### Well-formed commands: one ill-formed term for each check -/

theorem test_wf_setExists : (Instr.pmuSetClear 4 6).wf = false ∧ (Instr.pmuSetClear 4 5).wf = true := by decide
theorem test_wf_windowSet : (Instr.pmuWindowEnd 5 16).wf = false ∧ (Instr.pmuCounterWrap 5 6).wf = false := by decide
theorem test_wf_bobbin : (Instr.pendingArmEffect 4 8).wf = false ∧ (Instr.bufferSlotFree 5 31 ⟨.stream 0, 0⟩).wf = false
    ∧ (Instr.transferComplete 4 8 ⟨.stream 0, 0⟩).wf = false ∧ (Instr.beatFault 4 9 ⟨.stream 0, 0⟩ 0 0 (.lookup true)).wf = false := by decide
theorem test_wf_bridge : (Instr.bridgeFlitReceive 4 2 .clean).wf = false ∧ (Instr.bridgeTimeout 5 2).wf = false
    ∧ (Instr.bridgeTimeout 3 2).wf = true := by decide
theorem test_wf_sweepPage : (Instr.sweepFetch false (.ok [0])).wf = false := by decide
theorem test_wf_projection : (Instr.knotEvent [⟨0, 2 ^ 17, 0, false⟩] none).wf = false
    ∧ (Instr.snagReprojection [⟨0, 0, 2 ^ 64, false⟩]).wf = false := by decide
theorem test_wf_read : (Instr.registerReadLatch 2 4).wf = false ∧ (Instr.registerReadLatch 0 0).wf = false
    ∧ (Instr.registerReadLatch 0 132).wf = false ∧ (Instr.registerReadLatch 8 8).wf = true := by decide
theorem test_wf_frame : (Instr.frameReceive 0 { flits := List.replicate 51 [], check := 0, lines := [] }).wf = false
    ∧ (Instr.frameReceive 0 { flits := [], check := 0, lines := [List.replicate 9 0] }).wf = false
    ∧ (Instr.frameReceive 0 { flits := [], check := 0, lines := [List.replicate 8 69] }).wf = false := by decide
theorem test_wf_reader : (Instr.hbmReadReturn 0 0 { errs := [], dieReport := false } (.bobbin 4 8 (.stream 0) 0 false)).wf = false := by decide
theorem test_wf_message (l : List Byte) (h : 8192 < l.length) : (Instr.getCapabilities true 0 l).wf = false
    ∧ (Instr.challenge true 0 0 l).wf = false ∧ (Instr.extData true 0 l).wf = false := by
  simp [Instr.wf, messageWf, h]

/-! ### Witnesses: what each statement assumes, met by a state, clause by clause -/

theorem witness_StepRunsFront : State.reset.pending = [] ∧ State.reset.pwrRuns = false ∧ live.pending = [] ∧ live.pwrRuns = true
    ∧ timeBefore live.grid.time ((live.grid.time + live.tickLength) % 2 ^ 64) = true := by decide +kernel

theorem witness_InvKept : Inv { live with mem := [⟨5, 1⟩], sensorQ := List.replicate 32 ⟨1, 0, true, 1, 0⟩ } :=
  ⟨by decide +kernel, by decide +kernel, by decide +kernel, by decide +kernel, ⟨by decide +kernel, by decide +kernel, by decide +kernel⟩⟩

theorem witness_RegisterWrites :
    let a : BitVec 26 := 0x10008
    let ext := put live [(.sec, F.SEC_BOOT_STATUS_EXT_STATE, 1)]
    live.hostUp = true ∧ live.ready = true ∧ live.fatalSet = false ∧ live.expert = false ∧ experts.hostUp = true ∧ experts.ready = true
    ∧ experts.fatalSet = false ∧ experts.expert = true ∧ a.toNat % 4 = 0 ∧ regExists a.toNat = true ∧ inMsixTable a.toNat = false
    ∧ a.toNat % 0x10000 ≠ F.CFG_APPLY_GO.off ∧ blkAt a.toNat = some .grid ∧ basicWritable a.toNat = false
    ∧ (0x10009 : BitVec 26).toNat % 4 ≠ 0
    ∧ ext.hostUp = true ∧ ext.fatalSet = false ∧ ext.g .sec F.SEC_BOOT_STATUS_EXT_STATE = 1
    ∧ (0x40010 : BitVec 26).toNat % 4 = 0 ∧ regExists 0x40010 = true ∧ extForbidden 0x40010 = true
    ∧ failed.hostUp = true ∧ failed.fatalSet = true ∧ failed.ready = true ∧ a.toNat ≠ Blk.dev.base + F.DEV_EVT_TAIL_TAIL.off := by decide +kernel

theorem witness_RegisterWrites_doubleword : ∃ u t, exec (.registerWrite false 0x10008 .b4 50000) experts = .next u
    ∧ exec (.registerWrite false (0x10008 + 4) .b4 (50000 >>> 32)) u = .next t := ⟨_, _, rfl, rfl⟩

theorem witness_RegisterReads :
    let held : State := { live with latch := [(0x1000C, 2 ^ 32)] }
    live.hostUp = true ∧ live.ready = true ∧ inMsixTable 0x20000 = false ∧ regExists 0x20000 = true ∧ tget 0 live.latch 0x20000 = 0
    ∧ blkAt 0x20000 = some .hst ∧ (∀ d, Blk.hst ≠ .bob d) ∧ live.pairNow .hst 0 0 = none ∧ live.oneNow .hst 0 = none
    ∧ (∃ o v, o % 4 = 0 ∧ regExists (Blk.grid.base + o) = true ∧ blkAt (Blk.grid.base + o) = some .grid ∧ inMsixTable (Blk.grid.base + o) = false
        ∧ tget 0 live.latch (Blk.grid.base + o) = 0 ∧ live.pairNow .grid o 0 = some v)
    ∧ held.hostUp = true ∧ held.ready = true ∧ tget 0 held.latch 0x1000C = (2 ^ 32 - 1) + 1 ∧ (2 ^ 32 - 1) < 2 ^ 32
    ∧ regExists 0x1000C = true ∧ blkAt 0x1000C = some .grid ∧ (∀ d, Blk.grid ≠ .bob d)
    ∧ (put live [(.dev, F.DEV_STATUS_READY, 0)]).ready = false ∧ (put live [(.dev, F.DEV_STATUS_READY, 0)]).hostUp = true
    ∧ 0x800000 ≤ (0x800000 : Nat) ∧ blkAt 0x800000 = some (.prk 0) ∧ (∀ d, Blk.prk 0 ≠ .bob d) :=
  ⟨by decide +kernel, by decide +kernel, by decide +kernel, by decide +kernel, by decide +kernel, by decide +kernel, (fun _ h => by cases h),
    by decide +kernel, by decide +kernel,
    ⟨F.GRID_TIME_LO_TIME_LO.off, 0, by decide +kernel, by decide +kernel, by decide +kernel, by decide +kernel, by decide +kernel, by decide +kernel⟩,
    by decide +kernel, by decide +kernel, by decide +kernel, by decide +kernel, by decide +kernel, by decide +kernel, (fun _ h => by cases h),
    by decide +kernel, by decide +kernel, by decide, by decide +kernel, (fun _ h => by cases h)⟩

theorem witness_UndefinedOffsets : live.hostUp = true
    ∧ regExists ((0x3FFFFFC : BitVec 26).toNat - (0x3FFFFFC : BitVec 26).toNat % 4) = false ∧ (0x3FFFFFC : BitVec 26).toNat % 4 = 0
    ∧ regExists ((0x18001 : BitVec 26).toNat - (0x18001 : BitVec 26).toNat % 4) = false
    ∧ (0x18001 : BitVec 26).toNat % (1 : BitVec 8).toNat = 0 := by decide +kernel

/-- A running step from its first knot, and what a queued step holds. -/
def run0 : Run :=
  { q := { ring := 1, cid := 0, sqHead := 0, seed := 0, step := 0, gradMult := 0, lrMult := 0, bc1 := 0, bc2 := 0, lens := [], startAt := 0 }
    first := 0, endKnot := 5, verdictKnot := 5, times := [0] }

theorem witness_EventRingAndRequests :
    let s := put live [(.dev, F.DEV_EVT_SIZE_ENTRIES, 16), (.dev, F.DEV_EVT_HEAD_HEAD, 1)]
    let f := put failed [(.dev, F.DEV_EVT_SIZE_ENTRIES, 16)]
    let m := put live [(.dev, F.DEV_MODE_TGT_LO_KNOT_LO, 2)]
    let held : State := { m with run := some run0 }
    let target := fun (s : State) => s.g2 .dev F.DEV_MODE_TGT_LO_KNOT_LO F.DEV_MODE_TGT_HI_KNOT_HI
    let v : Word := 0x80000011
    s.hostUp = true ∧ s.ready = true ∧ (15 : Word).toNat % 2 ^ 16 < s.evtEntries ∧ s.evtEntries ≤ (16 : Word).toNat % 2 ^ 16
    ∧ f.hostUp = true ∧ f.fatalSet = true ∧ 0 < s.evtEntries ∧ s.evtEntries ≤ 2 ^ 16
    ∧ s.g .dev F.DEV_EVT_HEAD_HEAD ≠ s.g .dev F.DEV_EVT_TAIL_TAIL
    ∧ experts.hostUp = true ∧ experts.ready = true ∧ experts.fatalSet = false ∧ experts.expert = true
    ∧ blkAt ((1 : BitVec 10).toNat * 0x10000) = some .grid ∧ regExists (Blk.grid.base + F.CFG_APPLY_GO.off) = true
    ∧ m.hostUp = true ∧ m.ready = true ∧ m.fatalSet = false ∧ v.toNat / 2 ^ 31 = 1 ∧ v.toNat % 16 ≤ 1
    ∧ m.gb .dev F.DEV_MODE_STATE_PEND = false ∧ (m.allSpans []).any (runsThrough (target m)) = false
    ∧ knotBefore ((m.grid.knot + 1) % 2 ^ 48) (target m) = true
    ∧ (let p := put m [(.dev, F.DEV_MODE_STATE_PEND, 1)]
       p.hostUp = true ∧ p.ready = true ∧ p.fatalSet = false ∧ p.gb .dev F.DEV_MODE_STATE_PEND = true)
    ∧ (let n := put live [(.dev, F.DEV_MODE_TGT_LO_KNOT_LO, 1)]
       knotBefore ((n.grid.knot + 1) % 2 ^ 48) (target n) = false)
    ∧ held.hostUp = true ∧ held.ready = true ∧ held.fatalSet = false ∧ (held.allSpans []).any (runsThrough (target held)) = true
    ∧ (0x80000002 : Word).toNat / 2 ^ 31 = 1 ∧ 1 < (0x80000002 : Word).toNat % 16 := by decide +kernel

theorem witness_AppliesAndScrub :
    8 < 2 ^ 16 ∧ 2 < 2 ^ 8
    ∧ lowestFail (cfgFails State.reset .grid (cfgKeys State.reset .grid [(Blk.grid.base + 8, 1)])
        fun o => cfgWord State.reset [(Blk.grid.base + 8, 1)] (Blk.grid.base + o)) = some (8, 2)
    ∧ live.pwrRuns = true ∧ blkAt (0x10009 : BitVec 26).toNat = some .grid ∧ parityByte (0x10009 : BitVec 26).toNat = true := by decide +kernel

/-! ### Rings -/

/-- A submission entry with values at byte offsets of the entry (8 to 63). -/
def sqe (flags : BitVec 8) (l : List (Nat × Nat)) : Sqe :=
  { flags := flags, cid := 5, rsv := 0, params := BitVec.ofNat 448 ((l.map fun x => x.2 * 2 ^ (8 * (x.1 - 8))).foldl (· + ·) 0) }

/-- A ring of 16 entries from which a sweep has fetched one. -/
def ring16 : Ring := { vector := 0, sqN := 16, cqN := 16, sqBase := 0x10000, cqBase := 0x20000, sqHead := 1, fetched := [0] }

/-- Ring 0 exists, and what else is given. -/
def ringed (s : State) : State := { s with rings := [(0, some ring16)] }

/-- The command begins on ring 0, and the property holds of the state and the command with which it does. -/
def begun (s : State) (op : Nat) (e : Sqe) (f : State → Cmd → Bool) : Bool :=
  match s.beginCmd 0 op e with
  | some (s1, c) => f s1 c
  | none => false

theorem begun_some {s : State} {op : Nat} {e : Sqe} {f : State → Cmd → Bool} (h : begun s op e f = true) :
    ∃ s1 c, s.beginCmd 0 op e = some (s1, c) ∧ f s1 c = true := by
  unfold begun at h
  cases hb : s.beginCmd 0 op e with
  | none => simp [hb] at h
  | some x => exact ⟨x.1, x.2, rfl, by simpa [hb] using h⟩

theorem witness_RingCommandsBegin :
    let e := sqe 0 []
    let ext := ringed (put live [(.sec, F.SEC_BOOT_STATUS_EXT_STATE, 1), (.sec, F.SEC_EXT_OPS_OP_FIRST, 0x80), (.sec, F.SEC_EXT_OPS_OP_LAST, 0x82)])
    (ringed live).ring 0 = some ring16 ∧ ring16.sqN ≠ 0 ∧ ring16.fetched = 0 :: [] ∧ (ringed live).ready = true ∧ (ringed failed).fatalSet = true
    ∧ (∀ c ∈ (ringed live).cmds, c.ring = 0 → c.silent = true)
    ∧ (0x40, Instr.setPowerCap 0 e) ∈ refusable 0 e (.fail .timeout)
    ∧ begun (ringed failed) 0x40 e (fun _ _ => true) = true ∧ begun (ringed live) 0x40 { e with rsv := 1 } (fun _ _ => true) = true
    ∧ (ringed live).fatalSet = false ∧ ({ e with rsv := 1 } : Sqe).rsv ≠ 0 ∧ (live.beginCmd 0 0x40 e).isNone = true
    ∧ definedOpcodes.contains (0xFF : BitVec 8).toNat = false ∧ begun (ringed live) 0xFF e (fun _ _ => true) = true
    ∧ (ringed live).extHas 0xFF = false ∧ definedOpcodes.contains (0x82 : BitVec 8).toNat = false
    ∧ begun ext 0x82 e (fun _ _ => true) = true ∧ ext.fatalSet = false ∧ ext.extHas 0x82 = true ∧ e.rsv = 0 := by decide +kernel

/-- IDENTIFY; RING_CREATE of rings 63 and 1 at the bounds of size; RING_DELETE. -/
def identifyE : Sqe := sqe 0 [(8, 0x1000)]
def createE (i n : Nat) : Sqe := sqe 0 [(8, i), (9, 63), (10, n), (12, n), (16, 0x1000), (24, 0x2000)]
def deleteE (i : Nat) : Sqe := sqe 0 [(8, i)]

theorem witness_RingsManaged :
    let two : State := { ringed live with rings := [(0, some ring16), (63, some ring16)] }
    let busy : State := { two with cmds := [{ ring := 63, opcode := 0x30, cid := 1, sqHead := 0 }] }
    identifyE.rsv = 0 ∧ identifyE.plain 16 = true ∧ identifyE.field 8 8 % 4096 = 0 ∧ (ringed live).hostUp = true
    ∧ begun (ringed live) 0x01 identifyE (fun _ _ => true) = true
    ∧ (∀ x ∈ [(63, 16), (1, 4096)], (createE x.1 x.2).plain 32 = true ∧ (createE x.1 x.2).zero 14 16 = true
      ∧ 1 ≤ (createE x.1 x.2).field 8 1 ∧ (createE x.1 x.2).field 8 1 ≤ 63 ∧ (createE x.1 x.2).field 9 1 ≤ 63
      ∧ ringSizeOk ((createE x.1 x.2).field 10 2) = true ∧ ringSizeOk ((createE x.1 x.2).field 12 2) = true
      ∧ (createE x.1 x.2).field 16 8 % 4096 = 0 ∧ (createE x.1 x.2).field 24 8 % 4096 = 0)
    ∧ (ringed live).fatalSet = false ∧ begun (ringed live) 0x02 (createE 63 16) (fun s1 _ => s1.ring 63 == none) = true
    ∧ begun two 0x02 (createE 63 16) (fun s1 _ => s1.ring 63 != none) = true
    ∧ (deleteE 63).plain 9 = true ∧ 1 ≤ (deleteE 63).field 8 1 ∧ (deleteE 63).field 8 1 ≤ 63 ∧ (deleteE 63).field 8 1 ≠ 0
    ∧ begun two 0x03 (deleteE 63) (fun s1 _ => s1.ring 63 != none && !s1.ringHolds 63) = true
    ∧ begun busy 0x03 (deleteE 63) (fun s1 _ => s1.ring 63 != none && s1.ringHolds 63) = true
    ∧ (match ({ live with rings := [(63, some ring16)] } : State).beginCmd 63 0x03 (deleteE 63) with
       | some (s1, _) => (deleteE 63).field 8 1 == 63 && !s1.ringHolds 63
       | none => false) = true := by decide +kernel

theorem witness_RingsSwept :
    let s := ringed (put live [(.hst, F.HST_CTRL_KICK_EN, 1)])
    let k : State := { s with kickRun := true }
    let full : State := { ringed live with rings := [(0, some { ring16 with deferred := [⟨0, 0, 1, 0⟩] })] }
    let page := leBytes 4 15 ++ leBytes 4 0
    live.supplied = true ∧ live.perst = false ∧ live.hostStopped = false ∧ s.ready = true ∧ s.hostUp = true
    ∧ s.gb .hst F.HST_CTRL_KICK_EN = true ∧ s.kickRun = false ∧ k.kickRun = true ∧ k.ready = true ∧ k.hostUp = true
    ∧ s.ring 0 = some ring16 ∧ ring16.stopped = false ∧ leAt page (8 * 0) 4 < ring16.sqN ∧ leAt page (8 * 0 + 4) 4 < ring16.cqN
    ∧ (ring16.cqTail + 1) % ring16.cqN ≠ leAt page (8 * 0 + 4) 4 ∧ ring16.sqN ≤ leAt (leBytes 4 0x10000) (8 * 0) 4
    ∧ full.ring 0 = some { ring16 with deferred := [⟨0, 0, 1, 0⟩] } ∧ ({ ring16 with deferred := [⟨0, 0, 1, 0⟩] } : Ring).full = false
    ∧ full.hostUp = true := by decide +kernel

/-- A page of 2 MiB at DVA 2 MiB, and a ring that maps, unmaps or copies. -/
def page2 : Page := { va := 0x200000, dpa := 0x400000, size := 0x200000, readOnly := false }
def paged : State := { ringed live with pages := [page2] }
def mapE (n : Nat) : Sqe := sqe 0 [(8, 0x1000), (16, n)]
def pageEntry : List Byte := leBytes 8 (0x200000 + 5) ++ leBytes 8 0x400000
def copyE : Sqe := sqe 0 [(8, 0x200000), (16, 0x1000), (24, 64)]
def unmapE (flags : BitVec 8) : Sqe := sqe flags [(8, 0x200000), (16, 0x200000)]

/-- UNMAP's hypotheses on the map: every page it meets lies within the range, and pinned pages are as told. -/
def covered (pinned : Bool) (s1 : State) (e : Sqe) : Bool :=
  (s1.pages.all fun p => !rangesMeet (p.va, p.size) (e.field 8 8, e.field 16 8)
      || (decide (e.field 8 8 ≤ p.va) && decide (p.va + p.size ≤ e.field 8 8 + e.field 16 8)))
    && (s1.pages.any fun p => rangesMeet (p.va, p.size) (e.field 8 8, e.field 16 8) && s1.tlb.contains p) == pinned

theorem witness_PagesAndCopies :
    let copying : Nat → Cmd := fun op =>
      { ring := 0, opcode := op, cid := 1, sqHead := 1, dva := 0x200000, haddr := 0x1000, len := 64, data := List.replicate 64 7
        runs := [(0x400000, 64)] }
    let s : Nat → State := fun op => { paged with cmds := [copying op] }
    let none_ := sqe 0 [(8, 0x200000), (16, 0x1000)]
    (mapE 1).rsv = 0 ∧ (ringed live).fatalSet = false ∧ (mapE 1).plain 20 = true ∧ 1 ≤ (mapE 1).field 16 4 ∧ (mapE 4096).field 16 4 ≤ 4096
    ∧ (entries 16 (pageEntry.take (16 * (mapE 1).field 16 4))).length = (mapE 1).field 16 4
    ∧ (entries 16 (pageEntry.take (16 * (mapE 1).field 16 4))).any pageReserved = false
    ∧ begun (ringed live) 0x10 (mapE 1)
        (fun s1 _ => pagesFit s1.pages ((entries 16 (pageEntry.take (16 * (mapE 1).field 16 4))).map decPage)) = true
    ∧ begun paged 0x10 (mapE 1)
        (fun s1 _ => !pagesFit s1.pages ((entries 16 (pageEntry.take (16 * (mapE 1).field 16 4))).map decPage)) = true
    ∧ (∀ f ∈ [(0 : BitVec 8), 1], (unmapE f).flags = f ∧ (unmapE f).rsv = 0 ∧ (unmapE f).zero 24 64 = true ∧ (unmapE f).field 8 8 % 2 ^ 21 = 0
       ∧ (unmapE f).field 16 8 % 2 ^ 21 = 0 ∧ (unmapE f).field 16 8 ≠ 0 ∧ (unmapE f).field 8 8 + (unmapE f).field 16 8 ≤ 2 ^ 48)
    ∧ begun paged 0x11 (unmapE 0) (fun s1 _ => covered false s1 (unmapE 0)) = true
    ∧ begun { paged with tlb := [page2] } 0x11 (unmapE 0) (fun s1 _ => covered true s1 (unmapE 0)) = true
    ∧ (let x : State := { ringed experts with pages := [page2], tlb := [page2] }
       x.expert = true ∧ x.fatalSet = false ∧ begun x 0x11 (unmapE 1) (fun s1 _ => covered true s1 (unmapE 1)) = true)
    ∧ none_.plain 28 = true ∧ copyRefused none_ = none ∧ none_.field 24 4 = 0
    ∧ begun paged 0x12 none_ (fun _ _ => true) = true ∧ begun paged 0x13 none_ (fun _ _ => true) = true
    ∧ copyE.plain 28 = true ∧ copyRefused copyE = none ∧ copyE.field 24 4 ≠ 0
    ∧ begun paged 0x12 copyE (fun s1 _ => walkRange s1.pages false (copyE.field 8 8) (copyE.field 24 4) == some [(0x400000, 64)]) = true
    ∧ begun (ringed live) 0x12 copyE (fun s1 _ => walkRange s1.pages false (copyE.field 8 8) (copyE.field 24 4) == none) = true
    ∧ begun paged 0x13 copyE (fun s1 _ => walkRange s1.pages true (copyE.field 8 8) (copyE.field 24 4) == some [(0x400000, 64)]
        && !s1.writeProtected (copyE.field 8 8) (copyE.field 24 4) [(0x400000, 64)]) = true
    ∧ (∀ op ∈ [0x12, 0x13], (s op).cmds.find? (fun c => c.ring == 0 && (c.opcode == 0x12 || c.opcode == 0x13)) = some (copying op)
      ∧ (s op).badPairs = [] ∧ (s op).ueHits = [] ∧ (s op).hostUp = true ∧ (copying op).opcode = op ∧ Memory.wf (s op).mem
      ∧ (copying op).data.length = 64) := by decide +kernel

/-! ### Jobs -/

/-- A pricking with the image and the slot tables given, at pace class 0. -/
def pricking (image : List Byte) (slots : List (List SlotEntry)) : Pricking :=
  { image := image, va := 0, pace := 0, slots := slots, starts := slots.map fun l => l.map fun _ => (0, 0)
    deads := slots.map fun l => l.map fun _ => (0, 100), stepKnots := 1, verdictOfs := 1, interval := 50000, jobId := 1, digest := []
    rank := 0, rankM1 := 0, prec := [] }

/-- A device in a lock state, member or root. -/
def grid (lock : Nat) (l : List (Blk × Fld × Nat)) : State := put live ((.grid, F.GRID_STATUS_LOCK_STATE, lock) :: l)

/-- Port 3 in a state of R272. -/
def portIn (n : Nat) (l : List (Blk × Fld × Nat)) : State := put live ((.nir 3, F.NIR_STATUS_STATE, n) :: l)

/-- Port 3 UP at 2.0. -/
def portUp (l : List (Blk × Fld × Nat)) : State := portIn 8 ((.nir 3, F.NIR_STATUS_VER, 2) :: l)

/-- LOCKED, with a ring and a pricking of no slots. -/
def job : State := { ringed (grid 2 []) with img := some (pricking [] []) }
theorem witness_SlowCommandsBegin :
    let e := fun (l : List (Nat × Nat)) => sqe 0 l
    let s := ringed (portIn 1 [])
    let free := ringed (grid 0 [])
    s.fatalSet = false ∧ (e [(8, 2 ^ 18 - 1)]).rsv = 0 ∧ (e [(8, 2 ^ 18 - 1)]).plain 12 = true ∧ (e [(8, 2 ^ 18 - 1)]).field 8 4 < 2 ^ 18
    ∧ begun s 0x20 (e [(8, 2 ^ 18 - 1)]) (fun _ _ => true) = true ∧ bit ((e [(8, 2 ^ 18 - 1)]).field 8 4) 3 = true ∧ s.portState 3 = 1
    ∧ begun free 0x21 (e [(8, 0xFF), (9, 1)]) (fun _ _ => true) = true ∧ (e [(8, 0xFF), (9, 1)]).flags = 0
    ∧ (e [(8, 0xFE), (9, 3)]).field 9 1 < 4 ∧ (e [(8, 0xFE), (9, 3)]).zero 10 64 = true ∧ free.lockState = 0
    ∧ ¬(bit ((e [(8, 0xFE), (9, 3)]).field 9 1) 1 = true ∧ (e [(8, 0xFE), (9, 3)]).field 8 1 = 0xFF)
    ∧ bit ((e [(8, 0xFF), (9, 2)]).field 9 1) 1 = true ∧ (e [(8, 0xFF), (9, 2)]).field 8 1 = 0xFF ∧ (e [(8, 0xFF), (9, 2)]).zero 10 64 = true
    ∧ begun free 0x21 (e [(8, 0xFF), (9, 2)]) (fun _ _ => true) = true
    ∧ (let k := sqe 1 [(9, 3)]
       k.flags = 1 ∧ k.field 9 1 < 4 ∧ k.zero 10 64 = true ∧ free.expert = false ∧ begun free 0x21 k (fun _ _ => true) = true
       ∧ (ringed experts).expert = true ∧ (ringed experts).lockState = 0 ∧ (ringed experts).fatalSet = false
       ∧ begun (ringed experts) 0x21 k (fun _ _ => true) = true)
    ∧ begun job 0x21 (e [(8, 0xFF), (9, 1)]) (fun _ _ => true) = true ∧ job.lockState ≠ 0 ∧ job.fatalSet = false
    ∧ (e []).plain 8 = true ∧ begun job 0x22 (e []) (fun _ _ => true) = true
    ∧ (∀ w ∈ [600, 3400, 599, 3401], (e [(8, w)]).plain 10 = true ∧ (e [(8, w)]).field 8 2 = w
      ∧ begun job 0x40 (e [(8, w)]) (fun _ _ => true) = true)
    ∧ (let a := e [(8, 64), (16, 4096), (20, 4)]
       a.plain 21 = true ∧ a.field 20 1 ≤ 4 ∧ a.field 8 8 % 64 = 0 ∧ job.run = none ∧ job.queue = [] ∧ job.admitting = none
       ∧ begun job 0x30 a (fun s1 _ => !s1.saveBusy) = true ∧ job.lockState = 2
       ∧ begun free 0x30 a (fun s1 _ => !s1.saveBusy) = true ∧ free.lockState ≠ 2 ∧ free.fatalSet = false ∧ free.run = none
       ∧ free.queue = [] ∧ free.admitting = none) := by decide +kernel

/-- An admission of 4 KiB of zeros at a mapped and at an unmapped DVA. -/
def admitting (va : Nat) : State := { paged with admitting := some { va := va, size := 4096, pace := 1 } }

theorem witness_AdmissionEnds :
    (admitting 0).admitting = some { va := 0, size := 4096, pace := 1 } ∧ walkRange (admitting 0).pages false 0 4096 = none
    ∧ (admitting 0x200000).admitting = some { va := 0x200000, size := 4096, pace := 1 }
    ∧ walkRange (admitting 0x200000).pages false 0x200000 4096 = some [(0x400000, 4096)]
    ∧ (admitting 0x200000).badRuns [(0x400000, 4096)] 0 = none
    ∧ (let s := admitting 0x200000
       let p := prickingOf (s.readRuns [(0x400000, 4096)]) 0x200000 1
       let u : State := ({ s.p (.prk 4) F.PRK_STATUS_ADMITTING 0 with admitting := none }).p (.prk 4) F.PRK_ADMIT_TIME_TIME_US 9
       let v : AdEnv := { s := u, size := 4096, guard := 0, policyOk := true, delays := [], p := p }
       v.steps = some ⟨Code.format, 0, 0, noIdx, 0, 0⟩ ∧ Code.format < 256) := by decide +kernel

theorem witness_StepsQueued :
    let e := sqe 0 [(16, 7), (20, 0x3F800000), (28, 0x3F800000), (32, 0x7F7FFFFF)]
    let n : State := { job with img := none }
    let r : State := { job with run := some { q := { ring := 1, cid := 0, sqHead := 0, seed := 0, step := 0, gradMult := 0, lrMult := 0
                                                     bc1 := 0, bc2 := 0, lens := [], startAt := 0 }, first := 1, endKnot := 5, verdictKnot := 5 } }
    job.fatalSet = false ∧ e.rsv = 0 ∧ e.flags = 0 ∧ e.zero 38 40 = true ∧ e.zero 48 64 = true
    ∧ begun job 0x31 e (fun s1 c => s1.startRefused c == none && s1.img == some (pricking [] [])) = true
    ∧ startFields (pricking [] []) e = none ∧ (∀ w ∈ lenWords (pricking [] []).im.mbCount [], w < 2 ^ 21) ∧ (pricking [] []).im.mbCount = 0
    ∧ begun n 0x31 e (fun s1 c => s1.startRefused c == some Code.state) = true ∧ Code.state ≤ 0xFF ∧ n.fatalSet = false
    ∧ (sqe 1 []).flags.toNat < 2 ∧ (sqe 1 []).zero 8 64 = true ∧ job.admitted = true ∧ r.admitted = true ∧ r.fatalSet = false
    ∧ begun job 0x32 (sqe 0 []) (fun s1 _ => s1.cmdOf 0x33 == none) = true
    ∧ begun r 0x32 (sqe 1 []) (fun s1 _ => s1.cmdOf 0x33 == none) = true ∧ r.run ≠ none ∧ job.run = none ∧ job.queue = [] := by
  decide +kernel

/-- A page of 1 GiB pinned in each Hoop's HBM3, and the save areas in them. -/
def savePages : List Page := (List.range 4).map fun h => { va := h * 2 ^ 30, dpa := h * hoopHbm, size := 2 ^ 30, readOnly := false }
def saveE : Sqe := sqe 0 ((List.range 4).map fun h => (16 + 8 * h, h * 2 ^ 30))
def saving (l : List (Blk × Fld × Nat)) : State := { put job l with pages := savePages, tlb := savePages }

/-- The header that PREEMPT writes before section h of the pricking of no slots, with its SHAKE256 (R341). -/
def saveDigest : List Nat :=
  [62935089832799150735310476513398068303881512914097771469470399475109480750091,
   54761074296599658646170279674784318658514233873585495918010283222085614944296,
   73981687335899300956833171932975825112284526327565853612497250561049458603115,
   1557912049738964842374049071175547133103375376598359873481703018080312330501]
def saveHead (h : Nat) : List Byte :=
  leBytes 4 0x56535456 ++ leBytes 2 1 ++ leBytes 2 h ++ leBytes 8 1 ++ List.replicate 48 0 ++ leBytes 8 (256 * 2 ^ 20)
    ++ leBytes 8 (tableBytes h) ++ List.replicate 48 0 ++ leBytes 32 (saveDigest.getD h 0)

theorem witness_SaveAndResume_begin :
    let p := pricking [] []
    let susp : State := { saving [(.hst, F.HST_STATUS_SUSPENDED, 1)] with suspOwner := some (1, []) }
    let bad : State := { saving [] with badPairs := [0, hoopHbm, 2 * hoopHbm, 3 * hoopHbm] }
    saveE.rsv = 0 ∧ (saving []).fatalSet = false ∧ begun (saving []) 0x33 saveE (fun s1 _ => s1.img == some p && s1.savesOk p (sqeSaves saveE)) = true
    ∧ saveE.flags = 0 ∧ saveE.zero 14 16 = true ∧ saveE.zero 48 64 = true ∧ (saving []).save = none ∧ (saving []).cmds = []
    ∧ saveE.field 8 6 = 0
    ∧ begun susp 0x34 (sqe 1 []) (fun s1 _ => s1.img == some p) = true ∧ (sqe 1 []).zero 8 64 = true
    ∧ susp.gb .hst F.HST_STATUS_SUSPENDED = true ∧ susp.suspOwner = some (p.jobId, p.digest) ∧ susp.run = none ∧ susp.queue = []
    ∧ susp.save = none ∧ susp.admitting = none ∧ susp.cmds = [] ∧ susp.fatalSet = false
    ∧ begun bad 0x34 saveE (fun s1 _ => s1.savesOk p (sqeSaves saveE) && s1.headersOk p (sqeSaves saveE)) = true
    ∧ saveE.zero 8 16 = true ∧ bad.run = none ∧ bad.queue = [] ∧ bad.save = none ∧ bad.admitting = none ∧ bad.cmds = []
    ∧ bad.fatalSet = false := by decide +kernel

/-- A resume whose copy is at its end: sound headers stand in the save areas. -/
def resumed : Pricking := { pricking [] [] with digest := List.replicate 32 0 }
def ending (resume : Bool) : State :=
  let s := (List.range 4).foldl (fun s h => s.writeMem (h * hoopHbm) (saveHead h)) (saving [])
  { s with img := some resumed, save := some { resume := resume, kPrime := 0, saves := sqeSaves saveE, beganAt := some 0 } }

theorem headers_sound : ∀ h, h < 4 → (ending true).headerOk resumed h
    (((ending true).readRuns (((ending true).sectionRuns resumed h ((sqeSaves saveE).getD h 0)).getD [])).take 4096) = true := by
  decide +kernel

theorem witness_SaveAndResume_end :
    (∀ b : Bool, (ending b).save = some { resume := b, kPrime := 0, saves := sqeSaves saveE, beganAt := some 0 }
      ∧ (ending b).img = some resumed ∧ (ending b).badPairs = [])
    ∧ (∀ h, h < 4 → ((ending true).sectionRuns resumed h ((sqeSaves saveE).getD h 0)).isSome = true)
    ∧ ∀ h, h < 4 → (ending true).headerOk resumed h
        (((ending true).readRuns (((ending true).sectionRuns resumed h ((sqeSaves saveE).getD h 0)).getD [])).take 4096) = true :=
  ⟨fun b => ⟨rfl, rfl, by cases b <;> decide +kernel⟩, by decide +kernel, headers_sound⟩

/-- The smallest image: one knot of compute, one length class, no slots (R78, R79, R86, R91, R96). -/
def tinyHead : List Byte :=
  leBytes 4 0x4B505256 ++ leBytes 2 2 ++ leBytes 2 0x100 ++ leBytes 4 312 ++ leBytes 4 0 ++ leBytes 4 50000 ++ leBytes 1 1 ++ leBytes 1 1
    ++ leBytes 2 0 ++ leBytes 8 1 ++ leBytes 2 0 ++ leBytes 2 0 ++ leBytes 4 1 ++ leBytes 8 0
    ++ (List.range 10).flatMap (fun _ => leBytes 8 0) ++ (leBytes 4 0x100 ++ leBytes 4 8) ++ (leBytes 4 0x108 ++ leBytes 4 8)
    ++ (List.range 3).flatMap (fun _ => leBytes 8 0) ++ (leBytes 4 0x110 ++ leBytes 4 40) ++ List.replicate 16 0
def tinyTail : List Byte := List.replicate 32 0 ++ (leBytes 2 1 ++ leBytes 1 0 ++ leBytes 1 2 ++ leBytes 4 0) ++ leBytes 8 1
  ++ (List.range 4).flatMap (fun _ => leBytes 8 (256 * 2 ^ 32)) ++ List.replicate 8 0
def tiny : List Byte := tinyHead ++ leBytes 32 3804669570959855858255151052610963974681071445253546314939859512457453922856
  ++ tinyTail

/-- Its admission at class 0, LOCKED and with the fixed grid parameters of the state given. -/
def tinyState : State :=
  let s := { put paged [(.grid, F.GRID_STATUS_LOCK_STATE, 2), (.pwr, F.PWR_STATUS_EFF_CLASS, 0)] with admitting := some { va := 0x200000, size := 312, pace := 1, policyOk := true } }
  s.writeMem 0x400000 tiny
def tinyEnv : AdEnv :=
  let s := tinyState
  let p := prickingOf (s.readRuns [(0x400000, 312)]) 0x200000 1
  let u : State := ({ s.p (.prk 4) F.PRK_STATUS_ADMITTING 0 with admitting := none }).p (.prk 4) F.PRK_ADMIT_TIME_TIME_US 9
  { s := u, size := 312, guard := 0, policyOk := true, delays := [], p := p }

/-- Lanes of the sponge, lowest first, as one number; what the image's digest is made of after one and after two blocks. -/
def lanes (n : Nat) : List Lane64 := (List.range 25).map fun i => BitVec.ofNat 64 (n / 2 ^ (64 * i))
def tinyMsg : List Byte := tiny.take 0xC0 ++ List.replicate 32 0 ++ tiny.drop 0xE0
def tinyLanes : Nat × Nat :=
  (0x6d30bb5a0237ae7c9e493be5c12af4bb14a2d144e49d1d89d9ce43800b2d35208da982ed6aa95813bba1f01b9bed7074fba311c90887a403a1c4572156b53a3788751d77dd82a4bebd8ff4f501043c3c1d653ade95d2382d2567c6d32913f86e8a9a9f57b0cbbb0c419adcd6c7d6b57b45a54bd53bc01bf90ac31263b67dd969a30fa236f5b1aeee372b266b691b69f48c8310879c58845e974bd425f9b2931ed43dc3f11c11c16fef6460fad9f1b59e736e615f90e01644ae461653ffa5a0fb21f038cc2aef84da,
   0xbc867109bb29624039d181e14fe74c49a7639ef42782fc57707be35f20fff6b5082c198b4b3f95ba5c291f441caaaa75a72875478bb4fcc73953695bc0e62d6b01148f4cdedfc28ec6529503ddaead4e9f6344ffd8629018a4a577b026e66e8a227a34e08cdee2741663d7cf3bd29e19b739087fd403a47abfc7c3da93fa229786ada082e347a29cfc87f4fbd7c9fad7dc89b7be53076ebfd67c67945fdfb1c87265681f31552be8d50fe30fd7063c80692c5d93b538396b3dd5ed688d41a16801712a36788a0bb7)

/-- SHAKE256 of a message of three blocks, from the lanes after its first and its second. -/
theorem shake_three {bs : List Byte} {st1 st2 : List Lane64} (h : (ended bs).length / 136 = 3)
    (h1 : takeIn 1 (ended bs) (List.replicate 25 0) = st1) (h2 : takeIn 1 ((ended bs).drop 136) st1 = st2) :
    shake256 bs = ((takeIn 1 (((ended bs).drop 136).drop 136) st2).flatMap fun l => leBytes 8 l.toNat).take 32 := by
  subst h1; subst h2
  simp only [shake256, shakeOut, h, takeIn]
theorem tiny_block1 : takeIn 1 (ended tinyMsg) (List.replicate 25 0) = lanes tinyLanes.1 := by decide +kernel
theorem tiny_block2 : takeIn 1 ((ended tinyMsg).drop 136) (lanes tinyLanes.1) = lanes tinyLanes.2 := by decide +kernel
theorem tiny_block3 : ((takeIn 1 (((ended tinyMsg).drop 136).drop 136) (lanes tinyLanes.2)).flatMap fun l => leBytes 8 l.toNat).take 32 = (Image.digest tiny) := by
  decide +kernel
theorem tiny_blocks : (ended tinyMsg).length / 136 = 3 := by decide +kernel

theorem tiny_digest : (imageDigest tiny == Image.digest tiny) = true := by
  have h := (shake_three tiny_blocks tiny_block1 tiny_block2).trans tiny_block3
  have e : imageDigest tiny = (shake256 tinyMsg).take 32 := rfl
  rw [e, h]; decide +kernel

theorem tiny_image : tinyEnv.im = tiny := by decide +kernel

theorem tiny_step1 : tinyEnv.step1 = none := by
  have h : tinyEnv.size = 312 := rfl
  simp only [AdEnv.step1, tiny_image, tiny_digest, h]; decide +kernel

theorem steps_pass {v : AdEnv} (h1 : v.step1 = none) (h2 : v.step2 = none) (h3 : v.step3 = none) (h4 : v.step4 = none)
    (h5 : v.step5 = none) : v.steps = none := by simp only [AdEnv.steps, h1, h2, h3, h4, h5]

theorem witness_AdmissionEnds_accepted : tinyState.admitting = some { va := 0x200000, size := 312, pace := 1, policyOk := true }
    ∧ walkRange tinyState.pages false 0x200000 312 = some [(0x400000, 312)] ∧ tinyState.badRuns [(0x400000, 312)] 0 = none
    ∧ tinyEnv.steps = none ∧ tinyEnv.step6 (tinyState.g .pwr F.PWR_STATUS_EFF_CLASS) = none :=
  ⟨by decide +kernel, by decide +kernel, by decide +kernel,
    steps_pass tiny_step1 (by decide +kernel) (by decide +kernel) (by decide +kernel) (by decide +kernel), by decide +kernel⟩

/-! ### The work of a step -/

/-- A state that runs run0 on the pricking given with a page pinned. -/
def running (p : Pricking) : State := { paged with tlb := [page2], img := some p, run := some run0 }

/-- A slot for a unit and a descriptor; a pricking with such slots on one die, its descriptor 0 at the head of the image. -/
def slotE (action unit operand : Nat) : SlotEntry :=
  { knotOfs := 0, action := action, unit := unit, startNs := 0, mb := noMb, operand := operand, dlNs := 100, dlKnots := 0, chain := false
    raw := [] }
def onDie (die : Nat) (desc : List Byte) (l : List SlotEntry) : Pricking :=
  pricking (desc ++ List.replicate (64 - desc.length) 0) (List.replicate die [] ++ [l])

/-- One vector of one column, K = 0, written as FP32 rows of 4 bytes; the same with K = 1 from a stream or a transposing buffer. -/
def passDesc (k src : Nat) : List Byte :=
  leBytes 4 (2 * 2 ^ 8 + src * 2 ^ 12) ++ leBytes 4 1 ++ leBytes 4 (k + 2 ^ 16) ++ leBytes 4 0 ++ leBytes 4 0 ++ leBytes 4 4
def passP (k src : Nat) : Pricking := onDie 0 (passDesc k src) [slotE 1 0 0]
def passing (k src : Nat) (u : ArrayUnit) (l : List (Blk × Fld × Nat)) : State :=
  { put (running (passP k src)) l with arrays := [(0, u)], run := some { run0 with slots := [(slotKey 0 0, { slotNone with disp := true })] } }
def pass0 : PassRun := { slot := 0, pass := 0, mb := noMb, chain := false, begun := true, entered := false, actual := 0 }
def tile0 : StatBuf := { bytes := [1], stream := 0, step := 0, complete := true }

/-- A copy of one row of 64 bytes from the head of page 2 to its next beat, on bobbin 0 of H0, and its arm. -/
def copyDesc : List Byte := leBytes 4 0 ++ leBytes 4 1 ++ leBytes 4 64 ++ leBytes 4 0 ++ leBytes 8 0x200000 ++ leBytes 8 0x200040
def copyP : Pricking := onDie 0 copyDesc [slotE 4 0x10 0]
def copyArm (ph : ArmPhase) : Arm := { die := 0, bobbin := 0, stream := 0, desc := copyDesc, gen := 1, slot := 0, phase := ph }
def copying (a : Arm) : State := { running copyP with arms := [a] }

theorem witness_PassesRun :
    let waiting := passing 0 0 { passes := [{ pass0 with begun := false }] } []
    let zero := passing 0 0 { passes := [pass0] } []
    let fed := passing 1 0 { passes := [pass0], buf1 := some tile0 } []
    let xpb := passing 1 1 { passes := [pass0], buf1 := some tile0 } [(.xpb 0, xpbHalfFld 0 false, 2), (.xpb 0, xpbHalfFld 0 true, 2)]
    let u := (xpb.arrReadsEnd 0).readsEnd (2 * (0 / 2) + (passSrc ((passP 1 1).pass 0) - 1))
    let q : PassRun := { pass0 with entered := true }
    let ends := passing 0 0 { passes := [q] } []
    let d := (passP 0 0).pass 0
    let stat : Arm := { copyArm .live with desc := leBytes 4 2 ++ copyDesc.drop 4 }
    let held : State := { copying stat with arrays := [(0, { leaving := true, held := [⟨0, 0⟩] })] }
    let left : State := { live with arrays := [(0, { leaving := true })] }
    waiting.img = some (passP 0 0) ∧ waiting.run.isSome = true ∧ (waiting.arrU 0).passes = [{ pass0 with begun := false }]
    ∧ (zero.arrU 0).passes.find? (fun x => !x.entered) = some pass0 ∧ pass0.begun = true ∧ passK ((passP 0 0).pass 0) = 0
    ∧ (fed.arrU 0).passes.find? (fun x => !x.entered) = some pass0 ∧ (fed.arrU 0).tileFor ((passP 1 0).pass 0) run0.q.step = some [1]
    ∧ passSrc ((passP 1 0).pass 0) = 0 ∧ passK ((passP 1 0).pass 0) = 1
    ∧ (xpb.arrU 0).tileFor ((passP 1 1).pass 0) run0.q.step = some [1] ∧ passSrc ((passP 1 1).pass 0) = 1
    ∧ 2 ≤ u.xpbState (2 * (0 / 2) + (passSrc ((passP 1 1).pass 0) - 1)) (u.xpbNext (2 * (0 / 2) + (passSrc ((passP 1 1).pass 0) - 1)))
    ∧ (ends.arrU 0).passes = q :: [] ∧ (tget slotNone (ends.run.elim [] (·.slots)) (slotKey (0 / 2) q.slot)).disp = true
    ∧ (ends.passLand (passP 0 0) 0 q d).run.isSome = true ∧ (ends.passLand (passP 0 0) 0 q d).img = some (passP 0 0)
    ∧ (ends.passLand (passP 0 0) 0 q d).passFeed (passP 0 0) 0 q d = some [[]] ∧ (ends.passLand (passP 0 0) 0 q d).badPairs = []
    ∧ (ends.passLand (passP 0 0) 0 q d).ueHits = [] ∧ Memory.wf (ends.passLand (passP 0 0) 0 q d).mem ∧ passWrites d = true
    ∧ ((ends.passLand (passP 0 0) 0 q d).arrU 0).held = []
    ∧ passN d * (if passOutFmt d = 1 then 2 else 4) ≤ passStride d ∧ (ends.envOf (passP 0 0) run0 q.mb).skips d 0 = false
    ∧ (zero.arrU 0).leaving = false ∧ (left.arrU 0).leaving = true ∧ (left.arrU 0).held = []
    ∧ (held.arrU 0).leaving = true ∧ (held.arrU 0).held = [⟨0, 0⟩]
    ∧ (held.arms.find? fun y => y.die == 0 / 2 && y.bobbin == 0 && y.slot == 0 && y.stream != 0x1FFFF && y.phase == .live) = some stat
    ∧ descRows stat.desc = 1 ∧ held.srcRuns stat 0 0 (descRowBytes stat.desc) = some [(0x400000, 64)]
    ∧ held.img = some copyP ∧ held.run = some run0 := by decide +kernel

/-- A tile of 4 rows and 8 columns at SRAM + 0, 16-bit or 8-bit, to be loaded by XPB A of H0; a store of 2 rows and 4 columns. -/
def xpbLoadDesc (w16 : Nat) : List Byte := leBytes 1 0x50 ++ leBytes 1 w16 ++ leBytes 1 2 ++ leBytes 1 0 ++ leBytes 4 4 ++ leBytes 4 8 ++ leBytes 4 0 ++ leBytes 4 32
def xpbStoreDesc : List Byte := leBytes 1 0x51 ++ leBytes 3 0 ++ leBytes 4 2 ++ leBytes 4 4 ++ leBytes 4 0 ++ leBytes 4 32

theorem witness_TilesLoad :
    let loading := fun (held : Bool) (w : Nat) =>
      ({ running (onDie 0 (xpbLoadDesc w) [slotE 3 3 0]) with xpbs := [(0, { load := some (0, 0), held := held })] } : State)
    ((loading true 0).xpb 0).held = true ∧ ((loading true 0).readsEnd 0).xpbState 0 ((loading true 0).xpb 0).loadHalf = 0
    ∧ (∀ w ∈ [0, 1], (loading false w).img = some (onDie 0 (xpbLoadDesc w) [slotE 3 3 0]) ∧ (loading false w).run = some run0
      ∧ ((loading false w).xpb 0).load = some (0, 0) ∧ ((loading false w).xpb 0).held = false ∧ (loading false w).badPairs = []
      ∧ Memory.wf (loading false w).mem ∧ bit (leAt ((onDie 0 (xpbLoadDesc w) []).vxop 0) 1 1) 0 = (w == 1)
      ∧ bits (leAt ((onDie 0 (xpbLoadDesc w) []).vxop 0) 4 4) 9 0 = 4 ∧ bits (leAt ((onDie 0 (xpbLoadDesc w) []).vxop 0) 8 4) 10 0 = 8) := by
  decide +kernel

theorem witness_XpbStoreTransposes :
    let p := onDie 0 xpbStoreDesc [slotE 3 3 0]
    let half := fun (n : Nat) =>
      ({ put (running p) [(.xpb 0, xpbHalfFld 0 false, n), (.xpb 0, xpbHalfFld 0 true, n)] with
        xpbs := [(0, { h0 := { rows := [[1, 2, 3, 4], [5, 6, 7, 8]] }, h1 := { rows := [[1, 2, 3, 4], [5, 6, 7, 8]] } })] } : State)
    let s := half 2
    let runs : State := { half 3 with units := [(xpbUnit 0 0, some ⟨0, 0⟩)] }
    (∀ n ∈ [0, 2], (half n).img = some p ∧ (half n).run = some run0 ∧ tget none (half n).units (xpbUnit 0 (3 - 3)) = none)
    ∧ nextSlot p run0 0 = some 0 ∧ p.slot 0 0 = some (slotE 3 3 0)
    ∧ run0.knotCame ((p.starts.getD 0 []).getD 0 (0, 0)).1 = true ∧ slotEmpty p run0 (slotE 3 3 0) = false ∧ (slotE 3 3 0).action = 3
    ∧ vxOp (p.vxop 0) ≠ 0x50 ∧ 2 ≤ (s.readsEnd 0).xpbState 0 ((s.readsEnd 0).xpbNext 0)
    ∧ ((half 0).readsEnd 0).xpbState 0 (((half 0).readsEnd 0).xpbNext 0) < 2
    ∧ runs.img = some p ∧ runs.run = some run0 ∧ tget none runs.units (xpbUnit 0 0) = some ⟨0, 0⟩
    ∧ runs.badPairs = [] ∧ runs.ueHits = [] ∧ Memory.wf runs.mem
    ∧ bits (leAt (p.vxop 0) 4 4) 9 0 * (if ((runs.xpb 0).half (runs.xpbNext 0)).w16 then 2 else 1) ≤ bits (leAt (p.vxop 0) 16 4) 19 0
    ∧ bits (leAt (p.vxop 0) 8 4) 10 0 = 4 := by decide +kernel

theorem witness_ArrayErrors :
    let none_ := passing 1 0 { passes := [pass0] } []
    let fed := passing 1 0 { passes := [pass0], buf1 := some tile0 } []
    let chained := passing 1 0 { passes := [{ pass0 with chain := true }], buf1 := some tile0 } []
    let hungry := passing 1 1 { passes := [pass0], buf1 := some tile0 } []
    let u := (hungry.arrReadsEnd 0).readsEnd (2 * (0 / 2) + (1 - 1))
    let held : State := { live with xpbs := [(1, { load := some (7, 0), held := true })] }
    let vec : State := { live with units := [(vecUnit 0, some ⟨7, 0⟩), (xpbUnit 0 1, some ⟨8, 0⟩)] }
    let reads : State := { live with arrays := [(1, { passes := [{ pass0 with entered := true, reads := some (1, 4) }] })] }
    let eng : State := { live with units := [(redUnit 1, some ⟨7, 0⟩), (updUnit 1, some ⟨8, 0⟩)] }
    none_.img = some (passP 1 0) ∧ none_.run.isSome = true ∧ (none_.arrU 0).passes.find? (fun x => !x.entered) = some pass0
    ∧ pass0.begun = true ∧ passK ((passP 1 0).pass 0) ≠ 0 ∧ (none_.arrU 0).tileFor ((passP 1 0).pass 0) 0 = none
    ∧ (fed.arrU 0).passes.find? (fun x => !x.entered) = some pass0 ∧ (fed.arrU 0).tileFor ((passP 1 0).pass 0) 0 ≠ none
    ∧ passSrc ((passP 1 0).pass 0) = 0 ∧ pass0.chain = false ∧ (fed.arrU 0).passes.any (·.begun) = true
    ∧ (chained.arrU 0).passes.find? (fun x => !x.entered) = some { pass0 with chain := true }
    ∧ (chained.arrU 0).tileFor ((passP 1 0).pass 0) 0 ≠ none
    ∧ (hungry.arrU 0).tileFor ((passP 1 1).pass 0) 0 ≠ none ∧ passK ((passP 1 1).pass 0) ≠ 0 ∧ passSrc ((passP 1 1).pass 0) = 1
    ∧ u.xpbState (2 * (0 / 2) + (1 - 1)) (u.xpbNext (2 * (0 / 2) + (1 - 1))) < 2
    ∧ tget none vec.units (vecUnit 0) = some ⟨7, 0⟩ ∧ tget none live.units (vecUnit 0) = none
    ∧ tget none vec.units (xpbUnit 0 ((2 * 0 + 1) % 2)) = some ⟨8, 0⟩ ∧ tget none reads.units (xpbUnit 0 ((2 * 0 + 1) % 2)) = none
    ∧ (reads.arrU 1).passes.find? (fun q => q.reads.any (·.1 == 1)) = some { pass0 with entered := true, reads := some (1, 4) }
    ∧ (reads.arrU 0).passes.any (fun q => q.reads.any (·.1 == 1)) = false
    ∧ (∀ a : ArrayId, (live.arrU a.val).passes.any (fun q => q.reads.any (·.1 == 1)) = false)
    ∧ (held.xpb (2 * 0 + 1)).load = some (7, 0) ∧ (held.xpb (2 * 0 + 1)).held = true ∧ (held.xpb (2 * 0 + 1)).waiting = []
    ∧ tget none eng.units (redUnit 1) = some ⟨7, 0⟩ ∧ eng.ueHits = [] ∧ eng.fatalSet = false ∧ tget none eng.units (updUnit 1) = some ⟨8, 0⟩
    ∧ (put eng [(.upd 1, F.UPD_STATUS_KIND, 3)]).g (.upd 1) F.UPD_STATUS_KIND = 3
    ∧ tget none (put eng [(.upd 1, F.UPD_STATUS_KIND, 3)]).units (updUnit 1) = some ⟨8, 0⟩
    ∧ eng.g (.upd 1) F.UPD_STATUS_KIND ≠ 3 := by
  decide +kernel

/-- The slot is the next of its die, at its start. -/
def isNext (p : Pricking) (die i : Nat) (e : SlotEntry) : Bool :=
  nextSlot p run0 die == some i && p.slot die i == some e && run0.knotCame ((p.starts.getD die []).getD i (0, 0)).1

theorem witness_SlotsDispatched :
    let vx := fun (op : Nat) => leBytes 4 op ++ leBytes 4 1 ++ leBytes 4 0
    let linkP : Pricking :=
      { onDie 0 copyDesc [slotE 4 0x10 0, slotE 5 0x30 0, slotE 6 0x31 0] with starts := [[(0, 0), (0, 64), (0, 128)]] }
    let linked : State := { running linkP with arms := [copyArm .live] }
    let at1 : Nat → Run := fun n => { run0 with slots := (List.range n).map fun i => (slotKey 0 i, { slotNone with disp := true }) }
    -- empty: the run is voided, or the descriptor has no rows
    (isNext (passP 0 0) 0 0 (slotE 1 0 0) = true ∧ slotEmpty (passP 0 0) { run0 with voided := true } (slotE 1 0 0) = true
      ∧ (slotE 1 0 0).action ≠ 4)
    -- a NOP
    ∧ isNext (onDie 0 [] [slotE 0 0 0]) 0 0 (slotE 0 0 0) = true
    ∧ (let p := onDie 5 [] [slotE 4 0x17 0]
       isNext p 5 0 (slotE 4 0x17 0) = true ∧ run0.voided = false ∧ 0x10 ≤ 0x17 ∧ 0x17 < 0x30 ∧ (slotE 4 0x17 0).operand ≠ 0x1FFFF
       ∧ descRows (p.stream 0) = 0 ∧ slotEmpty p run0 (slotE 4 0x17 0) = true)
    -- a transfer
    ∧ isNext copyP 0 0 (slotE 4 0x10 0) = true ∧ slotEmpty copyP run0 (slotE 4 0x10 0) = false
    ∧ (running copyP).pendingOn 0 (0x10 - 0x10) = none ∧ ((running copyP).liveOn 0 (0x10 - 0x10)).length < 6
    -- a pass, a vector operation, a tile
    ∧ slotEmpty (passP 0 0) run0 (slotE 1 0 0) = false ∧ (slotE 1 0 0).chain = false ∧ ((running (passP 0 0)).arrU (2 * 0 + 0 % 2)).passes = []
    ∧ (let p := onDie 3 (vx 0x20) [slotE 2 2 0]
       isNext p 3 0 (slotE 2 2 0) = true ∧ slotEmpty p run0 (slotE 2 2 0) = false ∧ (running p).badPairs = [] ∧ (running p).ueHits = []
       ∧ 0x20 ≤ vxOp (p.vxop 0) ∧ vxOp (p.vxop 0) < 0x50)
    ∧ (let p := onDie 3 (vx 0x50) [slotE 3 4 0]
       isNext p 3 0 (slotE 3 4 0) = true ∧ slotEmpty p run0 (slotE 3 4 0) = false ∧ vxOp (p.vxop 0) = 0x50
       ∧ ((running p).xpb (2 * 3 + (4 - 3))).load = none
       ∧ (({ running p with xpbs := [(7, { load := some (5, 0) })] } : State).xpb (2 * 3 + (4 - 3))).load ≠ none)
    -- link slots
    ∧ nextSlot linkP (at1 1) 0 = some 1 ∧ nextSlot linkP (at1 2) 0 = some 2 ∧ linkP.slot 0 1 = some (slotE 5 0x30 0)
    ∧ linkP.slot 0 2 = some (slotE 6 0x31 0) ∧ slotEmpty linkP (at1 1) (slotE 5 0x30 0) = false
    ∧ slotEmpty linkP (at1 2) (slotE 6 0x31 0) = false ∧ linked.consumerArm linkP 0 0 1 = some (copyArm .live) ∧ linked.consumerArm linkP 0 0 2 = some (copyArm .live)
    -- a verdict, a refresh
    ∧ (let p := onDie 4 [] [slotE 8 0x40 0]
       isNext p 4 0 (slotE 8 0x40 0) = true ∧ slotEmpty p run0 (slotE 8 0x40 0) = false
       ∧ tget none (running p).units (redUnit (4 - 4)) = none)
    ∧ (let p := onDie 5 [] [slotE 11 0x41 0]
       let d := onDie 5 (List.replicate 34 0 ++ leBytes 2 1) [slotE 11 0x41 0]
       isNext p 5 0 (slotE 11 0x41 0) = true ∧ slotEmpty p run0 (slotE 11 0x41 0) = false
       ∧ tget none (running p).units (updUnit (5 - 4)) = none ∧ refreshDue (p.block 0) run0.q.step = false
       ∧ refreshDue (d.block 0) run0.q.step = true) := by decide +kernel

theorem witness_SlotsEnd :
    let done : Run := { run0 with slots := [(slotKey 0 0, { slotNone with done := true })] }
    let s : State := { running (passP 0 0) with units := [(vecUnit 0, some ⟨0, 0⟩)] }
    let idle := onDie 4 [] [slotE 8 0x40 0]
    let v : State := { running idle with units := [(redUnit 0, some ⟨0, 0⟩), (updUnit 0, some ⟨0, 0⟩)] }
    let p := onDie 4 (List.replicate 30 0 ++ leBytes 2 4 ++ leBytes 1 1 ++ List.replicate 15 0 ++ leBytes 4 0x3F800000) [slotE 0x0B 0x41 0]
    let u : State := { running p with units := [(updUnit 0, some ⟨0, 0⟩)] }
    let b := p.block 0
    let w := fun (s : State) (p : Pricking) (e : SlotEntry) => s.engineWork p run0 4 0 e
    s.run = some run0 ∧ s.img = some (passP 0 0) ∧ s.ueHits = [] ∧ tget none s.units (vecUnit 0) = some ⟨0, 0⟩
    ∧ v.run = some run0 ∧ v.img = some idle ∧ idle.slot (4 + 0) 0 = some (slotE 8 0x40 0)
    ∧ tget none v.units (redUnit 0) = some ⟨0, 0⟩ ∧ tget none (w v idle (slotE 8 0x40 0)).1.units (redUnit 0) ≠ none
    ∧ (w v idle (slotE 8 0x40 0)).2 = true ∧ (w v idle (slotE 8 0x40 0)).1.ueHits = [] ∧ (w v idle (slotE 8 0x40 0)).1.run ≠ none
    ∧ (w v idle (slotE 8 0x40 0)).1.img = some idle
    ∧ u.run = some run0 ∧ u.img = some p ∧ u.ueHits = [] ∧ u.badPairs = [] ∧ Memory.wf u.mem ∧ tget none u.units (updUnit 0) = some ⟨0, 0⟩
    ∧ p.slot (4 + 0) 0 = some (slotE 0x0B 0x41 0) ∧ (slotE 0x0B 0x41 0).action = 0x0B ∧ updDim b = 4
    ∧ allFinite (precCandidate (updP b) (updIters b) (updHyper b 3) (u.readMat (precAt p 0 0) (updDim b))) = true
    ∧ (matBytes (precCandidate (updP b) (updIters b) (updHyper b 3) (u.readMat (precAt p 0 0) (updDim b)))).length = precMat b
    ∧ tget none (w u p (slotE 0x0B 0x41 0)).1.units (updUnit 0) ≠ none ∧ (w u p (slotE 0x0B 0x41 0)).2 = true
    ∧ (w u p (slotE 0x0B 0x41 0)).1.ueHits = [] ∧ (w u p (slotE 0x0B 0x41 0)).1.run ≠ none
    ∧ (w u p (slotE 0x0B 0x41 0)).1.img = some p
    ∧ s.liveRun = some run0 ∧ 0 < ((passP 0 0).deads.getD 0 []).length
    ∧ run0.knotCame (((passP 0 0).deads.getD 0 []).getD 0 (0, 0)).1 = true ∧ run0.slotDone 0 0 = false ∧ slotKey 0 0 ∉ run0.missed
    ∧ (passP 0 0).slot 0 0 = some (slotE 1 0 0) ∧ (slotE 1 0 0).action ≠ 3 ∧ done.slotDone 0 0 = true := by decide +kernel

theorem witness_ScalesApply :
    let j : ScaleJob := { clean := true, merged := [(2047, { collected := true, amax := 0x3F800000 })] }
    live.scaleJob = none ∧ ({ live with scaleJob := some j } : State).scaleJob = some j
    ∧ ({ live with scaleJob := some { j with clean := false } } : State).scaleJob = some { j with clean := false }
    ∧ (tget {} j.merged 2047).collected = true ∧ (tget {} j.merged 0).collected = false := by decide +kernel

theorem witness_TransfersRun :
    let pend := copying (copyArm .pending)
    let feed : Arm := { copyArm .live with desc := leBytes 4 1 ++ leBytes 4 1 ++ leBytes 4 64 ++ leBytes 4 1 ++ copyDesc.drop 16, beats := 1 }
    let full := copying feed
    let stat : Arm := { copyArm .live with desc := leBytes 4 2 ++ copyDesc.drop 4 }
    let s := copying (copyArm .live)
    let busy : State := { copying stat with arrays := [(0, { leaving := true })] }
    let host : Arm := { copyArm .live with stream := 0x1FFFF, slot := 0x1FFFF, hostVa := 0x200080 }
    pend.pendingOn 0 0 = some (copyArm .pending) ∧ pend.liveOn 0 0 = [] ∧ (pend.liveOn 0 0).length < 6
    ∧ ((full.armsOf 0 0 (.stream 0) 1).find? fun a => (a.phase == .live || a.phase == .ended) && decide (a.freed < descTiles a.desc)) = some feed
    ∧ full.canFree feed feed.freed = true ∧ (full.landTo feed (feed.tileBeats feed.freed)).2.2 = none ∧ full.badPairs = [] ∧ full.ueHits = []
    ∧ feed.tileBeats feed.freed ≤ feed.beats
    ∧ s.armOf 0 0 (.stream 0) 1 = some (copyArm .live) ∧ descBeats copyDesc ≤ s.armLimit (copyArm .live) ∧ (copyArm .live).kind = 0
    ∧ (s.landTo (copyArm .live) (descBeats copyDesc)).2.2 = none ∧ s.badPairs = [] ∧ s.ueHits = [] ∧ Memory.wf s.mem
    ∧ (copyArm .live).beats = 0 ∧ descRows copyDesc = 1 ∧ s.rowSkip (copyArm .live) 0 = false
    ∧ s.srcRuns (copyArm .live) 0 0 (descRowBytes copyDesc) = some [(0x400000, descRowBytes copyDesc)]
    ∧ s.dstRuns (copyArm .live) 0 0 (descRowBytes copyDesc) = some [(0x400040, descRowBytes copyDesc)]
    ∧ s.run = some run0 ∧ s.img = some copyP
    ∧ busy.armOf 0 0 (.stream 0) 1 = some stat ∧ stat.kind = 2 ∧ descBeats stat.desc ≤ busy.armLimit stat ∧ (busy.landTo stat (descBeats stat.desc)).2.2 = none
    ∧ (busy.arrU (2 * stat.die + descArray stat.desc)).portFree = false
    ∧ (copying stat).armOf 0 0 (.stream 0) 1 = some stat ∧ descBeats stat.desc ≤ (copying stat).armLimit stat
    ∧ ((copying stat).landTo stat (descBeats stat.desc)).2.2 = none ∧ ((copying stat).arrU (2 * stat.die + descArray stat.desc)).portFree = true
    ∧ (copying host).armOf 0 0 (.host 0x200080) 1 = some host ∧ ((copying host).landTo host (descBeats host.desc)).2.2 = none
    ∧ descBeats host.desc ≤ (copying host).armLimit host ∧ host.stream = 0x1FFFF ∧ (copying host).lastHostArm host = true := by
  decide +kernel

/-- The copy comes in from a port instead (LINK_IN), or goes to one (MCAST). -/
def linkArm (kind : Nat) : Arm := { copyArm .live with desc := leBytes 4 kind ++ copyDesc.drop 4 }

theorem witness_TransfersRun_links :
    let i : Arm := { linkArm 4 with pieces := [(3, 1)] }
    let s := copying i
    let o : Arm := { linkArm 5 with rcv := leBytes 4 3, pieces := [(3, 1)] }
    i.kind = 4 ∧ s.armOf 0 0 (.stream 0) 1 = some i ∧ descBeats i.desc ≤ s.armLimit i ∧ (∃ x ∈ i.pieces, s.armBytes i ≤ 256 * x.2)
    ∧ o.kind = 5 ∧ o.sentTo ((copying o).armBytes o) = true := by decide +kernel

theorem witness_TransferFaults :
    let s := copying (copyArm .live)
    let a := copyArm .live
    let l := linkArm 4
    let go := fun (s : State) (l : List (Blk × Fld × Nat)) => ({ put s l with hostGo := [4] } : State)
    let desc := copyDesc ++ List.replicate 32 0
    let ok : Nat → State := fun n =>
      { (go { experts with pages := [page2] } [(.bob 4, F.BOB_ARM_VA_LO_VA_LO, 0x200000), (.bob 4, F.BOB_ARM_BOBBIN, n)]) with
        mem := cellsOf 0x400000 desc }
    let idle := fun (s : State) => decide (s.expert = true ∧ s.run = none ∧ s.queue = [] ∧ 4 ∈ s.hostGo)
    let valid := fun (s : State) => decide (s.g2 (.bob 4) F.BOB_ARM_VA_LO_VA_LO F.BOB_ARM_VA_HI_VA_HI % 64 = 0
      ∧ walkRange s.pages false (s.g2 (.bob 4) F.BOB_ARM_VA_LO_VA_LO F.BOB_ARM_VA_HI_VA_HI) 64 = some [(0x400000, 64)]
      ∧ s.badRuns [(0x400000, 64)] 0 = none ∧ (s.readRuns [(0x400000, 64)]).length = 64 ∧ validCopy (s.readRuns [(0x400000, 64)]) = true)
    s.armOf 0 0 (.stream 0) 1 = some a ∧ a.beats ≤ 0 * descRowBeats a.desc + 0 ∧ 0 * descRowBeats a.desc + 0 < descBeats a.desc
    ∧ 0 < descRowBeats a.desc ∧ s.badPairs = [] ∧ s.ueHits = [] ∧ (s.landTo a (0 * descRowBeats a.desc + 0)).2.2 = none
    ∧ s.fatalSet = false ∧ s.phaseNow ≠ 5 ∧ a.kind = 0
    ∧ memOf (((s.landTo a 0).1.xlat a.die false ((s.landTo a 0).1.srcRow a.die a.desc 0 + 64 * 0)).getD 0) ≠ none
    ∧ (copying l).armOf 0 0 (.stream 0) 1 = some l ∧ l.kind = 4 ∧ ((copying l).landTo l (0 * descRowBeats l.desc + 0)).2.2 = none
    ∧ s.armsOf 5 7 (.stream 0) 0 = [] ∧ 7 < bobbins (5 : Die).val
    ∧ (4 ∈ (go live []).hostGo ∧ (go live []).expert = false)
    ∧ ((go { experts with run := some run0 } []).expert = true ∧ (go { experts with run := some run0 } []).run ≠ none)
    ∧ (let w : State := go { experts with arms := [{ copyArm .pending with die := 4 }] } []
       idle w ∧ w.g (.bob 4) F.BOB_ARM_BOBBIN < bobbins 4 ∧ w.pendingOn 4 (w.g (.bob 4) F.BOB_ARM_BOBBIN) ≠ none)
    ∧ (let w := go experts [(.bob 4, F.BOB_ARM_VA_LO_VA_LO, 0x20)]
       idle w ∧ w.pendingOn 4 (w.g (.bob 4) F.BOB_ARM_BOBBIN) = none ∧ w.g2 (.bob 4) F.BOB_ARM_VA_LO_VA_LO F.BOB_ARM_VA_HI_VA_HI % 64 ≠ 0)
    ∧ idle (ok 8) ∧ valid (ok 8) ∧ bobbins 4 ≤ (ok 8).g (.bob 4) F.BOB_ARM_BOBBIN
    ∧ idle (ok 7) ∧ valid (ok 7) ∧ (ok 7).g (.bob 4) F.BOB_ARM_BOBBIN = 7 ∧ (ok 7).pendingOn 4 7 = none
    ∧ idle (ok 6) ∧ valid (ok 6) ∧ (ok 6).g (.bob 4) F.BOB_ARM_BOBBIN = 6 ∧ 6 < bobbins 4 ∧ ¬(4 = 4 ∧ 6 = 7) ∧ (ok 6).pendingOn 4 6 = none
    ∧ descRows ((ok 6).readRuns [(0x400000, 64)]) ≠ 0 ∧ (ok 6).liveOn 4 6 = [] := by decide +kernel

theorem witness_MemoryReads :
    let s := copying (copyArm .live)
    let two : State := { running (onDie 4 (copyDesc.take 24 ++ leBytes 8 0x400000) [slotE 4 0x10 0]) with
      tlb := [{ va := 0x200000, dpa := slowBase 0, size := 0x200000, readOnly := false }, { va := 0x400000, dpa := 0, size := 0x200000, readOnly := false }]
      arms := [{ copyArm .live with die := 4, desc := copyDesc.take 24 ++ leBytes 8 0x400000 }] }
    let five : State := { running (onDie 0 [] []) with
      img := some { onDie 0 [] [] with image := List.replicate 0x80 0 ++ (leBytes 4 0x88 ++ leBytes 4 8) ++ (leBytes 2 5 ++ leBytes 1 0 ++ leBytes 1 5 ++ leBytes 4 0) }
      units := [(updUnit 0, some ⟨7, 0⟩)] }
    let dpa : BitVec 48 := 0x400000
    let m := hbmStack dpa.toNat
    dpa.toNat < 4 * hoopHbm ∧ m < 24 ∧ dpa.toNat / 64 * 64 ∉ s.badPairs
    ∧ s.readerArm .host = none ∧ isPartial .host = false ∧ s.readerArm (.unit 4 0x40 false) = none
    ∧ (rsDecode []).isSome = true ∧ (rsDecode []).elim 1 (·.2) = 0 ∧ (rsDecode [(3, 0x55)]).elim 0 (·.2) = 0 + 1
    ∧ rsDecode [(3, 0x55), (9, 0x55)] = none ∧ s.phaseNow ≠ 5 ∧ m ∉ s.ceSeen ∧ five.phaseNow = 5
    ∧ s.armOf 5 0 (.stream 0) 1 = none
    ∧ s.armOf 0 0 (.stream 0) 1 = some (copyArm .live) ∧ Memory.wf s.mem ∧ s.badPairs = [] ∧ s.ueHits = []
    ∧ s.beatAt (copyArm .live) dpa.toNat false = some (copyArm .live).beats
    ∧ (s.landTo (copyArm .live) (0 + 1)).2.2 = none ∧ (s.landTo (copyArm .live) (0 + 1)).2.1.beats = 0 + 1
    ∧ memOf (BitVec.ofNat 48 (slowBase 0)).toNat = some (.slow 0) ∧ (0x40 : BitVec 8).toNat ≠ 0x41
    ∧ (five.updCut 0 (slowBase 0)).phaseNow = 5 ∧ (five.updCut 0 (slowBase 0)).fatalSet = false
    ∧ tget none (five.updCut 0 (slowBase 0)).units (updUnit 0) = some ⟨7, 0⟩ ∧ (five.updCut 0 (slowBase 0)).g (.upd 0) F.UPD_STATUS_KIND ≠ 3
    ∧ (two.armOf (4 + 0) 0 (.stream 0) 1).isSome = true ∧ two.badPairs = [] ∧ two.ueHits = [] ∧ Memory.wf two.mem
    ∧ (∀ a ∈ two.arms, two.beatAt a (slowBase 0) false = some a.beats ∧ (two.landTo a (a.beats + 1)).2.2 = none
        ∧ (two.landTo a (a.beats + 1)).2.1.beats = a.beats + 1) := by decide +kernel

theorem witness_StackTemperature :
    let s : State := { live with hbmHot := [], hbmMiss := [(23, 2)] }
    105 ≤ (105 : BitVec 8).toNat ∧ (104 : BitVec 8).toNat < 105 ∧ tget 0 s.hbmHot 23 = 0 ∧ tget 0 s.hbmMiss 23 = 2
    ∧ tget 0 live.hbmMiss 23 = 0 ∧ tget 0 live.hbmMiss 23 ≠ 2
    ∧ (∃ u, exec (.hbmTempRead 23 (some 105)) live = .next u) ∧ ∃ u v, exec (.hbmTempRead 23 none) live = .next u
      ∧ exec (.hbmTempRead 23 none) u = .next v :=
  ⟨by decide, by decide, by decide +kernel, by decide +kernel, by decide +kernel, by decide +kernel, ⟨_, rfl⟩, ⟨_, _, rfl, rfl⟩⟩

theorem witness_ScrubAndRefresh :
    let s : State := { running copyP with scrubPos := [(0, 0x600000000 - 64), (28, dieSramSize 4 - 8)]
                                          tlb := [{ va := 0, dpa := 0, size := hoopHbm, readOnly := false }, { va := 0, dpa := dieSram 4, size := 0x4000000, readOnly := false }] }
    hbmDpa 0 (tget 0 s.scrubPos 0) / 64 * 64 ∉ s.badPairs ∧ tget 0 s.scrubPos 0 + 64 ≥ 0x600000000 ∧ tget 0 s.scrubPos 0 < 0x600000000
    ∧ s.pinned (hbmDpa 0 (tget 0 s.scrubPos 0)) = true ∧ rsDecode [(3, 0x55), (9, 0x55)] = none
    ∧ (rsDecode []).isSome = true ∧ (rsDecode []).elim 1 (·.2) = 0 ∧ (rsDecode [(3, 0x55)]).elim 0 (·.2) = 0 + 1 ∧ Memory.wf s.mem
    ∧ dieSram 4 + tget 0 s.scrubPos (24 + 4) ∉ s.badPairs ∧ tget 0 s.scrubPos (24 + 4) < dieSramSize 4
    ∧ tget 0 s.scrubPos (24 + 4) % 8 = 0 ∧ s.pinned (dieSram 4 + tget 0 s.scrubPos (24 + 4)) = true
    ∧ (0 : BitVec 28).toNat < dieSramSize 4 ∧ s.phaseNow ≠ 5
    ∧ (∃ v ∈ (List.range 8).map fun i => (255 : BitVec 64).toNat / 256 ^ i % 256, mr4Hot v = true)
    ∧ (∀ v ∈ (List.range 8).map fun i => (0 : BitVec 64).toNat / 256 ^ i % 256, mr4Hot v = false) := by decide +kernel

/-! ### Ports and bridges -/

/-- Bytes as an ordered set, and as a control flit. -/
def wire (bs : List Byte) : OrdSet := BitVec.ofNat 512 (leAt bs 0 64)
def flitOf (bs : List Byte) : CtlFlit := BitVec.ofNat 2048 (leAt bs 0 256)

/-- What a partner's lane 0 sends in training. -/
def train0 : Train :=
  { state := 3, maxVer := 0x20, precode := false, ack := true, switch := false, identity := 7, fwdSlots := 1, lane := 0 }

theorem witness_PortTraining :
    let heard := fun (rev : Bool) (n : Nat) (l : List (Blk × Fld × Nat)) =>
      ({ portIn 3 l with ports := [(3, { caps := (List.range 8).map fun l => (l, n)
                                         lanes := (List.range 8).map fun l => (l, if rev then 8 - l else l + 1) })] } : State)
    let order := fun (r : Bool) (s : State) => decide (∀ l : Fin 8, tget 0 (s.portU 3).lanes l.val = if r then 8 - l.val else l.val + 1)
    let seen := fun (s : State) => decide (∀ l : Fin 8, 16 ≤ tget 0 (s.portU 3).caps l.val)
    let v20 := heard true 16 [(.nir 3, F.NIR_PEER_INFO_MAX_VER, 0x20)]
    let delayed : Nat → State := fun n => { portIn 7 [(.nir 3, F.NIR_STATUS_VER, 2)] with ports := [(3, { delays := List.replicate n 256 })] }
    (portIn 2 []).portState 3 = 2
    ∧ (heard false 16 []).portState 3 = 3 ∧ seen (heard false 16 []) = true ∧ order false (heard false 16 []) = true
    ∧ v20.portState 3 = 3 ∧ seen v20 = true ∧ order true v20 = true ∧ (v20.portU 3).maxVer = 2 ∧ 0x20 ≤ v20.g (.nir 3) F.NIR_PEER_INFO_MAX_VER
    ∧ seen (heard false 15 []) = false ∧ (heard false 15 []).portState 3 = 3 ∧ seen (portIn 3 []) = false
    ∧ (let s : State := { portIn 3 [] with ports := [(3, { caps := (List.range 8).map fun l => (l, 16) })] }
       seen s = true ∧ ¬∃ r, order r s = true)
    ∧ (portIn 4 []).portState 3 = 4 ∧ (portIn 5 []).portState 3 = 5 ∧ (portIn 6 []).portState 3 = 6
    ∧ (5120 : BitVec 16).toNat ≤ 20 * 256 ∧ 20 * 256 < (5121 : BitVec 16).toNat
    ∧ (portIn 6 []).g (.nir 3) F.NIR_STATUS_VER ≠ 2 ∧ (portIn 6 [(.nir 3, F.NIR_STATUS_VER, 2)]).portState 3 = 6
    ∧ (portIn 6 [(.nir 3, F.NIR_STATUS_VER, 2)]).g (.nir 3) F.NIR_STATUS_VER = 2
    ∧ (portIn 7 [(.nir 3, F.NIR_STATUS_VER, 1)]).portState 3 = 7 ∧ (portIn 7 [(.nir 3, F.NIR_STATUS_VER, 1)]).g (.nir 3) F.NIR_STATUS_VER ≠ 2
    ∧ (delayed 8).portState 3 = 7 ∧ 8 ≤ ((delayed 8).portU 3).delays.length
    ∧ (delayed 7).portState 3 = 7 ∧ (delayed 7).g (.nir 3) F.NIR_STATUS_VER = 2 ∧ ((delayed 7).portU 3).delays.length < 8
    ∧ 2 ≤ (portIn 2 []).portState 3 ∧ (portIn 7 []).portState 3 ≠ 8 ∧ (portIn 7 []).portState 3 < 8 ∧ ((portIn 7 []).portU 3).closing = none
    ∧ decTrain (wire (encTrain train0)) = some train0 := by decide +kernel

theorem witness_TrainingTimeoutsGoStop :
    let tried : State → State := fun s => { s with ports := [(3, { eqTries := 2 })] }
    let s := fun n => put (portIn n []) [(.dev, F.DEV_MODE_STATE_CUR_EXPERT, 1)]
    (portIn 2 []).portState 3 = 2 ∧ (portIn 3 []).portState 3 = 3 ∧ (portIn 6 []).portState 3 = 6
    ∧ (portIn 4 []).portState 3 = 4 ∧ ((portIn 4 []).portU 3).eqTries < 2
    ∧ (tried (portIn 4 [])).portState 3 = 4 ∧ 2 ≤ ((tried (portIn 4 [])).portU 3).eqTries
    ∧ (tried (portIn 5 [])).portState 3 = 5 ∧ 2 ≤ ((tried (portIn 5 [])).portU 3).eqTries
    ∧ ∀ n ∈ [0, 1, 2, 8], (s n).hostUp = true ∧ (s n).fatalSet = false ∧ (s n).ready = true ∧ (s n).expert = true
      ∧ (s n).portState 3 = n := by decide +kernel

theorem witness_PortFailures : (portUp []).portUp 3 = true ∧ (portIn 1 []).portUp 3 = false
    ∧ osRx (wire (encPortDown 1)) = .set 7 (encPortDown 1) ∧ (osOf 7 (wire (encPortDown 1))).isSome = true
    ∧ ((portUp []).portU 3).lastOs ≠ encPortDown 1 := by decide +kernel

/-- A LINK_IN or LINK_OUT of one row of 256 bytes through the buffer at the head of H0's SRAM. -/
def linkDesc (kind : Nat) : List Byte := leBytes 4 kind ++ leBytes 4 1 ++ leBytes 4 256 ++ leBytes 4 1 ++ List.replicate 16 0

/-- One frame of it scheduled for slot 5 of knot 0 on port 3, its row landed where it is to be sent. -/
def linked (send : Bool) (v : Nat) : State :=
  { portUp [(.nir 3, F.NIR_STATUS_VER, v)] with
    links := [{ die := 0, slot := 0, port := 3, send := send, stream := 2, gen := 1, knot := 0, first := 5, frames := 1, done := 0
                bytes := 256, actual := 0 }]
    arms := [{ die := 0, bobbin := 0, stream := 2, desc := linkDesc (if send then 3 else 4), gen := 1, slot := 0, phase := .live
               beats := if send then 4 else 0 }] }

theorem witness_FramesSentFlitsInOrder_frames :
    let sent := (linked true 2).sendRun 3 (linked true 2).grid.knot 5
    let fatal := { portUp [(.dev, F.DEV_STATUS_FATAL, 1)] with faultOs := encFault ⟨7, false, 4, 2, 0, 5, 0⟩ }
    let closing : Nat → State := fun n => { portIn 1 [] with ports := [(3, { closing := some (n, 1) })], grid := { time := 5 } }
    (portUp []).portUp 3 = true ∧ ((portUp []).portU 3).closing = none ∧ (portUp []).fatalSet = false
    ∧ ((portUp []).sendRun 3 (portUp []).grid.knot 0).2 = none ∧ (linked true 1).portUp 3 = true ∧ (linked true 1).g (.nir 3) F.NIR_STATUS_VER ≠ 2
    ∧ (linked true 2).portUp 3 = true ∧ ((linked true 2).portU 3).closing = none ∧ (linked true 2).fatalSet = false
    ∧ (linked true 2).g (.nir 3) F.NIR_STATUS_VER = 2
    ∧ (sent.2.any fun x => decide (256 * (x.2.2 * 50 + 0) < x.1.bytes) && (sent.1.sendPiece x.2.1 x.1.bytes (x.2.2 * 50 + 0)).isSome) = true
    ∧ fatal.portUp 3 = true ∧ fatal.fatalSet = true ∧ (fatal.portU 3).closing = none ∧ leAt fatal.faultOs 0 1 = 5
    ∧ (∀ n ∈ [4, 5], ((closing n).portU 3).closing = some (n, 1)) ∧ timeBefore 5 (closing 5).grid.time = false
    ∧ timeBefore 4 (closing 4).grid.time = true
    ∧ ((portIn 1 []).portU 3).closing = none ∧ (portIn 1 []).portState 3 < 2 := by decide +kernel

/-- A JOIN_REPORT with SEQ 1 without its CRC (40 bytes of content, 212 of zeros), and its CRC. -/
def joinMsg : CtlMsg := .joinReport 9 0 0 1 true 4
def joinHead : List Byte := leBytes 1 2 ++ leBytes 1 0 ++ leBytes 2 1 ++ leBytes 2 32 ++ leBytes 2 0 ++ leBytes 8 9 ++ leBytes 8 0
  ++ leBytes 1 0 ++ leBytes 1 1 ++ leBytes 1 1 ++ leBytes 1 0 ++ leBytes 4 4 ++ leBytes 8 0
def joinBody : List Byte := (joinHead ++ List.replicate 23 0) ++ (List.replicate 63 0 ++ (List.replicate 63 0 ++ List.replicate 63 0))

theorem crc_join : crc32 joinBody = 2984841591 := by
  have h1 : (joinHead ++ List.replicate 23 0).foldl crcByte 0xFFFFFFFF = 3818498488 := by decide +kernel
  have h2 : (List.replicate 63 (0 : Byte)).foldl crcByte 3818498488 = 3482231297 := by decide +kernel
  have h3 : (List.replicate 63 (0 : Byte)).foldl crcByte 3482231297 = 3498984100 := by decide +kernel
  have h4 : (List.replicate 63 (0 : Byte)).foldl crcByte 3498984100 = 1310125704 := by decide +kernel
  rw [crc32, joinBody, List.foldl_append, List.foldl_append, List.foldl_append, h1, h2, h3, h4]; decide

/-- The flit with its CRC, and the same with a CRC of 0. -/
def joinFlit (crc : Nat) : CtlFlit := flitOf (joinBody ++ leBytes 4 crc)

theorem join_taken : decCtl (joinFlit 2984841591) = some (1, joinMsg) := by
  have h : leBytes 256 (joinFlit 2984841591).toNat = joinBody ++ leBytes 4 2984841591 := by decide +kernel
  have h2 : (joinBody ++ leBytes 4 2984841591).take 252 = joinBody := by decide +kernel
  simp only [decCtl, h, h2, crc_join]; decide +kernel

theorem join_fails : decCtl (joinFlit 0) = none := by
  have h : leBytes 256 (joinFlit 0).toNat = joinBody ++ leBytes 4 0 := by decide +kernel
  have h2 : (joinBody ++ leBytes 4 0).take 252 = joinBody := by decide +kernel
  simp only [decCtl, h, h2, crc_join]; decide +kernel

theorem witness_FramesSentFlitsInOrder_flits :
    let s : State := put (portUp []) [(.grid, F.GRID_STATUS_IS_ROOT, 1)]
    let u : State := { s with ports := [(3, { rxSeq := 65530 })] }
    s.portUp 3 = true ∧ s.fatalSet = false ∧ s.isRoot = true ∧ u.portUp 3 = true ∧ u.fatalSet = false
    ∧ decCtl (joinFlit 2984841591) = some (1, joinMsg) ∧ joinMsg ≠ .null ∧ 1 = ((s.portU 3).rxSeq + 1) % 65536
    ∧ decCtl (joinFlit 0) = none ∧ 1 ≠ ((u.portU 3).rxSeq + 1) % 65536 ∧ seqBefore 1 ((u.portU 3).rxSeq + 1) = false :=
  ⟨by decide +kernel, by decide +kernel, by decide +kernel, by decide +kernel, by decide +kernel, join_taken, by decide, by decide +kernel,
    join_fails, by decide +kernel, by decide +kernel⟩

/-- A frame whose first flit is 256 zero bytes, at a SLOT_CHECK for slot 5 of knot 0. -/
def zeros : List Byte := List.replicate 64 0 ++ (List.replicate 64 0 ++ (List.replicate 64 0 ++ List.replicate 64 0))
theorem crc_zeros : crc32 zeros = 227968344 := by
  have h1 : (List.replicate 64 (0 : Byte)).foldl crcByte 0xFFFFFFFF = 2322767049 := by decide +kernel
  have h2 : (List.replicate 64 (0 : Byte)).foldl crcByte 2322767049 = 1029113186 := by decide +kernel
  have h3 : (List.replicate 64 (0 : Byte)).foldl crcByte 1029113186 = 1946220301 := by decide +kernel
  have h4 : (List.replicate 64 (0 : Byte)).foldl crcByte 1946220301 = 4066998951 := by decide +kernel
  rw [crc32, zeros, List.foldl_append, List.foldl_append, List.foldl_append, h1, h2, h3, h4]; decide

def checkOf (crc map : Nat) : SlotCheck := ⟨5, 0, map, crc, 0, 3, false⟩
def frameOf (crc map : Nat) (flits : List (List Byte)) (lines : List (List Nat)) : RxFrame :=
  { check := wire (encSlotCheck (checkOf crc map)), flits := flits, lines := lines }

/-- Codewords, with so many wrong symbols on each lane: one that is corrected, and one that is not. -/
def fixedWord : List Nat := [15, 0, 0, 0, 0, 0, 0, 0]
def lostWord : List Nat := [16, 0, 0, 0, 0, 0, 0, 0]

theorem witness_FramesReceived_limits :
    let s := portUp [(.nir 3, F.NIR_CTRL_UE_LIMIT, 0), (.nir 3, F.NIR_CTRL_SER_LIMIT, 0)]
    let bad := frameOf 0 0 [] [lostWord]
    let symbols := frameOf 0 0 [] [fixedWord]
    s.portUp 3 = true ∧ (s.portU 3).fecErrs = [] ∧ rxFixed bad + rxLost bad ≠ 0 ∧ s.g (.nir 3) F.NIR_CTRL_UE_LIMIT < rxLost bad
    ∧ rxFixed symbols + rxLost symbols ≠ 0 ∧ rxLost symbols ≤ s.g (.nir 3) F.NIR_CTRL_UE_LIMIT
    ∧ s.g (.nir 3) F.NIR_CTRL_SER_LIMIT * 256 < rxSymbols symbols 0 := by decide +kernel

theorem witness_FramesReceived :
    let s := linked false 2
    let good := frameOf 227968344 1 [zeros] []
    let l := frameOf 0 1 [] [lostWord]
    let wrong := frameOf 1 1 [] []
    let unmarked := frameOf 0 0 [] []
    let stray := frameOf 0 2 [] []
    let step : State := { portUp [] with run := some run0 }
    let void : State := { portUp [] with run := some { run0 with voided := true } }
    (portUp []).portUp 3 = true ∧ (portUp []).links = [] ∧ (portUp []).run = none ∧ rxFixed unmarked + rxLost unmarked = 0
    ∧ rxCheck 2 unmarked = some (checkOf 0 0) ∧ (checkOf 0 0).nak = false ∧ (checkOf 0 0).map = 0 ∧ crc32 unmarked.flits.flatten = 0
    ∧ s.portUp 3 = true ∧ s.g (.nir 3) F.NIR_STATUS_VER = 2 ∧ s.gb (.nir 3) F.NIR_STATUS_FOREIGN = false
    ∧ (s.linkAt 3 false 0 5).any (fun x => x.1.bytes == 256 && expectMap x.1 x.2.2 == 1 && x.2.2 == 0 && descRowBytes x.2.1.desc == 256
        && descTileRows x.2.1.desc == 1 && x.2.1.freed == 0) = true
    ∧ s.badPairs = [] ∧ s.ueHits = [] ∧ Memory.wf s.mem
    ∧ rxCheck 2 good = some (checkOf 227968344 1) ∧ rxLost good = 0 ∧ (good.flits.getD 0 []).length = 256
    ∧ rxLost l ≠ 0 ∧ rxLost l ≤ s.g (.nir 3) F.NIR_CTRL_UE_LIMIT ∧ (∀ k : Fin 8, rxSymbols l k.val ≤ s.g (.nir 3) F.NIR_CTRL_SER_LIMIT * 256)
    ∧ rxCheck 2 l = some (checkOf 0 1) ∧ rxCheck 2 wrong = some (checkOf 1 1) ∧ rxLost wrong = 0 ∧ crc32 wrong.flits.flatten ≠ 1
    ∧ rxCheck 2 unmarked = some (checkOf 0 0) ∧ (checkOf 0 0).map ≠ 1
    ∧ rxCheck 2 stray = some (checkOf 0 2) ∧ (checkOf 0 2).map ≠ 0 ∧ (∀ x ∈ [step, void, portUp []], x.linkAt 3 false 0 5 = none)
    ∧ step.liveRun.isSome = true ∧ void.liveRun = none ∧ crc32 stray.flits.flatten = 0 := by decide +kernel
theorem witness_FramesReceived_crc : crc32 (frameOf 227968344 1 [zeros] []).flits.flatten = (checkOf 227968344 1).crc := by
  simp [frameOf, checkOf, crc_zeros]

theorem witness_SlotCheckAndPeerFault :
    let s := linked false 2
    let last : State := { s with grid := { knot := 1 } }
    let x : FaultSet := { rank := 7, noPricking := true, die := 4, code := 2, knot := 0, identity := 5, stepEnd := 0 }
    let old := fun (s : State) => (s.grid.knot + 2 ^ 48 - 1) % 2 ^ 48
    s.linkAt 3 false (old s) 5 = none ∧ (s.linkAt 3 false s.grid.knot 5).isSome = true ∧ (last.linkAt 3 false (old last) 5).isSome = true
    ∧ s.linkAt 3 false (old s) 6 = none ∧ s.linkAt 3 false s.grid.knot 6 = none
    ∧ (portUp []).portUp 3 = true ∧ (portUp []).gb (.nir 3) F.NIR_STATUS_PEER_FAULT = false
    ∧ osRx (wire (encFault x)) = .set 5 (encFault x) ∧ ((portUp []).portU 3).lastOs ≠ encFault x
    ∧ decFault (wire (encFault x)) = some x := by decide +kernel

theorem witness_BridgeErrors : 2 < bridgesOf (3 : Die).val ∧ 1 < bridgesOf (5 : Die).val ∧ State.reset.liveRun = none := by decide +kernel

/-! ### The grid -/

def rootUp : State := put (portUp []) [(.grid, F.GRID_STATUS_LOCK_STATE, 2), (.grid, F.GRID_STATUS_IS_ROOT, 1)]

theorem witness_RootsAndLockStates :
    let s := grid 1 [(.grid, F.GRID_CTRL_ROOT_PRIO, 0x10)]
    let w := grid 1 [(.grid, F.GRID_CTRL_ROOT_PRIO, 0xFE), (.grid, F.GRID_CTRL_SYNC_EN, 1)]
    let joining : State := { grid 1 [] with cmds := [{ ring := 0, opcode := 0x21, cid := 1, sqHead := 0 }] }
    let member := grid 2 [(.grid, F.GRID_CTRL_ROOT_PRIO, 0x10)]
    let backup : State := { member with grid := { backupId := member.identity } }
    let never := grid 1 [(.grid, F.GRID_CTRL_ROOT_PRIO, 0xFF)]
    s.lockState = 1 ∧ s.grid.adopted = false ∧ s.isRoot = false ∧ s.g .grid F.GRID_CTRL_ROOT_PRIO ≠ 0xFF
    ∧ s.gb .grid F.GRID_CTRL_SYNC_EN = false ∧ s.img = none ∧ 0 < s.g .grid F.GRID_KNOT_INT_INTERVAL
    ∧ s.grid.time + 2 * nsT (s.g .grid F.GRID_KNOT_INT_INTERVAL) < 2 ^ 64
    ∧ w.lockState = 1 ∧ w.grid.adopted = false ∧ w.isRoot = false ∧ w.g .grid F.GRID_CTRL_ROOT_PRIO ≠ 0xFF
    ∧ w.gb .grid F.GRID_CTRL_SYNC_EN = true
    ∧ joining.lockState = 1 ∧ joining.isRoot = false ∧ (joining.cmdOf 0x21).isSome = true
    ∧ (grid 2 []).lockState = 2 ∧ (grid 2 []).isRoot = false ∧ (grid 3 []).lockState = 3
    ∧ 2 ≤ backup.lockState ∧ backup.isRoot = false ∧ backup.grid.backupId = backup.identity ∧ neverRoot backup.identity = false
    ∧ never.g .grid F.GRID_CTRL_ROOT_PRIO = 0xFF ∧ neverRoot never.identity = true := by decide +kernel

/-- A beacon at the last hop that can still be joined. -/
def beacon : Beacon :=
  { rootId := 7, epoch := 0, hop := 15, sendTime := 0, nextKnot := 5, t0 := 2 ^ 40, t1 := 2 ^ 41, interval := 50000, stretch := 3
    backupId := 9, voidStep := false, intChg := 0 }

theorem witness_BeaconsAndDelays :
    let q : DelayReq := ⟨1, 77⟩
    let x : DelayResp := ⟨1, 77, 100, 200, 300, true⟩
    let req : State → State := fun s => { s with ports := [(3, { req := some (1, 77) })] }
    let follows : Nat → State := fun n => { grid n [] with grid := { adopted := true } }
    (∀ n ∈ [1, 2], (follows n).lockState = n ∧ (follows n).grid.adopted = true ∧ (follows n).fatalSet = false)
    ∧ (follows 3).lockState = 3 ∧ (grid 2 []).grid.adopted = false
    ∧ (∀ s ∈ [portUp [], portIn 7 [(.nir 3, F.NIR_STATUS_VER, 2)]], s.delayOn 3 = true ∧ s.fatalSet = false ∧ (s.portU 3).lastOs ≠ encDelayReq q)
    ∧ osRx (wire (encDelayReq q)) = .set 2 (encDelayReq q) ∧ decDelayReq (wire (encDelayReq q)) = some q
    ∧ (∀ s ∈ [req (portUp []), req (portIn 7 [(.nir 3, F.NIR_STATUS_VER, 2)])], s.delayOn 3 = true ∧ s.fatalSet = false ∧ (s.portU 3).lastOs ≠ encDelayResp x
        ∧ (s.portU 3).req = some (x.seq, x.t1))
    ∧ osRx (wire (encDelayResp x)) = .set 3 (encDelayResp x) ∧ decDelayResp (wire (encDelayResp x)) = some x
    ∧ (∀ os ∈ [encBeacon beacon, encDelayReq q, encDelayResp x],
        (let s : State := { portUp [] with ports := [(3, { osq := [os] })] }
         s.portUp2 3 = true ∧ s.fatalSet = false ∧ (s.portU 3).closing = none ∧ (s.sendRun 3 s.grid.knot 0).2 = none
         ∧ (s.portU 3).osq = [os])) := by decide +kernel

theorem witness_BeaconsHeard :
    let s := put (portUp []) [(.grid, F.GRID_STATUS_LOCK_STATE, 1)]
    let deep := { beacon with hop := 16 }
    let m : Nat → Nat → State := fun root id => { put (portUp []) [(.grid, F.GRID_STATUS_LOCK_STATE, 2), (.grid, F.GRID_ROOT_ID_LO_ID_LO, root),
        (.grid, F.GRID_STATUS_BEACON_PORT, 3)] with
      grid := { adopted := true, joined := true, backupId := id } }
    let own := put rootUp [(.grid, F.GRID_ROOT_ID_LO_ID_LO, 7)]
    let root := fun (s : State) => s.g2 .grid F.GRID_ROOT_ID_LO_ID_LO F.GRID_ROOT_ID_HI_ID_HI
    osRx (wire (encBeacon beacon)) = .set 1 (encBeacon beacon) ∧ decBeacon (wire (encBeacon beacon)) = some beacon
    ∧ osRx (wire (encBeacon deep)) = .set 1 (encBeacon deep) ∧ decBeacon (wire (encBeacon deep)) = some deep
    ∧ (∀ x ∈ [s, m 7 0, m 8 0, rootUp, own], x.portUp2 3 = true ∧ x.fatalSet = false ∧ (x.portU 3).lastOs = [])
    ∧ [] ≠ encBeacon beacon ∧ [] ≠ encBeacon deep
    ∧ beacon.hop < 16 ∧ 16 ≤ deep.hop
    ∧ s.lockState = 1 ∧ s.isRoot = false ∧ s.grid.adopted = false ∧ s.gb (.nir 3) F.NIR_STATUS_PEER_FAULT = false
    ∧ (m 7 0).lockState = 2 ∧ (m 7 0).isRoot = false ∧ (m 7 0).grid.adopted = true ∧ beacon.rootId = root (m 7 0)
    ∧ beacon.epoch = (m 7 0).g .grid F.GRID_STATUS_EPOCH ∧ beacon.voidStep = false ∧ (m 7 0).beaconPort = 3
    ∧ rootUp.lockState ≠ 0 ∧ rootUp.isRoot = true ∧ beacon.rootId ≠ root rootUp
    ∧ (m 8 0).lockState ≠ 0 ∧ (m 8 0).isRoot = false ∧ (m 8 0).grid.adopted = true ∧ (m 8 0).grid.joined = true
    ∧ beacon.rootId ≠ (m 8 0).grid.backupId ∧ beacon.rootId ≠ root (m 8 0)
    ∧ own.lockState ≠ 0 ∧ own.isRoot = true ∧ beacon.rootId = root own := by decide +kernel

theorem witness_SyncEdges :
    let s : List (Blk × Fld × Nat) → Grid → State := fun l g =>
      { grid 1 ([(.grid, F.GRID_CTRL_SYNC_EN, 1), (.grid, F.GRID_SYNC_PERIOD_PERIOD, 1000000)] ++ l) with grid := g }
    let period := nsT 1000000
    let since := fun (s : State) (n : Nat) => (n + 2 ^ 64 - s.grid.syncAt % 2 ^ 64) % 2 ^ 64
    let due := fun (s : State) (n : Nat) =>
      signed 64 ((n + 2 ^ 64 - (s.grid.syncAt + nearestMultiple (since s n) (nsT (s.g .grid F.GRID_SYNC_PERIOD_PERIOD))) % 2 ^ 64) % 2 ^ 64)
    let good := fun (s : State) (n : Nat) => decide (-(100 * 65536) ≤ due s n ∧ due s n ≤ 100 * 65536)
    let waits := s [(.grid, F.GRID_STATUS_SYNC_SEEN, 1)] { syncEdges := 4, waitSync := true }
    (∀ n ∈ [0, 1, 3, 4], (s [] { syncEdges := n }).syncOn = true ∧ (s [] { syncEdges := n }).isRoot = false
      ∧ (s [] { syncEdges := n }).grid.syncEdges = n ∧ (s [] { syncEdges := n }).grid.waitSync = false)
    ∧ since (s [] { syncEdges := 1 }) 5 ≠ 0
    ∧ (∀ n ∈ [999900 * 65536, 1000100 * 65536, 2000100 * 65536], good (s [] { syncEdges := 3 }) n = true)
    ∧ waits.syncOn = true ∧ waits.isRoot = false ∧ waits.grid.syncEdges = 4 ∧ waits.grid.waitSync = true
    ∧ waits.gb .grid F.GRID_STATUS_SYNC_SEEN = true ∧ good waits (1000000 * 65536) = true
    ∧ good (s [] { syncEdges := 3 }) (1000101 * 65536) = false ∧ since (s [] { syncEdges := 3 }) (1000101 * 65536) < 2 * period
    ∧ good (s [] { syncEdges := 3 }) (2000101 * 65536) = false ∧ 2 * period ≤ since (s [] { syncEdges := 3 }) (2000101 * 65536)
    ∧ (s [] { syncEdges := 4, syncMiss := 1 }).grid.syncEdges ≠ 0 ∧ (s [] { syncEdges := 4, syncMiss := 1 }).syncOn = true
    ∧ 1 ≤ (s [] { syncEdges := 4, syncMiss := 1 }).grid.syncMiss ∧ (s [] { syncEdges := 4 }).grid.syncMiss = 0
    ∧ (grid 0 []).syncOn = false := by decide +kernel

theorem witness_KnotsAndTicks :
    let s : State := { grid 2 [(.grid, F.GRID_STATUS_IS_ROOT, 1)] with grid := { next0 := 65536 } }
    2 ≤ s.lockState ∧ timeBefore s.grid.time s.grid.next0 = true ∧ s.isRoot = true ∧ s.grid.chg = none
    ∧ (grid 1 []).lockState < 2 ∧ (grid 1 []).pwrRuns = true ∧ ((grid 1 []).grid.time / nsT 50000 + 1) * nsT 50000 < 2 ^ 64 := by
  decide +kernel

theorem witness_SnagsTravel :
    let x : Snag := { cause := 1, target := 2, lateness := 9, sSeen := 0, rank := 3, stepEnd := 0 }
    let y : Snag := { x with cause := 7, stepEnd := 50 }
    let z : Snag := { x with cause := 8 }
    let m := put (portUp []) [(.grid, F.GRID_STATUS_LOCK_STATE, 2), (.grid, F.GRID_STATUS_BEACON_PORT, 3)]
    (∀ v ∈ [x, y, z], osRx (wire (encSnag v)) = .set 4 (encSnag v) ∧ decSnag (wire (encSnag v)) = some v
      ∧ (m.portU 3).lastOs ≠ encSnag v ∧ (rootUp.portU 3).lastOs ≠ encSnag v)
    ∧ m.portUp2 3 = true ∧ m.fatalSet = false ∧ m.isRoot = false ∧ m.beaconPort < 18 ∧ m.portUp2 m.beaconPort = true
    ∧ rootUp.portUp2 3 = true ∧ rootUp.fatalSet = false ∧ rootUp.isRoot = true
    ∧ 2 ≤ (x.target + 2 ^ 16 - rootUp.grid.knot % 2 ^ 16) % 2 ^ 16 ∧ (rootUp.stretch + 2 ^ 32 - x.sSeen) % 2 ^ 24 < x.lateness
    ∧ knotBefore rootUp.grid.knot y.stepEnd = true ∧ rootUp.grid.voidEnd = none ∧ 7 < z.cause := by decide +kernel

theorem witness_SnagsTravel_late :
    let p := passP 0 0
    let x : Projection := { die := 0, slot := 0, done := 2 ^ 40, receiver := false }
    let s : State := running p
    s.liveRun = some run0 ∧ s.img = some p ∧ (s.lateBy p run0 x).isSome = true ∧ s.grid.raised = [] ∧ live.liveRun = none := by decide +kernel

/-! ### Power, supply, start-up -/

/-- Not supplied; supplied and held in reset with the part given; in a stage of start-up. -/
def dark : State := { State.reset with supplied := false }
def heldPart (p : Part) : State := { State.reset with part := p }
def starting (stage : Nat) (l : List (Blk × Fld × Nat)) : State :=
  { put State.reset ((.sec, F.SEC_BOOT_STATUS_STAGE, stage) :: l) with perst := false }

/-- Powered at 3,400 W with 400 W of fixed power, at full point and duty but for the fields given. -/
def powered (l : List (Blk × Fld × Nat)) : State :=
  put live ([(.pwr, F.PWR_CAP_IN_FORCE, 3400), (.pwr, F.PWR_FIXED_W_FIXED, 400), (.pwr, F.PWR_STATUS_RATED_OP, 15),
    (.pwr, F.PWR_STATUS_RATED_DUTY, 16), (.pwr, F.PWR_THR_ACTIVE_POWER_DUTY, 16)] ++ l)

/-- A property of the state after a command. -/
def after (c : Instr) (s : State) (f : State → Bool) : Bool :=
  match exec c s with
  | .next t => f t
  | _ => false

theorem witness_PowerSampled :
    let hot : PowerReading := ⟨48000, 7500⟩
    let cool : PowerReading := ⟨48000, 2000⟩
    (powered []).pwrRuns = true ∧ (powered [(.pwr, F.PWR_STATUS_BRAKE, 1)]).pwrRuns = true
    ∧ (powered [(.pwr, F.PWR_STATUS_BRAKE, 1)]).gb .pwr F.PWR_STATUS_BRAKE = true ∧ (powered []).gb .pwr F.PWR_STATUS_BRAKE = false
    ∧ after (.powerSample hot) (powered []) (fun t => decide (t.powerTarget < 48000 * 7500 ∧ (powered []).fixedPower < t.powerTarget
        ∧ (powered []).fixedPower + 100000 < 48000 * 7500)) = true
    ∧ after (.powerSample cool) (powered []) (fun t => decide (48000 * 2000 ≤ t.powerTarget)) = true
    ∧ (powered []).ratedDuty ≤ (powered []).powerDuty := by decide +kernel

theorem witness_SlowLoopMoves :
    let s : PowerUnit → State := fun u => { powered [(.pwr, F.PWR_THR_ACTIVE_MEM_DUTY, 9), (.pwr, F.PWR_THR_ACTIVE_POWER_DUTY, 1)] with pwr := u }
    (s { below := 100, op := 1 }).pwrRuns = true ∧ 100 ≤ (s { below := 100, op := 1 }).pwr.below ∧ 0 < (s { below := 100, op := 1 }).pwr.op
    ∧ (let x := s { below := 99, equal := 1000, op := 14, samples := [1] }
       x.pwr.below < 100 ∧ 1000 ≤ x.pwr.equal ∧ x.pwr.op < x.ratedOp ∧ x.fitsAbove x.pwr.op = true)
    ∧ (let x := s { below := 99, equal := 999 }
       x.pwr.below < 100 ∧ x.pwr.equal < 1000)
    ∧ (let x := s { overAim := 100 }
       (∀ a : ArrayId, x.g (.arr a.val) F.ARR_STATUS_OP = 0) ∧ x.powerDuty = 1 ∧ 100 ≤ x.pwr.overAim
       ∧ 8 < x.g .pwr F.PWR_THR_ACTIVE_MEM_DUTY)
    ∧ (let x := s { overAim := 99, underAim := 100 }
       x.pwr.overAim < 100 ∧ 100 ≤ x.pwr.underAim ∧ x.g .pwr F.PWR_THR_ACTIVE_MEM_DUTY < 16) := by decide +kernel

/-- Arrays of Hoop 3 with their supply on. -/
def arraysOn : State := put live [(.pwr, F.PWR_DOMAINS_LO_ON, 2 ^ 21 + 2 ^ 22)]

theorem witness_DroopCurrentAndBrake :
    let up : State := { arraysOn with arrays := [(7, { opTarget := some 15, droop := 15 })] }
    15 < 16 ∧ (tget {} up.arrays 7).opTarget = some 15 ∧ arraysOn.arrayOn 6 = true ∧ arraysOn.arrayOn 7 = true
    ∧ (tget {} up.arrays 7).droop < 16 ∧ live.pwrRuns = true ∧ dark.pwrRuns = false := by decide +kernel

theorem witness_CoolingAndThermalLimits :
    let s : Nat → State := fun n => { powered [(.pwr, F.PWR_STATUS_CLS_RAW, 2)] with pwr := { clsReads := n } }
    let hot : State := { put live [(.pwr, ⟨0x34, 24, 8⟩, 120)] with pwr := { hot := [3], at120 := [(3, 1), (5, 1)] } }
    (s 15).pwrRuns = true ∧ (3 : BitVec 3).toNat ≠ (s 15).g .pwr F.PWR_STATUS_CLS_RAW ∧ (s 14).pwr.clsReads < 15
    ∧ (2 : BitVec 3).toNat = (s 15).g .pwr F.PWR_STATUS_CLS_RAW ∧ 15 ≤ (s 15).pwr.clsReads
    ∧ (2 : BitVec 3).toNat ≠ (s 15).g .pwr F.PWR_STATUS_CLASS
    ∧ hot.pwrRuns = true ∧ hot.g .pwr F.PWR_THERM_CFG_HOOP_THR_C ≤ (120 : BitVec 8).toNat
    ∧ (0 : BitVec 8).toNat + hot.g .pwr F.PWR_THERM_CFG_HYST_C < hot.g .pwr F.PWR_THERM_CFG_HOOP_THR_C
    ∧ hot.g .pwr F.PWR_THERM_CFG_HOOP_CRIT_C ≤ (120 : BitVec 8).toNat ∧ 1 ≤ tget 0 hot.pwr.at120 3 ∧ 1 ≤ tget 0 hot.pwr.at120 (4 + 1)
    ∧ 3 ∈ hot.pwr.hot ∧ hot.g .pwr F.PWR_THERM_CFG_HOOP_THR_C ≤ hot.g .pwr ⟨0x34, 8 * 3, 8⟩ ∧ 3 ∉ hot.pwr.crit := by decide +kernel

theorem witness_SupplyAndItsFaults : live.supplied = true ∧ dark.supplied = false ∧ live.pwrRuns = true
    ∧ (starting 1 []).pwrRuns = true ∧ State.reset.supplied = true ∧ State.reset.perst = true := by decide +kernel

/-- Parts as manufacture leaves them, and spoilt ones. Which extension a slot holds turns on Config.mldsaVerify, of which nothing can
be proved: the parts here hold none. -/
def need : Part := { extRequired := true }
def badOtp : Part := { otpDigest := 0 :: Config.otpCheck ({} : Part).otpValues }
def badKey : Part :=
  let p : Part := { keyDigest := List.replicate 33 0 }
  { p with otpDigest := Config.otpCheck p.otpValues }

theorem sealed_otpGood (p : Part) : p.sealed.otpGood = true := by simp [Part.sealed, Part.otpGood, Part.otpValues]
theorem sealed_keyGood (p : Part) : p.sealed.keyGood = true := by simp [Part.sealed, Part.keyGood, Part.seed]
theorem badOtp_otpGood : badOtp.otpGood = false := by
  change (Config.otpCheck ({} : Part).otpValues == 0 :: Config.otpCheck ({} : Part).otpValues) = false
  simp
theorem badKey_otpGood : badKey.otpGood = true := by simp [badKey, Part.otpGood, Part.otpValues]
theorem badKey_keyGood : badKey.keyGood = false := by
  have h : (shake256 (Config.mldsaPublic badKey.seed)).length ≤ 32 := by
    rw [shake256, shakeOut]
    exact List.length_take_le ..
  have k : badKey.keyDigest.length = 33 := by decide +kernel
  rw [Part.keyGood, beq_eq_false_iff_ne]
  intro e; rw [e, k] at h; omega

theorem witness_PerstRelease :
    (∀ p ∈ [{ romGood := false }, badOtp, badKey, ({} : Part).sealed, need.sealed],
      (heldPart p).supplied = true ∧ (heldPart p).perst = true ∧ ((heldPart p).test.token && !(heldPart p).part.debugDisable) = false)
    ∧ ({ romGood := false } : Part).romGood = false
    ∧ badOtp.romGood = true ∧ badOtp.otpGood = false ∧ badKey.romGood = true ∧ badKey.otpGood = true ∧ badKey.keyGood = false
    ∧ (∀ p : Part, p.sealed.romGood = p.romGood ∧ p.sealed.otpGood = true ∧ p.sealed.keyGood = true)
    ∧ need.sealed.romGood = true ∧ need.sealed.extRequired = true ∧ need.sealed.extChoose.2.2 = none
    ∧ ({} : Part).sealed.extRequired = false :=
  ⟨by intro p h; simp at h; rcases h with rfl | rfl | rfl | rfl | rfl <;> exact ⟨rfl, rfl, rfl⟩, rfl, rfl, badOtp_otpGood, rfl, badKey_otpGood, badKey_keyGood,
    fun p => ⟨rfl, sealed_otpGood p, sealed_keyGood p⟩, rfl, rfl, rfl, rfl⟩

theorem witness_StartUpStages :
    let zeroed := starting 7 ((List.range 24).map fun m => (.hbm m, F.HBM_STATUS_INIT_DONE, 1))
    (starting 5 []).booting 5 = true ∧ (starting 6 []).booting 6 = true ∧ (starting 7 []).booting 7 = true
    ∧ (∀ m : Stack, (starting 6 []).g (.hbm m.val) F.HBM_STATUS_INIT_DONE = 0 ∧ (starting 7 []).g (.hbm m.val) F.HBM_STATUS_INIT_DONE = 0)
    ∧ zeroed.booting 7 = true ∧ (∀ m : Stack, zeroed.g (.hbm m.val) F.HBM_STATUS_INIT_DONE = 1)
    ∧ 250 ≤ (250 : BitVec 12).toNat ∧ (700 : BitVec 12).toNat ≤ 700 ∧ (249 : BitVec 12).toNat < 250 ∧ 700 < (701 : BitVec 12).toNat
    ∧ (starting 4 []).booting 4 = true ∧ (5 : BitVec 8).toNat < 6 ∧ (23 : BitVec 8).toNat < 24 ∧ (63 : BitVec 8).toNat < 64 := by
  decide +kernel

theorem witness_ResetsOfTheFunction :
    let due : State := { put live [(.dev, F.DEV_STATUS_READY, 0)] with readyDue := true }
    live.supplied = true ∧ live.perst = false ∧ live.hostUp = true
    ∧ due.lockState < 2 ∧ due.pwrRuns = true ∧ due.readyDue = true := by decide +kernel

/-! ### Management, attestation and the test port -/

theorem witness_TestPortAndDebugUnlock : State.reset.supplied = true ∧ live.supplied = true
    ∧ State.reset.perst = true ∧ State.reset.part.debugDisable = false
    ∧ live.perst = false ∧ ({ State.reset with part := { debugDisable := true } } : State).part.debugDisable = true
    ∧ (put live [(.sec, F.SEC_DEBUG_STATE, 1)]).supplied = true ∧ (put live [(.sec, F.SEC_DEBUG_STATE, 1)]).perst = false
    ∧ (put live [(.sec, F.SEC_DEBUG_STATE, 1)]).g .sec F.SEC_DEBUG_STATE = 1 := by decide +kernel

/-- An endpoint without a dynamic address. -/
def noAddress : State := put live [(.mgt, F.MGT_STATUS_DA_VALID, 0)]

theorem witness_I3cTarget : live.mgt.live = true ∧ live.gb .mgt F.MGT_STATUS_DA_VALID = true ∧ bit (0x01 : BitVec 8).toNat 0 = true
    ∧ bit (0xFE : BitVec 8).toNat 0 = false ∧ noAddress.mgt.live = true ∧ noAddress.g .mgt F.MGT_STATUS_DA_VALID = 0
    ∧ noAddress.gb .mgt F.MGT_STATUS_DA_VALID = false ∧ State.reset.mgt.live = false
    ∧ 0 < (1 : BitVec 16).toNat ∧ (261 : BitVec 16).toNat ≤ 261 ∧ (0 : BitVec 16).toNat = 0 ∧ 261 < (262 : BitVec 16).toNat := by decide +kernel

theorem witness_MctpAndPldmBase : live.mctpIn true = true ∧ live.mctpIn false = true
    ∧ ((0 : BitVec 2).toNat < 2 ∧ (1 : BitVec 2).toNat < 2 ∧ 2 ≤ (2 : BitVec 2).toNat) ∧ ((0x01 : BitVec 8) ≠ 0x00 ∧ (0xFE : BitVec 8) ≠ 0xFF)
    ∧ (∀ ty ∈ [(0xFF : BitVec 8), 0x00, 0x01, 0x05, 0x7E], ty.toNat ∈ [0xFF, 0x00, 0x01, 0x05, 0x7E])
    ∧ ((1 : BitVec 8) ≠ 0 ∧ (1 : BitVec 8) ≠ 2 ∧ (3 : BitVec 8) ≠ 2) := by decide +kernel

theorem witness_PldmReadsAndSettings :
    let early := put live [(.dev, F.DEV_STATUS_READY, 0)]
    live.mctpIn true = true ∧ live.ready = true ∧ early.mctpIn true = true ∧ early.mctpIn false = true ∧ early.ready = false
    ∧ (1 ≤ (1 : BitVec 32).toNat ∧ (23 : BitVec 32).toNat ≤ 23 ∧ (0 : BitVec 32).toNat ≤ (Config.pdr 1).length ∧ 23 < (24 : BitVec 32).toNat)
    ∧ (1 ≤ (1 : BitVec 16).toNat ∧ (15 : BitVec 16).toNat ≤ 15) ∧ (16 ≤ (16 : BitVec 16).toNat ∧ (18 : BitVec 16).toNat ≤ 18)
    ∧ lateSensor 1 = false ∧ lateSensor 12 = true ∧ lateSensor 20 = true
    ∧ 600 ≤ (600 : BitVec 16).toNat ∧ (3400 : BitVec 16).toNat ≤ 3400
    ∧ (599 : BitVec 16).toNat < 600 ∧ 3400 < (3401 : BitVec 16).toNat ∧ (1 : BitVec 8) ≠ 0 ∧ (1 : BitVec 8) ≠ 2 ∧ (2 : BitVec 16) ≠ 1 :=
  ⟨by decide +kernel, by decide +kernel, by decide +kernel, by decide +kernel, by decide +kernel,
    ⟨by decide, by decide, Nat.zero_le _, by decide⟩, by decide, by decide, by decide +kernel, by decide +kernel, by decide +kernel,
    by decide, by decide, by decide, by decide, by decide, by decide, by decide⟩

theorem witness_SensorEventsPolled :
    let s : State := { live with sensorQ := [⟨1, 0, true, 1, 0⟩], mgt := { live.mgt with evtId := 1 } }
    s.mctpIn true = true ∧ s.sensorQ = ⟨1, 0, true, 1, 0⟩ :: [] ∧ ([] : List SensorEvent).length < 64
    ∧ live.sensorQ = [] ∧ live.mctpIn true = true
    ∧ (1 : BitVec 16).toNat = s.mgt.evtId ∧ (2 : BitVec 16).toNat ≠ s.mgt.evtId ∧ live.mgt.live = true := by decide +kernel

/-- A requester with endpoint 7 and a connection in the phase given. -/
def talking (phase : Nat) (l : List (Blk × Fld × Nat)) : State :=
  { put live l with mgt := { live.mgt with spdm := [{ eid := 7, phase := phase, nego := [] }] } }

theorem witness_SpdmOpensAndNegotiates : live.mctpIn true = true ∧ live.mgt.spdm.length < 2 ∧ ((talking 1 []).conn 7).isSome = true
    ∧ (let s : State := { live with mgt := { live.mgt with spdm := [{ eid := 7, phase := 1, nego := [] }, { eid := 8, phase := 1, nego := [] }] } }
       s.mctpIn true = true ∧ s.conn 9 = none ∧ s.mgt.spdm.length = 2)
    ∧ (∀ n ∈ [1, 2], (talking n []).mctpIn true = true ∧ 4 + ([] : List Byte).length ≤ 8192
        ∧ (talking n []).conn 7 = some { eid := 7, phase := n, nego := [] } ∧ 1 ≤ n ∧ (n = 1 → n < 2))
    ∧ 8192 < 4 + (List.replicate 8189 (0 : Byte)).length :=
  ⟨by decide +kernel, by decide +kernel, by decide +kernel, by decide +kernel, by decide +kernel, by rw [List.length_replicate]; decide⟩

theorem witness_SpdmCertificatesAndSignatures :
    let s := talking 3 [(.sec, F.SEC_ID_CERT_OK, 1), (.sec, F.SEC_ID_SIGN_EN, 1), (.sec, F.SEC_BOOT_STATUS_STAGE, 4)]
    let u := talking 3 [(.sec, F.SEC_ID_SIGN_EN, 1), (.sec, F.SEC_BOOT_STATUS_STAGE, 3)]
    let w := talking 3 [(.sec, F.SEC_BOOT_STATUS_STAGE, 4)]
    (∀ x ∈ [s, u, w], x.mctpIn true = true ∧ x.conn 7 = some { eid := 7, phase := 3, nego := [] })
    ∧ s.certOk = true ∧ s.signEn = true ∧ 3 < s.stage_ ∧ u.certOk = false ∧ u.signEn = true ∧ u.stage_ ≤ 3
    ∧ w.certOk = false ∧ w.signEn = false ∧ 3 < w.stage_
    ∧ (51 : BitVec 16).toNat < s.part.chain.length ∧ s.part.chain.length < 65536 ∧ (1 : BitVec 8) ≠ 0
    ∧ (∀ op ∈ [(0 : BitVec 8), 1, 6], op.toNat ≤ 6) := by decide +kernel

theorem witness_ExtensionSlotWritten :
    let at_ : Nat → State := fun n => { live with mgt := { live.mgt with ext := some ⟨true, n⟩ } }
    let own := put live [(.sec, F.SEC_BOOT_STATUS_EXT_STATE, 1), (.sec, F.SEC_BOOT_STATUS_EXT_SLOT, 1)]
    let early := put live [(.dev, F.DEV_STATUS_READY, 0)]
    let s := at_ 0x1FFC00
    live.mctpIn true = true ∧ live.ready = true ∧ (1 : BitVec 8).toNat ≤ 1 ∧ 1 < (2 : BitVec 8).toNat ∧ live.mgt.ext = none
    ∧ ¬(live.g .sec F.SEC_BOOT_STATUS_EXT_STATE = 1 ∧ live.g .sec F.SEC_BOOT_STATUS_EXT_SLOT = 1)
    ∧ early.mctpIn true = true ∧ early.ready = false ∧ s.mgt.ext.isSome = true
    ∧ own.mctpIn true = true ∧ own.g .sec F.SEC_BOOT_STATUS_EXT_STATE = 1 ∧ own.g .sec F.SEC_BOOT_STATUS_EXT_SLOT = 1
    ∧ s.mctpIn true = true ∧ s.mgt.ext = some ⟨true, 0x1FFC00⟩ ∧ (0x1FFC00 : BitVec 32).toNat = 0x1FFC00
    ∧ (List.replicate 1024 (0 : Byte)).length ≤ 1024 ∧ 0x1FFC00 + (List.replicate 1024 (0 : Byte)).length ≤ 0x200000
    ∧ (0 : BitVec 32).toNat ≠ 0x1FFC00 ∧ 1024 < (List.replicate 1025 (0 : Byte)).length
    ∧ (at_ 0x1FFC01).mgt.ext = some ⟨true, 0x1FFC01⟩ ∧ 0x200000 < 0x1FFC01 + (List.replicate 1024 (0 : Byte)).length
    ∧ s.part.extReject (s.extSlot true) ≠ 0 := by decide +kernel

/-! ### Interrupts and counters -/

theorem witness_InterruptStates :
    let hi := put live [(.irq 0, F.IRQ_LINE_LINE 0, 2 ^ 5)]
    let edge := put hi [(.irq 0, F.IRQ_SRC_CFG_MODE 5, 1)]
    let pend := put live [(.irq 0, F.IRQ_PEND_PEND 7, 2 ^ 31), (.irq 0, F.IRQ_SRC_CFG_TARGET 255, 1)]
    let held : State := { put live [(.irq 0, F.IRQ_ACTIVE_ACTIVE 7, 2 ^ 31), (.irq 0, F.IRQ_LINE_LINE 7, 2 ^ 31)] with irqHeld := [(255, 1)] }
    let up : State := { put live [(.irq 0, F.IRQ_SRC_CFG_ENABLE 5, 1), (.irq 0, F.IRQ_SRC_CFG_TARGET 5, 1), (.irq 0, F.IRQ_STATUS_ASLEEP, 1)] with lines := [5] }
    up.pwrRuns = true ∧ up.irqLine 0 5 = false ∧ up.irqDriven 0 5 = true ∧ up.irqActive 0 5 = false ∧ up.irqEnabled 0 5 = true
    ∧ up.irqTargets 0 5 0 = true ∧ bit (up.g (.irq 0) F.IRQ_STATUS_ASLEEP) 0 = true ∧ live.irqDriven 0 5 = false
    ∧ hi.pwrRuns = true ∧ hi.irqLine 0 5 = true ∧ hi.irqEdge 0 5 = false ∧ edge.irqLine 0 5 = true ∧ edge.irqEdge 0 5 = true
    ∧ pend.pwrRuns = true ∧ pend.irqPending 0 255 = true ∧ pend.irqTargets 0 255 0 = true ∧ pend.irqActive 0 255 = false
    ∧ live.irqPending 0 255 = false ∧ live.irqActive 0 255 = false ∧ tget 0 held.irqHeld (0 * 256 + 255) ≠ 1 + 1
    ∧ held.pwrRuns = true ∧ held.irqActive 0 255 = true ∧ tget 0 held.irqHeld (0 * 256 + 255) = 0 + 1
    ∧ held.irqEdge 0 255 = false ∧ held.irqLine 0 255 = true := by decide +kernel

theorem witness_CountersAndSamples :
    let s := put live [(.pmu 5, setFld 5 F.PMU_WIN_CFG_UNIT, 1), (.pmu 5, setFld 5 F.PMU_WIN_NS_NS, 1000), (.pmu 5, setFld 5 (F.PMU_EVT_WIN 7), 1)]
    let b := put live [(.pmu 0, F.PMU_SMP_HEAD_HEAD, 4095), (.pmu 0, F.PMU_SMP_TAIL_TAIL, 10)]
    (16 < setsOf 3 ∧ 5 < setsOf 5) ∧ s.g (.pmu 5) (setFld 5 F.PMU_WIN_CFG_UNIT) = 1 ∧ s.g (.pmu 5) (setFld 5 F.PMU_WIN_NS_NS) ≠ 0
    ∧ (s.advanceTo (tget 0 s.winEnd (32 * 5 + 5))).winOn 5 5 = true
    ∧ (s.advanceTo (tget 0 s.winEnd (32 * 5 + 5))).gb (.pmu 5) (setFld 5 (F.PMU_EVT_WIN 7)) = true
    ∧ live.g (.pmu 5) (setFld 5 F.PMU_WIN_CFG_UNIT) = 0
    ∧ live.hostUp = true ∧ live.ready = true ∧ live.fatalSet = false ∧ b.hostUp = true ∧ b.ready = true ∧ b.fatalSet = false
    ∧ ((4095 : BitVec 12).toNat + 4096 - b.g (.pmu 0) F.PMU_SMP_TAIL_TAIL) % 4096
        ≤ (b.g (.pmu 0) F.PMU_SMP_HEAD_HEAD + 4096 - b.g (.pmu 0) F.PMU_SMP_TAIL_TAIL) % 4096
    ∧ (b.g (.pmu 0) F.PMU_SMP_HEAD_HEAD + 4096 - b.g (.pmu 0) F.PMU_SMP_TAIL_TAIL) % 4096
        < ((0 : BitVec 12).toNat + 4096 - b.g (.pmu 0) F.PMU_SMP_TAIL_TAIL) % 4096 := by decide +kernel

/-! ### Worked examples of the spec, and single commands with the result a rule gives -/

/-- R62: the HBM_ window of stack M14 lies at 0x188_0000, GRID_STATUS at 0x001_0000. -/
theorem test_windows : (Blk.hbm 14).base = 0x1880000 ∧ Blk.grid.base + F.GRID_STATUS_LOCK_STATE.off = 0x10000 := by decide +kernel

/-- R153, the known answer of the generator: counter and key 0; R152's example rounds 1 + 2^−8 down and up with its first words. -/
theorem test_philox : (philox 0 0 0 0 0 0).1 = 0x6627E8D5 ∧ (philox 0 0 0 0 0 0).2.1 = 0xE169C58D
    ∧ srWord 0 0 0 0 = 0x6627E8D5 ∧ srWord 0 0 0 1 = 0xE169C58D
    ∧ froundSR fmtBF16 0x6627E8D5 false 257 (-8) = 0x3F80 ∧ froundSR fmtBF16 0xE169C58D false 257 (-8) = 0x3F81 := by decide +kernel

/-- The example to R139 and R144: 448 × 448 − 448 × 448 + 2^−18 is exact, 0x3680_0000. -/
theorem test_exactProducts : finalFloat false true fmtFP32 (.fin false 1 0)
    (drainVal false true false 0 1 1 {} [0x7E, 0xFE, 0x01] [0x7E, 0x7E, 0x01] [] []) = 0x36800000 := by decide +kernel

/-- The FP4 example to R140: 136 − 2^−46 rounds to 136.0. -/
theorem test_fp4Blocks : finalFloat false true fmtFP32 (.fin false 1 0) (accBlock (accBlock {} 17 0x7E 0x85) (-9) 0x4F 0x7F)
    = 0x43080000 := by decide +kernel

/-- The example to R172: MUL 3, SHIFT 10, ZP −3, eight bits, both rounding rules; the last one clamps. -/
theorem test_rescale : rescale 42496 ⟨3, 10 + 0xFFFD0000⟩ 2 = (122, false) ∧ rescale 42496 ⟨3, 10 + 64 + 0xFFFD0000⟩ 2 = (121, false)
    ∧ rescale (-42496) ⟨3, 10 + 0xFFFD0000⟩ 2 = (-128, false) ∧ rescale (-42496) ⟨3, 10 + 64 + 0xFFFD0000⟩ 2 = (-127, false)
    ∧ rescale 2000000 ⟨3, 10 + 0xFFFD0000⟩ 2 = (127, true) := by decide +kernel

/-- The example to R163 and R158: 0.0731 fits 12, 0.1875 fits 11; with margin 1, D is 116 and 117, and 0.05 × 2^11 is 104. -/
theorem test_scaleExponent : fittedOf 0x3D95B574 1 = 12 ∧ fittedOf 0x3E400000 1 = 11 ∧ scaleCode (12 - 1) = 116 ∧ scaleCode (11 - 1) = 117
    ∧ (cvtElem false 1 none 11 0x3D4CCCCD).code = 0x6D ∧ (cvtElem false 1 none 11 0x3E400000).code = 0x7C
    ∧ (cvtElem false 1 none 12 0x3E400000).code = 0x7E := by decide +kernel

/-- The example to R308: 1 − 192 × 2^−18 rounds up from 0x3000_0000 on. -/
theorem test_weightRounding : updWeight 0x30000000 0x3F800000 0x3F400000 10 = 0x3F80 ∧ updWeight 0x2FFFFFFF 0x3F800000 0x3F400000 10 = 0x3F7F
    ∧ updWeight 0x06400000 0x3F800000 0x3DC80000 10 = 0x3F80 ∧ updWeight 0x063FFFFF 0x3F800000 0x3DC80000 10 = 0x3F7F := by decide +kernel

/-- The example to R88: knot 3 at 12,000 ns in the four classes, and its deadline at 13,600 ns in the last two; the rated paces. -/
theorem test_paceClasses :
    let gs : List Segment := [⟨5, true, 2⟩, ⟨3, false, 3⟩, ⟨10, false, 5⟩]
    (List.range 4).map (fun c => mapPos (paceClass c) 50000 false gs 0 0 162000) = [(3, 12000), (3, 21530), (7, 14500), (62, 10400)]
    ∧ (List.range 4).map (fun c => mapPos (paceClass c) 50000 true gs 0 0 163600) = [(3, 13600), (3, 23224), (7, 18100), (62, 41120)]
    ∧ (List.range 4).map (fun c => ratedPace (paceClass c) gs) = [18, 19, 25, 109] := by decide +kernel

/-- The example to R361: 2,400 W in force, 497 W fixed, 3,190 W measured: duty 11. -/
theorem test_powerDuty : after (.powerSample ⟨48000, 6646⟩) (put (powered []) [(.pwr, F.PWR_CAP_IN_FORCE, 2400), (.pwr, F.PWR_FIXED_W_FIXED, 497)])
    (fun t => t.powerDuty == 11) = true := by decide +kernel

/-- CRC-32 of "123456789" (R264 names IEEE 802.3), and a beacon that comes back from its bytes. -/
theorem test_wire : crc32 (ascii "123456789") = 0xCBF43926 ∧ decBeacon (wire (encBeacon beacon)) = some beacon
    ∧ decBeacon (wire (encBeacon beacon) + 1) = none := by decide +kernel

/-- R67: a local tick lies at a multiple of 50,000 ns. R412: HIGHZ floats the pins only while PERST# is asserted. -/
theorem test_localTick : after .localTick live (fun t => t.grid.time == 50000 * 65536 && t.grid.ticks == 1) = true := by decide +kernel
theorem test_highz : after .highz State.reset (fun t => t.test.floating) = true ∧ after .highz live (fun t => !t.test.floating) = true := by
  decide +kernel

/-- R378, R379: held in reset the power controller does not run, and an undervoltage shows on FAULT# only. -/
theorem test_supplyUv : exec (.supplyUv 39000) State.reset = .next { State.reset with pinFault := true } := rfl

/-- R326, R328: a cap of 599 W ends with RANGE at once, one of 600 W waits for the knot. -/
theorem test_powerCap : after (.setPowerCap 0 (sqe 0 [(8, 599)])) job (fun t => t.cmds.isEmpty && t.g .hst F.HST_CMDS_COUNT == 1) = true
    ∧ after (.setPowerCap 0 (sqe 0 [(8, 600)])) job (fun t => t.cmds.length == 1 && t.g .hst F.HST_CMDS_COUNT == 0) = true := by decide +kernel

/-- R64, R426: a narrow write is recorded and changes nothing; R63: an undefined offset reads 0. -/
theorem test_narrowWrite : after (.registerWrite false 0x10008 .b2 7) experts (fun t => t.rd 0x10008 == 50000 && t.shadow 0x10008 == 50000) = true
    ∧ after (.registerReadLatch 0x18000 4) live (fun t => t.out == [.readData 0x18000 0]) = true := by decide +kernel

/-- R408, R409: GET_TID answers completion code 0 and the terminus ID. -/
theorem test_getTid : after (.getTid false) live (fun t => t.out == [.mctp false [0x01, 0x00, 0x02, 0x00, 0x00]]) = true := by decide +kernel

/-- R120, R125: a chained pass whose feed is not there waits, and shows no error. -/
theorem test_chainWaits : after (.vector0Entry 0 false) (passing 1 0 { passes := [{ pass0 with chain := true }], buf1 := some tile0 } [])
    (fun t => (t.arrU 0).passes == [{ pass0 with chain := true }] && t.g (.arr 0) F.ARR_ERR_CODE == 0) = true := by decide +kernel

/-- R212: the transfer's last beat leaves the row of 64 bytes at its destination. -/
theorem test_copyRow : after (.transferComplete 0 0 ⟨.stream 0, 1⟩) { copying (copyArm .live) with mem := [⟨0x400003, 9⟩] }
    (fun t => t.readByte 0x400043 == 9 && t.readByte 0x400003 == 9 && t.readByte 0x400044 == 0) = true := by decide +kernel

/-- R184: output row 1 of the store is tile column 1, elements 0 and 1; it is written at the end of the slot. -/
theorem test_xpbStore :
    let s : State := { put (running (onDie 0 xpbStoreDesc [slotE 3 3 0])) [(.xpb 0, xpbHalfFld 0 false, 2), (.xpb 0, xpbHalfFld 0 true, 2)] with
      xpbs := [(0, { h0 := { rows := [[1, 2, 3, 4], [5, 6, 7, 8]] }, h1 := { rows := [[1, 2, 3, 4], [5, 6, 7, 8]] } })] }
    after (.slotDispatch 0) s (fun t => t.mem == [] && after (.unitSlotComplete 0 ⟨0x03, none⟩) t fun t => t.readMem (sramBase 0 + 32) 2 == [2, 6])
      = true := by decide +kernel

/-- R366: a first reading of 120 °C holds the Hoop at both levels, its duty 1, and is not fatal. -/
theorem test_hotHoop : after (.hoopTempRead #v[0, 0, 0, 120]) live (fun t => !t.fatalSet && t.pwr.hot == [3] && t.pwr.crit == [3]
    && tget 16 t.pwr.thermDuty 3 == 1) = true := by decide +kernel

/-- The queue: a step runs the front command and leaves the rest (R321); the table gives no row bits, so no word spells a command. -/
theorem test_queue : (match step { State.reset with pending := [.highz, .bypass] } with
    | .next t => t.pending == [.bypass] && t.test.floating
    | _ => false) = true := by decide +kernel
theorem test_noWords : decodeTableWord 32 0 = none ∧ State.reset.withFetchWord 32 0 = State.reset := by exact ⟨rfl, rfl⟩

end Sys2Proof.Tests
end

section
/-! PROOFS. What a register field reads after the writes, events and messages of Ops.lean: the rules that the proofs of the
statements share. -/

namespace Sys2Proof.Machine

/-- A command answers the state that its meaning comes to. -/
theorem next_eq {s t : State} (h : s = t) : (Host.Outcome.next s : Host.Outcome State Fault Refusal) = .next t :=
  congrArg _ h

/-! ### Fields -/

/-- A field reads the registers and nothing else. -/
theorem g_of_regs {s t : State} (h : t.regs = s.regs) (b : Blk) (f : Fld) : t.g b f = s.g b f := by
  simp only [State.g, State.rd, h]

/-- A field reads one register. -/
theorem g_of_rd {s t : State} {b : Blk} {f : Fld} (h : t.rd (b.base + f.off) = s.rd (b.base + f.off)) : t.g b f = s.g b f := by
  simp only [State.g, h]

theorem gb_of_rd {s t : State} {b : Blk} {f : Fld} (h : t.rd (b.base + f.off) = s.rd (b.base + f.off)) : t.gb b f = s.gb b f := by
  simp only [State.gb, g_of_rd h]

/-- A field write changes the register file by what the registers hold. -/
theorem p_regs (s : State) (b : Blk) (f : Fld) (v : Nat) : (s.p b f v).regs
    = tput (regReset (b.base + f.off)) s.regs (b.base + f.off) (fldPut f (tget (regReset (b.base + f.off)) s.regs (b.base + f.off)) v) :=
  rfl

/-- Sending changes no register. -/
@[simp] theorem emit_regs (s : State) (o : Out) : (s.emit o).regs = s.regs := by
  unfold State.emit
  dsimp only
  rw [apply_ite State.regs, ite_self]

theorem leBytes_length (n v : Nat) : (leBytes n v).length = n := by
  induction n generalizing v with
  | zero => rfl
  | succ n ih => simp [leBytes, ih]

end Sys2Proof.Machine
end

section
/-! PROOFS. The I3C target (R407): when it takes a command, and what each command leaves. -/

namespace Sys2Proof.Machine

/-- A target that answers takes a broadcast, and a direct command under its address. -/
theorem ccc_taken {s : State} {direct : Bool} (f : State → State) (hl : s.mgt.live = true)
    (hd : direct = true → s.gb .mgt F.MGT_STATUS_DA_VALID = true) : s.ccc direct f = f s := by
  unfold State.ccc
  cases direct
  · simp [hl]
  · simp [hl, hd rfl]

theorem ccc_broadcast {s : State} (f : State → State) (hl : s.mgt.live = true) : s.ccc false f = f s := ccc_taken f hl nofun

/-- A target without an address takes no direct command, and one that does not answer takes nothing. -/
theorem ccc_ignored {s : State} (f : State → State) (h : s.mgt.live = false ∨ s.gb .mgt F.MGT_STATUS_DA_VALID = false) :
    s.ccc true f = s := by
  unfold State.ccc
  rcases h with h | h <;> simp [h]

/-- Nothing changes where the target does not answer, or where the command would change nothing. -/
theorem ccc_same {s : State} {direct : Bool} {f : State → State} (h : s.mgt.live = false ∨ f s = s) : s.ccc direct f = s := by
  unfold State.ccc
  rcases h with h | h
  · simp [h]
  · rw [h, ite_self]

theorem i3cRead_answers {s : State} (bytes : List Byte) (hl : s.mgt.live = true)
    (hd : s.gb .mgt F.MGT_STATUS_DA_VALID = true) : s.i3cRead bytes = { s with out := .i3c bytes :: s.out } :=
  ccc_taken _ hl fun _ => hd

/-! ### The dynamic address and the in-band interrupts -/

theorem g_setDa (s : State) (valid : Bool) (a : BitVec 7) : (s.setDa valid a.toNat).g .mgt F.MGT_STATUS_DA = a.toNat := by
  unfold State.setDa State.pb
  rw [g_p_ne _ _ _ _ _ (by decide), g_p_self _ _ _ _ (by decide)]
  exact Nat.mod_eq_of_lt a.isLt

theorem g_setDa_valid (s : State) (valid : Bool) (a : Nat) :
    (s.setDa valid a).g .mgt F.MGT_STATUS_DA_VALID = if valid then 1 else 0 := by
  unfold State.setDa State.pb
  rw [g_p_self _ _ _ _ (by decide)]
  cases valid <;> rfl

theorem g_setDa_ibi (s : State) (valid : Bool) (a : Nat) :
    (s.setDa valid a).g .mgt F.MGT_STATUS_IBI_EN = s.g .mgt F.MGT_STATUS_IBI_EN := by
  unfold State.setDa State.pb
  rw [g_p_ne _ _ _ _ _ (by decide), g_p_ne _ _ _ _ _ (by decide)]

theorem regs_setDa (s : State) (valid : Bool) (a : Nat) :
    OnlyRegs (regsOf [(.mgt, F.MGT_STATUS_DA)]) s (s.setDa valid a) :=
  regs_pb (regs_p (regs_refl _ s) _ _ _ (by decide)) _ _ _ (by decide)

/-- The enable bit of the in-band interrupts reads what was written, beside the address. -/
theorem ibiEn_written (s : State) (v : Nat) (hv : v < 2) :
    (s.p .mgt F.MGT_STATUS_IBI_EN v).g .mgt F.MGT_STATUS_IBI_EN = v
      ∧ (s.p .mgt F.MGT_STATUS_IBI_EN v).g .mgt F.MGT_STATUS_DA = s.g .mgt F.MGT_STATUS_DA
      ∧ OnlyRegs (regsOf [(.mgt, F.MGT_STATUS_IBI_EN)]) s (s.p .mgt F.MGT_STATUS_IBI_EN v) :=
  ⟨(g_p_self _ _ _ _ (by decide)).trans (Nat.mod_eq_of_lt hv), g_p_ne _ _ _ _ _ (by decide),
    regs_p (regs_refl _ s) _ _ _ (by decide)⟩

/-! ### Command by command -/

theorem exec_enec_taken {s : State} {direct : Bool} {ev : BitVec 8} (hl : s.mgt.live = true)
    (hd : direct = true → s.gb .mgt F.MGT_STATUS_DA_VALID = true) (hb : bit ev.toNat 0 = true) :
    exec (.enec direct ev) s = .next (s.p .mgt F.MGT_STATUS_IBI_EN 1) :=
  next_eq ((ccc_taken _ hl hd).trans (if_pos hb))

theorem exec_disec_taken {s : State} {direct : Bool} {ev : BitVec 8} (hl : s.mgt.live = true)
    (hd : direct = true → s.gb .mgt F.MGT_STATUS_DA_VALID = true) (hb : bit ev.toNat 0 = true) :
    exec (.disec direct ev) s = .next (s.p .mgt F.MGT_STATUS_IBI_EN 0) :=
  next_eq ((ccc_taken _ hl hd).trans (if_pos hb))

theorem lengthOk_iff (n : BitVec 16) : lengthOk n = true ↔ 0 < n.toNat ∧ n.toNat ≤ 261 := by
  simp [lengthOk]

/-- Without an address, or before the target answers, a direct command changes nothing. -/
theorem exec_direct_ignored {s : State} (a : BitVec 7) (ev : BitVec 8)
    (h : s.mgt.live = false ∨ s.gb .mgt F.MGT_STATUS_DA_VALID = false) :
    ∀ c ∈ [Instr.enec true ev, .disec true ev, .setnewda a, .getmwl, .getmrl, .getpid, .getbcr, .getdcr, .getstatus],
      exec c s = .next s := by
  have ignored (f : State → State) := next_eq (ccc_ignored f h)
  simp only [List.mem_cons, List.not_mem_nil, or_false]
  rintro c (rfl | rfl | rfl | rfl | rfl | rfl | rfl | rfl | rfl) <;> exact ignored _

/-- A target with an address takes no command that gives it its first one. -/
theorem exec_assign_ignored {s : State} (a : BitVec 7) (h : s.mgt.live = false ∨ s.gb .mgt F.MGT_STATUS_DA_VALID = true) :
    exec (.setdasa a) s = .next s ∧ exec (.entdaa a) s = .next s :=
  ⟨next_eq (ccc_same (h.imp_right fun h => if_pos h)), next_eq (ccc_same (h.imp_right fun h => if_pos h))⟩

/-- A target without an address takes the one that it is given, and ENTDAA answers its identity first. -/
theorem exec_assign_taken {s : State} (a : BitVec 7) (hl : s.mgt.live = true) (h : s.g .mgt F.MGT_STATUS_DA_VALID = 0) :
    exec (.setdasa a) s = .next (s.setDa true a.toNat)
      ∧ exec (.entdaa a) s
        = .next ({ s with out := .i3c (beBytes 6 s.pid ++ [0x06, Config.mctpDcr]) :: s.out }.setDa true a.toNat) := by
  have hv : ¬s.gb .mgt F.MGT_STATUS_DA_VALID = true := by simp [State.gb, h]
  exact ⟨next_eq ((ccc_broadcast _ hl).trans (if_neg hv)), next_eq ((ccc_broadcast _ hl).trans (if_neg hv))⟩

/-- A length of 0 or above 261 is not taken. -/
theorem exec_length_ignored {s : State} (n : BitVec 16) (k : BitVec 8) (h : s.mgt.live = false ∨ n.toNat = 0 ∨ 261 < n.toNat) :
    exec (.setmwl n) s = .next s ∧ exec (.setmrl n k) s = .next s := by
  have hn : s.mgt.live = false ∨ ¬lengthOk n = true := h.imp_right fun h => by
    rw [lengthOk_iff]
    omega
  exact ⟨next_eq (ccc_same (hn.imp_right fun h => if_neg h)), next_eq (ccc_same (hn.imp_right fun h => if_neg h))⟩

/-- ENEC and DISEC without bit 0 change nothing. -/
theorem exec_events_ignored {s : State} (ev : BitVec 8) (h : s.mgt.live = false ∨ bit ev.toNat 0 = false) :
    exec (.enec false ev) s = .next s ∧ exec (.disec false ev) s = .next s := by
  have hb : s.mgt.live = false ∨ ¬bit ev.toNat 0 = true := h.imp_right Bool.eq_false_iff.1
  exact ⟨next_eq (ccc_same (hb.imp_right fun h => if_neg h)), next_eq (ccc_same (hb.imp_right fun h => if_neg h))⟩

/-- Settles O52: the target's commands one by one, taken or ignored as `State.ccc` says. -/
theorem i3cTarget : Obligations.I3cTarget := by
  refine ⟨fun s hl => ⟨fun direct ev hd hb => ?_, ?_, fun a h0 => ?_, fun a h1 => ?_, fun n h0 h1 => ?_, fun a => ?_⟩,
    fun s hl hd => ?_, fun s => ⟨fun a ev h => exec_direct_ignored a ev h, fun a h => exec_assign_ignored a h,
      fun n k h => exec_length_ignored n k h, fun ev h => exec_events_ignored ev h, fun h =>
      ⟨next_eq (ccc_same (.inl h)), fun a => next_eq (ccc_same (.inl h))⟩⟩⟩
  · exact ⟨⟨_, exec_enec_taken hl hd hb, ibiEn_written s 1 (by decide)⟩,
      ⟨_, exec_disec_taken hl hd hb, ibiEn_written s 0 (by decide)⟩⟩
  · exact ⟨_, next_eq (ccc_broadcast _ hl), g_setDa s false 0, g_setDa_valid s false 0, g_setDa_ibi s false 0, regs_setDa s false 0⟩
  · obtain ⟨hset, hent⟩ := exec_assign_taken a hl h0
    exact ⟨⟨_, hset, g_setDa s true a, g_setDa_valid s true a.toNat, regs_setDa s true a.toNat⟩,
      _, hent, g_setDa _ true a, g_setDa_valid _ true a.toNat, rfl, regs_setDa { s with out := _ } true a.toNat⟩
  · exact ⟨_, next_eq (ccc_taken _ hl fun _ => h1), g_setDa s true a, g_setDa_valid s true a.toNat, regs_setDa s true a.toNat⟩
  · have hn := (lengthOk_iff n).2 ⟨h0, h1⟩
    exact ⟨⟨_, next_eq ((ccc_broadcast _ hl).trans (if_pos hn)), rfl⟩,
      fun k => ⟨_, next_eq ((ccc_broadcast _ hl).trans (if_pos hn)), rfl⟩⟩
  · exact ⟨_, next_eq (ccc_broadcast _ hl), rfl⟩
  · have answers (bytes : List Byte) := next_eq (i3cRead_answers bytes hl hd)
    exact ⟨⟨_, answers _, rfl⟩, ⟨_, answers _, rfl⟩, ⟨_, answers _, rfl⟩, ⟨_, answers _, rfl⟩, ⟨_, answers _, rfl⟩,
      _, s.freeBytes 2, next_eq (ccc_taken _ hl fun _ => hd), leBytes_length _ _, rfl⟩

end Sys2Proof.Machine
end

section
/-! PROOFS. Which host writes the device takes (R64, R329, R393, R421), and what a write does to a register that takes it by its
access type (R65). -/

namespace Sys2Proof.Machine

/-! ### The gate: one lemma per outcome of State.hostWrite -/

/-- In service, a write that the control level allows has its effect. -/
theorem hostWrite_taken {s : State} {a : Nat} (f : State → State) (hu : s.hostUp = true) (hx : regExists a = true)
    (hr : s.ready = true) (hf : s.fatalSet = false) (hl : s.expert = true ∨ basicWritable a = true) : s.hostWrite a f = f s := by
  unfold State.hostWrite
  rcases hl with hl | hl <;> simp [hu, hx, hr, hf, hl]

/-- In service, a write that the basic level may not make is recorded (R329). -/
theorem hostWrite_level {s : State} {a : Nat} (f : State → State) (hu : s.hostUp = true) (hx : regExists a = true)
    (hr : s.ready = true) (hf : s.fatalSet = false) (he : s.expert = false) (hb : basicWritable a = false) :
    s.hostWrite a f = s.writeIgnored 2 a := by
  simp [State.hostWrite, hu, hx, hr, hf, he, hb]

/-- In the fail-safe state the event tail and the MSI-X table take writes (R421). -/
theorem hostWrite_failSafe_taken {s : State} {a : Nat} (f : State → State) (hu : s.hostUp = true) (hx : regExists a = true)
    (hf : s.fatalSet = true) (ha : a = Blk.dev.base + F.DEV_EVT_TAIL_TAIL.off ∨ inMsixTable a = true) : s.hostWrite a f = f s := by
  unfold State.hostWrite
  simp only [hu, hx, hf, Bool.not_true, Bool.or_self, Bool.false_eq_true, if_false, if_true]
  exact if_pos (by simpa using ha)

/-- In the fail-safe state nothing else takes one (R421). -/
theorem hostWrite_failSafe_ignored {s : State} {a : Nat} (f : State → State) (hf : s.fatalSet = true)
    (ha : a ≠ Blk.dev.base + F.DEV_EVT_TAIL_TAIL.off) (hm : inMsixTable a = false) : s.hostWrite a f = s := by
  simp [State.hostWrite, hf, ha, hm]

/-- WRITE_IGNORED is an event that names the target, and nothing but that report (R426). -/
theorem writeIgnored_recorded (s : State) (code : Nat) {a : Nat} (ha : a < 2 ^ 26) :
    Logged s ⟨3, 0, ((blkAt a).getD .dev).die, ((blkAt a).getD .dev).index, 0, code, a⟩ (s.writeIgnored code a)
      ∧ OnlyReports (fun _ => false) s (s.writeIgnored code a) := by
  have h := logged_event s ⟨3, 0, ((blkAt a).getD .dev).die, ((blkAt a).getD .dev).index, 0, code, a % 2 ^ 26⟩
  rw [Nat.mod_eq_of_lt ha] at h
  refine ⟨?_, reports_event (reports_refl _ s) _⟩
  unfold State.writeIgnored
  rwa [Nat.mod_eq_of_lt ha]

/-! ### A register that takes a write by its access type (R65) -/

/-- A word after a write of the bits of a mask. -/
def maskWrite (m old new : Word) : Word := (old &&& ~~~m) ||| (new &&& m)

theorem maskWrite_zero (old new : Word) : maskWrite 0 old new = old := by
  show (old &&& ~~~0#32) ||| (new &&& 0#32) = old
  rw [BitVec.and_zero, BitVec.or_zero, BitVec.not_zero, BitVec.and_allOnes]

/-- Such a write puts the RW bits in force at once, in this register alone. -/
theorem rd_regWriteBits (s : State) (a : Nat) (v : Word) (b : Nat) :
    (s.regWriteBits a v).rd b = if b = a then maskWrite (BitVec.ofNat 32 (rwMask a)) (s.rd a) v else s.rd b := by
  have written : ∀ m : Word, (if m = 0 then s else s.wr a (maskWrite m (s.rd a) v)).rd b
      = if b = a then maskWrite m (s.rd a) v else s.rd b := by
    intro m
    by_cases hm : m = 0
    · subst hm
      rw [if_pos rfl, maskWrite_zero]
      split <;> simp [*]
    · rw [if_neg hm]
      by_cases hb : b = a
      · rw [hb, rd_wr_self, if_pos rfl]
      · rw [rd_wr_ne _ _ _ _ hb, if_neg hb]
  unfold State.regWriteBits
  dsimp only
  split
  · exact written _
  · exact written _

/-- It puts the RWK bits into the shadow, in this register alone. -/
theorem shadow_regWriteBits (s : State) (a : Nat) (v : Word) (b : Nat) :
    (s.regWriteBits a v).shadow b = if b = a then maskWrite (BitVec.ofNat 32 (rwkMask a)) (s.shadow a) v else s.shadow b := by
  have kept : ∀ (m w : Word), (if m = 0 then s else s.wr a w).shadows = s.shadows := by
    intro m w
    rw [apply_ite State.shadows]
    exact ite_self _
  unfold State.regWriteBits State.shadow
  dsimp only
  split
  · next hm =>
    rw [kept, hm, maskWrite_zero]
    split <;> simp [*]
  · dsimp only
    rw [kept]
    by_cases hb : b = a
    · rw [hb, tget_tput, if_pos rfl, if_pos rfl]
      rfl
    · rw [tget_tput_ne _ _ _ _ _ _ hb, if_neg hb]

/-- It changes nothing but registers in force and shadows. -/
theorem regWriteBits_frame (s : State) (a : Nat) (v : Word) :
    s.regWriteBits a v = { s with regs := (s.regWriteBits a v).regs, shadows := (s.regWriteBits a v).shadows } := by
  unfold State.regWriteBits
  dsimp only
  split <;> split <;> rfl

/-- The blocks whose registers all take a write by access type, apart from CFG_APPLY. -/
def plainBlks : List (Option Blk) := [some .grid, some .hst, some .pwr] ++ (List.range 24).map (fun m => some (Blk.hbm m))
  ++ (List.range 8).map (fun n => some (Blk.arr n)) ++ (List.range 4).map (fun h => some (Blk.vec h))

theorem writeWord_plain {s : State} {a : Nat} (v : Word) (hm : inMsixTable a = false) (hg : a % 0x10000 ≠ F.CFG_APPLY_GO.off)
    (hb : blkAt a ∈ plainBlks) : s.writeWord a v = s.regWriteBits a v := by
  unfold State.writeWord
  simp only [hm, Bool.false_eq_true, if_false, if_neg hg]
  simp only [plainBlks, List.mem_append, List.mem_map, List.mem_cons, List.not_mem_nil, or_false] at hb
  rcases hb with (((hb | hb | hb) | ⟨_, -, hb⟩) | ⟨_, -, hb⟩) | ⟨_, -, hb⟩
  · simp only [hb]
  · simp only [hb]
  · simp only [hb]
  all_goals simp only [← hb]

/-! ### The two halves of an 8-byte write (R64) -/

theorem ofNat_ushiftRight_toNat (value : BitVec 64) :
    BitVec.ofNat 32 ((value >>> 32).toNat % 2 ^ 32) = BitVec.ofNat 32 (value.toNat / 2 ^ 32) := by
  rw [BitVec.toNat_ushiftRight, Nat.shiftRight_eq_div_pow]
  apply BitVec.eq_of_toNat_eq
  simp only [BitVec.toNat_ofNat, Nat.mod_mod]

/-! ### REGISTER_WRITE by width -/

theorem write32_host (s : State) (a : Nat) (v : Word) : s.write32 false a v = s.hostWrite a (·.writeWord a v) := rfl

/-- The running extension's write outside its windows is recorded (R399). -/
theorem write32_ext_forbidden {s : State} {a : Nat} (v : Word) (hf : s.fatalSet = false)
    (he : s.g .sec F.SEC_BOOT_STATUS_EXT_STATE = 1) (hx : regExists a = true) (hb : extForbidden a = true) :
    s.write32 true a v = s.writeIgnored 3 a := by
  simp [State.write32, State.extWrites, hf, he, hx, hb]

/-- A narrow or unaligned write is recorded, in the fail-safe state too (log entry 9, DEDUCED). -/
theorem exec_registerWrite_narrow {s : State} {addr : BitVec 26} {w : Width} {value : BitVec 64} (hu : s.hostUp = true)
    (hr : s.ready = true) (hw : w = .b1 ∨ w = .b2 ∨ addr.toNat % 4 ≠ 0) :
    exec (.registerWrite false addr w value) s = .next (s.writeIgnored 1 addr.toNat) := by
  show execRegisterWrite false addr w value s = _
  have narrow : (w == .b1 || w == .b2 || decide (addr.toNat % 4 ≠ 0)) = true := by
    rcases hw with rfl | rfl | h
    · rfl
    · rfl
    · simp [h]
  unfold execRegisterWrite
  simp only [narrow, if_true, hr, hu, Bool.true_and, Bool.false_eq_true, if_false]

/-- An aligned 32-bit write goes to its register. -/
theorem exec_registerWrite_word {addr : BitVec 26} (s : State) (ext : Bool) (value : BitVec 64) (ha : addr.toNat % 4 = 0) :
    exec (.registerWrite ext addr .b4 value) s = .next (s.write32 ext addr.toNat (BitVec.ofNat 32 (value.toNat % 2 ^ 32))) := by
  show execRegisterWrite ext addr .b4 value s = _
  have narrow : (Width.b4 == .b1 || Width.b4 == .b2 || decide (addr.toNat % 4 ≠ 0)) = false := by simp [ha]
  unfold execRegisterWrite
  simp only [narrow, Bool.false_eq_true, if_false, beq_self_eq_true, if_true]

/-- An aligned 8-byte write goes to its register and then to the next one. -/
theorem exec_registerWrite_two {addr : BitVec 26} (s : State) (ext : Bool) (value : BitVec 64) (ha : addr.toNat % 4 = 0) :
    exec (.registerWrite ext addr .b8 value) s
      = .next ((s.write32 ext addr.toNat (BitVec.ofNat 32 (value.toNat % 2 ^ 32))).write32 ext ((addr.toNat + 4) % 2 ^ 26)
          (BitVec.ofNat 32 (value.toNat / 2 ^ 32))) := by
  show execRegisterWrite ext addr .b8 value s = _
  have narrow : (Width.b8 == .b1 || Width.b8 == .b2 || decide (addr.toNat % 4 ≠ 0)) = false := by simp [ha]
  have wide : (Width.b8 == .b4) = false := rfl
  unfold execRegisterWrite
  simp only [narrow, wide, Bool.false_eq_true, if_false]

/-- Settles O5, by what the gate lets through: the write by access type, the record, or nothing. -/
theorem registerWrites : Obligations.RegisterWrites := by
  intro s addr value hu
  dsimp only
  have hlt : addr.toNat < 2 ^ 26 := addr.isLt
  have word := exec_registerWrite_word (addr := addr)
  refine ⟨fun hr hf ha hx hm hl hg hb => ?_, fun w hr hw => ?_, fun hr hf he ha hx hb => ?_, fun hf hext ha hx hb => ?_,
    fun hf ha hne hm => ?_, fun u t ha hlo hhi => ?_⟩
  · generalize hv : BitVec.ofNat 32 (value.toNat % 2 ^ 32) = v
    refine ⟨s.regWriteBits addr.toNat v, ?_, ?_, ?_, fun b hne => ⟨?_, ?_⟩, regWriteBits_frame s _ v⟩
    · rw [word s false value ha, write32_host, hostWrite_taken _ hu hx hr hf hl, writeWord_plain _ hm hg hb, hv]
    · exact (rd_regWriteBits s _ v _).trans (if_pos rfl)
    · exact (shadow_regWriteBits s _ v _).trans (if_pos rfl)
    · exact (rd_regWriteBits s _ v b).trans (if_neg hne)
    · exact (shadow_regWriteBits s _ v b).trans (if_neg hne)
  · exact ⟨_, exec_registerWrite_narrow hu hr hw, writeIgnored_recorded s 1 hlt⟩
  · refine ⟨_, ?_, writeIgnored_recorded s 2 hlt⟩
    rw [word s false value ha, write32_host, hostWrite_level _ hu hx hr hf he hb]
  · refine ⟨_, ?_, writeIgnored_recorded s 3 hlt⟩
    rw [word s true value ha, write32_ext_forbidden _ hf hext hx hb]
  · rw [word s false value ha, write32_host, hostWrite_failSafe_ignored _ hf hne hm]
  · have next : (addr + 4).toNat = (addr.toNat + 4) % 2 ^ 26 := BitVec.toNat_add ..
    have ha' : (addr + 4).toNat % 4 = 0 := by
      rw [next]
      omega
    rw [word s false value ha] at hlo
    rw [exec_registerWrite_word u false _ ha', ofNat_ushiftRight_toNat, next] at hhi
    cases hlo
    exact (exec_registerWrite_two s false value ha).trans hhi

end Sys2Proof.Machine
end

section
/-! PROOFS. The event ring's tail and a failed entry (R74, R77), CFG_APPLY.GO (R66, R67), and the request for a device-wide mode
change (R14, R71). -/

namespace Sys2Proof.Machine

/-! ### What a report leaves readable -/

/-- A register outside those of a report reads as before it. -/
theorem g_of_reports {R : Nat → Bool} {s t : State} (h : OnlyReports R s t) {b : Blk} {f : Fld}
    (hR : R (b.base + f.off) = false) (hf : reportReg (b.base + f.off) = false) : t.g b f = s.g b f :=
  g_of_rd (h.regs _ hR hf)

theorem g_evtSettle_tail (s : State) : s.evtSettle.g .dev F.DEV_EVT_TAIL_TAIL = s.g .dev F.DEV_EVT_TAIL_TAIL :=
  g_of_reports (reports_evtSettle (reports_refl (fun _ => false) s)) rfl (by decide)

/-- A line that a unit drives is high. -/
theorem mem_line (s : State) (die src : Nat) : die * 256 + src ∈ (s.line die src).lines := by
  unfold State.line
  dsimp only
  split
  · assumption
  · exact List.mem_append_right _ (List.mem_singleton_self _)

/-! ### The tail (R74, R77) -/

/-- DEV_EVT_TAIL takes a write in service and in the fail-safe state. -/
theorem exec_evtTailWrite_taken {s : State} (v : Word) (hu : s.hostUp = true) (h : s.ready = true ∨ s.fatalSet = true) :
    exec (.evtTailWrite v) s = .next (s.writeTail v) := by
  have hx : regExists (Blk.dev.base + F.DEV_EVT_TAIL_TAIL.off) = true := by decide
  refine next_eq ?_
  cases hf : s.fatalSet with
  | true => exact hostWrite_failSafe_taken _ hu hx hf (.inl rfl)
  | false =>
    have hr : s.ready = true := h.resolve_right (by simp [hf])
    exact hostWrite_taken _ hu hx hr hf (.inr (by decide))

theorem g_writeTail {s : State} {v : Word} (h : v.toNat % 2 ^ 16 < s.evtEntries) :
    (s.writeTail v).g .dev F.DEV_EVT_TAIL_TAIL = v.toNat % 2 ^ 16 := by
  unfold State.writeTail
  rw [if_neg (Nat.not_le.2 h), g_evtSettle_tail, g_p_self _ _ _ _ (by decide)]
  exact Nat.mod_mod _ _

theorem reports_writeTail {R : Nat → Bool} {s : State} (v : Word) (hR : R (Blk.dev.base + F.DEV_EVT_TAIL_TAIL.off) = true) :
    OnlyReports R s (s.writeTail v) := by
  unfold State.writeTail
  exact reports_ite (fun _ => reports_refl R s) fun _ => reports_evtSettle (reports_p (reports_refl R s) _ _ _ (.inl hR))

/-! ### A failed entry (R74) -/

/-- The last entry of the event ring is taken back and counted as dropped. -/
def State.evtTakenBack (s : State) : State :=
  (s.p .dev F.DEV_EVT_HEAD_HEAD ((s.g .dev F.DEV_EVT_HEAD_HEAD + s.evtEntries - 1) % s.evtEntries)).inc .dev
    F.DEV_EVT_STATUS_DROPPED 1

/-- HST_HOST_ERR tells of a failed access. -/
def State.putHostErr (s : State) (code ring : Nat) : State :=
  ((s.p .hst F.HST_HOST_ERR_CODE code).p .hst F.HST_HOST_ERR_RING ring).p .hst F.HST_HOST_ERR_VALID 1

/-- The state that a failed entry of the event ring leaves. -/
def State.evtLost (s : State) : State :=
  ({ s.evtTakenBack with
      evtOwed := true
      evtPhase := if s.g .dev F.DEV_EVT_HEAD_HEAD = 0 then !s.evtPhase else s.evtPhase }.putHostErr 6 0).line 4 162

theorem exec_eventWriteFail {s : State} (hn : 0 < s.evtEntries)
    (hne : s.g .dev F.DEV_EVT_HEAD_HEAD ≠ s.g .dev F.DEV_EVT_TAIL_TAIL) : exec .eventWriteFail s = .next s.evtLost := by
  show execEventWriteFail s = _
  unfold execEventWriteFail
  rw [if_neg (by simp [hne]; omega)]
  rfl

/-- HST_HOST_ERR reads what was written to it. -/
theorem g_putHostErr (s : State) {code ring : Nat} (hc : code < 2 ^ 4) (hr : ring < 2 ^ 6) :
    (s.putHostErr code ring).g .hst F.HST_HOST_ERR_CODE = code ∧ (s.putHostErr code ring).g .hst F.HST_HOST_ERR_RING = ring
      ∧ (s.putHostErr code ring).g .hst F.HST_HOST_ERR_VALID = 1 := by
  unfold State.putHostErr
  refine ⟨?_, ?_, g_p_self _ _ _ _ (by decide)⟩
  · rw [g_p_ne _ _ _ _ _ (by decide), g_p_ne _ _ _ _ _ (by decide), g_p_self _ _ _ _ (by decide)]
    exact Nat.mod_eq_of_lt hc
  · rw [g_p_ne _ _ _ _ _ (by decide), g_p_self _ _ _ _ (by decide)]
    exact Nat.mod_eq_of_lt hr

/-- A field of the DEV window does not see HST_HOST_ERR. -/
theorem g_putHostErr_dev (s : State) (code ring : Nat) {f : Fld} (hf : f.off < 0x10000) :
    (s.putHostErr code ring).g .dev f = s.g .dev f := by
  have far (e : Fld) : Blk.dev.base + f.off ≠ Blk.hst.base + e.off := by
    simp only [Blk.base]
    omega
  unfold State.putHostErr
  rw [g_p_far _ _ _ _ _ _ (far _), g_p_far _ _ _ _ _ _ (far _), g_p_far _ _ _ _ _ _ (far _)]

theorem replies_putHostErr {R : Nat → Bool} {a s : State} (h : OnlyReplies R a s) (code ring : Nat) :
    OnlyReplies R a (s.putHostErr code ring) := by
  refine replies_p (replies_p (replies_p h _ _ _ ?_) _ _ _ ?_) _ _ _ ?_
  all_goals exact .inr (by decide)

theorem g_evtLost (s : State) (b : Blk) (f : Fld) : s.evtLost.g b f = (s.evtTakenBack.putHostErr 6 0).g b f := by
  refine (g_of_regs (State.line_regs ..) b f).trans (g_of_regs ?_ b f)
  simp only [State.putHostErr, p_regs]

theorem g_evtLost_dev (s : State) {f : Fld} (hf : f.off < 0x10000) : s.evtLost.g .dev f = s.evtTakenBack.g .dev f :=
  (g_evtLost s .dev f).trans (g_putHostErr_dev _ _ _ hf)

theorem g_evtLost_head {s : State} (hn : 0 < s.evtEntries) (hle : s.evtEntries ≤ 2 ^ 16) :
    s.evtLost.g .dev F.DEV_EVT_HEAD_HEAD = (s.g .dev F.DEV_EVT_HEAD_HEAD + s.evtEntries - 1) % s.evtEntries := by
  rw [g_evtLost_dev _ (by decide), State.evtTakenBack, State.inc, g_p_ne _ _ _ _ _ (by decide), g_p_self _ _ _ _ (by decide)]
  exact Nat.mod_eq_of_lt (Nat.lt_of_lt_of_le (Nat.mod_lt _ hn) hle)

theorem g_evtLost_dropped (s : State) :
    s.evtLost.g .dev F.DEV_EVT_STATUS_DROPPED = min (s.g .dev F.DEV_EVT_STATUS_DROPPED + 1) (2 ^ 16 - 1) := by
  rw [g_evtLost_dev _ (by decide), State.evtTakenBack, State.inc, g_p_self _ _ _ _ (by decide), g_p_ne _ _ _ _ _ (by decide)]
  exact Nat.mod_eq_of_lt (Nat.lt_of_le_of_lt (Nat.min_le_right ..) (by decide))

theorem replies_evtLost (R : Nat → Bool) (s : State) : OnlyReplies R s s.evtLost := by
  have h : OnlyReplies R s s.evtTakenBack :=
    replies_inc (replies_p (replies_refl R s) _ _ _ (.inr (by decide))) _ _ _ (.inr (by decide))
  exact replies_line (replies_putHostErr (replies_with h ..) 6 0) 4 162

/-! ### GO (R66, R67, R69) -/

theorem exec_cfgApplyGo_taken {s : State} {n : BitVec 10} {b : Blk} (hu : s.hostUp = true) (hr : s.ready = true)
    (hf : s.fatalSet = false) (he : s.expert = true) (hb : blkAt (n.toNat * 0x10000) = some b)
    (hx : regExists (b.base + F.CFG_APPLY_GO.off) = true) : exec (.cfgApplyGo n) s = .next (s.cfgGo b) := by
  show execCfgApplyGo n s = _
  unfold execCfgApplyGo
  rw [hb]
  exact next_eq (hostWrite_taken _ hu hx hr hf (.inl he))

/-- The snapshot that GO takes: what stands in the shadows of the block. -/
def State.snapOf (s : State) (b : Blk) : Table Word :=
  s.shadows.filter fun p => decide (b.base ≤ p.1) && decide (p.1 < b.base + 0xFF00)

theorem mem_snapOf (s : State) (b : Blk) (x : Nat × Word) :
    x ∈ s.snapOf b ↔ x ∈ s.shadows ∧ b.base ≤ x.1 ∧ x.1 < b.base + 0xFF00 := by
  simp [State.snapOf]

/-- A second GO replaces the snapshot of the block, and no other. -/
theorem mem_cfgGo_snaps (s : State) (b : Blk) (x : Nat × Nat × Table Word) :
    x ∈ (s.cfgGo b).snaps ↔ x ∈ s.snaps ∧ x.1 ≠ b.base ∨ x = (b.base, s.grid.time, s.snapOf b) := by
  simp [State.cfgGo, State.snapOf]

theorem gb_cfgGo_pend (s : State) (b : Blk) : (s.cfgGo b).gb b F.CFG_STATUS_PEND = true := by
  have h : (s.cfgGo b).g b F.CFG_STATUS_PEND = 1 := g_p_self s b F.CFG_STATUS_PEND 1 (by decide)
  simp [State.gb, h]

theorem regs_cfgGo (s : State) (b : Blk) :
    OnlyRegs (regsOf [(b, F.CFG_STATUS_PEND)]) { s with snaps := (s.cfgGo b).snaps } (s.cfgGo b) :=
  regs_p (regs_refl _ { s with snaps := (s.cfgGo b).snaps }) b F.CFG_STATUS_PEND 1 (by simp [regsOf])

/-! ### The mode request (R14, R71) -/

theorem exec_modeRequest_taken {s : State} (v : Word) (hu : s.hostUp = true) (hr : s.ready = true) (hf : s.fatalSet = false) :
    exec (.modeRequest v) s = .next (s.writeModeReq v) :=
  next_eq (hostWrite_taken _ hu (by decide) hr hf (.inr (by decide)))

/-- The target that a request names. -/
def State.modeTgt (s : State) : Nat := s.g2 .dev F.DEV_MODE_TGT_LO_KNOT_LO F.DEV_MODE_TGT_HI_KNOT_HI

/-- The cases in which a request is refused. -/
theorem modeRefused_iff (s : State) (mode target : Nat) : s.modeRefused mode target = true ↔
    s.gb .dev F.DEV_MODE_STATE_PEND = true ∨ knotBefore ((s.grid.knot + 1) % 2 ^ 48) target = false
      ∨ (s.allSpans []).any (runsThrough target) = true ∨ 1 < mode := by
  simp only [State.modeRefused, Bool.or_eq_true, Bool.not_eq_true', decide_eq_true_eq]
  exact (or_congr_left or_comm).trans (or_assoc.trans (or_congr_right or_assoc))

theorem modeReq_fields (v : Word) : fldGet F.DEV_MODE_REQ_MODE v = v.toNat % 16
    ∧ fldGet F.DEV_MODE_REQ_EXPERT v = v.toNat / 16 % 2 ∧ fldGet F.DEV_MODE_REQ_GO v = v.toNat / 2 ^ 31 % 2 :=
  ⟨by simp [fldGet, F.DEV_MODE_REQ_MODE], rfl, rfl⟩

/-- A refused request sets REFUSED and does nothing else. -/
theorem writeModeReq_refused {s : State} {v : Word} (hgo : v.toNat / 2 ^ 31 = 1)
    (h : s.modeRefused (v.toNat % 16) s.modeTgt = true) : s.writeModeReq v = s.p .dev F.DEV_MODE_STATE_REFUSED 1 := by
  obtain ⟨hm, -, hg⟩ := modeReq_fields v
  unfold State.writeModeReq
  rw [hm, hg, hgo]
  exact if_pos (by simpa [State.modeTgt] using h)

/-- The state that an accepted request leaves. -/
def State.modeTaken (s : State) (mode expert : Nat) : State :=
  { (((s.p .dev F.DEV_MODE_REQ_MODE mode).p .dev F.DEV_MODE_REQ_EXPERT expert).p .dev F.DEV_MODE_STATE_REFUSED 0).p .dev
      F.DEV_MODE_STATE_PEND 1 with modeReq := some (mode, expert == 1, s.modeTgt) }

theorem writeModeReq_accepted {s : State} {v : Word} (hgo : v.toNat / 2 ^ 31 = 1) (hmode : v.toNat % 16 ≤ 1)
    (h : s.modeRefused (v.toNat % 16) s.modeTgt = false) : s.writeModeReq v = s.modeTaken (v.toNat % 16) (v.toNat / 16 % 2) := by
  obtain ⟨hm, hx, hg⟩ := modeReq_fields v
  unfold State.writeModeReq
  rw [hm, hx, hg, hgo]
  refine (if_neg ?_).trans ((if_neg (Nat.not_lt.2 hmode)).trans rfl)
  simpa [State.modeTgt] using h

/-- What the registers of the request and of the mode read after an accepted request. -/
theorem g_modeTaken (s : State) {mode expert : Nat} (hm : mode < 2 ^ 4) (he : expert < 2) :
    (s.modeTaken mode expert).g .dev F.DEV_MODE_REQ_MODE = mode ∧ (s.modeTaken mode expert).g .dev F.DEV_MODE_REQ_EXPERT = expert
      ∧ (s.modeTaken mode expert).gb .dev F.DEV_MODE_STATE_PEND = true
      ∧ (s.modeTaken mode expert).gb .dev F.DEV_MODE_STATE_REFUSED = false
      ∧ (s.modeTaken mode expert).g .dev F.DEV_MODE_STATE_CUR_MODE = s.g .dev F.DEV_MODE_STATE_CUR_MODE := by
  have read (f : Fld) : (s.modeTaken mode expert).g .dev f = ((((s.p .dev F.DEV_MODE_REQ_MODE mode).p .dev
      F.DEV_MODE_REQ_EXPERT expert).p .dev F.DEV_MODE_STATE_REFUSED 0).p .dev F.DEV_MODE_STATE_PEND 1).g .dev f := rfl
  simp (disch := decide) only [State.gb, read, g_p_self, g_p_ne]
  exact ⟨Nat.mod_eq_of_lt hm, Nat.mod_eq_of_lt he, rfl, rfl, trivial⟩

theorem regs_modeTaken (s : State) (mode expert : Nat) :
    OnlyRegs (regsOf [(.dev, F.DEV_MODE_REQ_MODE), (.dev, F.DEV_MODE_STATE_PEND)])
      { s with modeReq := (s.modeTaken mode expert).modeReq } (s.modeTaken mode expert) := by
  refine regs_p (regs_p (regs_p (regs_p (regs_refl _ { s with modeReq := (s.modeTaken mode expert).modeReq })
    .dev F.DEV_MODE_REQ_MODE mode ?_) .dev F.DEV_MODE_REQ_EXPERT expert ?_) .dev F.DEV_MODE_STATE_REFUSED 0 ?_)
    .dev F.DEV_MODE_STATE_PEND 1 ?_
  all_goals decide

/-- Settles O8: the tail and the failed entry, GO, and the mode request accepted or refused. -/
theorem eventRingAndRequests : Obligations.EventRingAndRequests := by
  refine ⟨fun s v hu h => ⟨fun hv => ?_, fun hv => ?_⟩, fun s hn hle hne => ?_, fun s n b hu hr hf he hb hx => ?_,
    fun s v hu hr hf hgo => ⟨fun hm hp hs hk => ?_, fun h => ?_⟩⟩
  · exact ⟨_, exec_evtTailWrite_taken v hu h, g_writeTail hv, reports_writeTail v (by decide)⟩
  · rw [exec_evtTailWrite_taken v hu h, State.writeTail, if_pos hv]
  · obtain ⟨hcode, hring, hvalid⟩ := g_putHostErr s.evtTakenBack (code := 6) (ring := 0) (by decide) (by decide)
    exact ⟨_, exec_eventWriteFail hn hne, g_evtLost_head hn hle, g_evtLost_dropped s, rfl, (g_evtLost s _ _).trans hcode,
      (g_evtLost s _ _).trans hring, (g_evtLost s _ _).trans hvalid, mem_line _ 4 162, replies_evtLost _ s⟩
  · refine ⟨_, exec_cfgApplyGo_taken hu hr hf he hb hx, gb_cfgGo_pend s b, ⟨s.snapOf b, ?_, mem_snapOf s b, fun x hx hxb => ?_⟩,
      fun x hxb => ?_, regs_cfgGo s b⟩
    · exact (mem_cfgGo_snaps s b _).2 (.inr rfl)
    · exact ((mem_cfgGo_snaps s b x).1 hx).resolve_left fun h => h.2 hxb
    · rw [mem_cfgGo_snaps]
      exact ⟨fun h => (h.resolve_right fun e => hxb (e ▸ rfl)).1, fun h => .inl ⟨h, hxb⟩⟩
  · have hno : s.modeRefused (v.toNat % 16) s.modeTgt = false := by
      rw [← Bool.not_eq_true, modeRefused_iff]
      rintro (h | h | h | h)
      · simp [hp] at h
      · exact absurd (hk.symm.trans h) (by decide)
      · exact absurd (hs.symm.trans h) (by decide)
      · omega
    obtain ⟨hmode, hexpert, hpend, hrefused, hcur⟩ :=
      g_modeTaken s (mode := v.toNat % 16) (expert := v.toNat / 16 % 2) (by omega) (by omega)
    exact ⟨_, (exec_modeRequest_taken v hu hr hf).trans (next_eq (writeModeReq_accepted hgo hm hno)), hmode, hexpert, hpend, hrefused,
      rfl, hcur, regs_modeTaken s _ _⟩
  · have hyes : s.modeRefused (v.toNat % 16) s.modeTgt = true := (modeRefused_iff ..).2 h
    refine ⟨_, (exec_modeRequest_taken v hu hr hf).trans (next_eq (writeModeReq_refused hgo hyes)), ?_, ?_,
      regs_p (regs_refl _ s) _ _ _ (by decide)⟩
    · rw [State.gb, g_p_self _ _ _ _ (by decide)]
      rfl
    · simp only [List.mem_cons, List.not_mem_nil, or_false]
      rintro f (rfl | rfl | rfl) <;> exact g_p_ne _ _ _ _ _ (by decide)

end Sys2Proof.Machine
end

section
/-! PROOFS. What a completion does to the commands in progress and to HST_CMDS (R323), and how a command of a ring runs once it has
begun (R324, R325). -/

namespace Sys2Proof.Machine

/-! ### The completion queue -/

theorem cmds_of_reports {R : Nat → Bool} {s t : State} (h : OnlyReports R s t) : t.cmds = s.cmds :=
  (congrArg State.cmds h.rest :)

/-- A ring's record lies in HST_RINGS alone. -/
theorem rd_setRing (s : State) (i : Nat) (r : Option Ring) {a : Nat} (hlo : a ≠ 0x020024) (hhi : a ≠ 0x020028) :
    (s.setRing i r).rd a = s.rd a := by
  unfold State.setRing
  dsimp only
  refine rd_wr_ne s _ a _ ?_
  split
  · exact hlo
  · exact hhi

theorem rd_ringFree (s : State) (i : Nat) {a : Nat} (hlo : a ≠ 0x020024) (hhi : a ≠ 0x020028) :
    (s.ringFree i).rd a = s.rd a := by
  unfold State.ringFree
  split
  · rfl
  · exact rd_setRing _ _ _ hlo hhi

theorem cmds_ringFree (s : State) (i : Nat) : (s.ringFree i).cmds = s.cmds := by
  unfold State.ringFree
  split <;> rfl

theorem cmds_cqWrite (s : State) (i : Nat) (r : Ring) (c : Completion) : (s.cqWrite i r c).cmds = s.cmds := by
  unfold State.cqWrite
  have he (o : Out) := cmds_of_reports (reports_emit (reports_refl (fun _ => false) s) o)
  exact (cmds_of_reports (reports_sendMsix (reports_refl (fun _ => false) _) _)).trans (he _)

theorem rd_cqWrite (s : State) (i : Nat) (r : Ring) (c : Completion) {a : Nat} (hlo : a ≠ 0x020024) (hhi : a ≠ 0x020028)
    (ha : reportReg a = false) : (s.cqWrite i r c).rd a = s.rd a := by
  unfold State.cqWrite
  refine ((reports_sendMsix (reports_refl (fun _ => false) _) _).regs a rfl ha).trans ((rd_setRing _ _ _ hlo hhi).trans ?_)
  exact (reports_emit (reports_refl (fun _ => false) s) _).regs a rfl ha

theorem cmds_postTo (s : State) (i : Nat) (c : Completion) : (s.postTo i c).cmds = s.cmds := by
  unfold State.postTo
  split
  · rfl
  · split
    · rfl
    · split
      · rfl
      · exact cmds_cqWrite ..

theorem rd_postTo (s : State) (i : Nat) (c : Completion) {a : Nat} (hlo : a ≠ 0x020024) (hhi : a ≠ 0x020028)
    (ha : reportReg a = false) : (s.postTo i c).rd a = s.rd a := by
  unfold State.postTo
  split
  · rfl
  · split
    · rfl
    · split
      · exact rd_setRing _ _ _ hlo hhi
      · exact rd_cqWrite _ _ _ _ hlo hhi ha

/-! ### A command ends (R323, R327) -/

theorem agentsReport_frame (s : State) : s.agentsReport = { s with lines := s.agentsReport.lines } := by
  unfold State.agentsReport
  split <;> rfl

/-- A command that ends is no longer in progress; the others are. -/
theorem cmds_complete (s : State) (c : Cmd) (status result : Nat) :
    (s.complete c status result).cmds = s.cmds.filter (· != c) := by
  have h : ((s.agentsReport.inc .hst F.HST_CMDS_COUNT 1).ringFree c.ring).cmds = s.cmds :=
    (cmds_ringFree ..).trans (congrArg State.cmds (agentsReport_frame s) :)
  unfold State.complete
  dsimp only
  split
  · exact congrArg _ h
  · exact (cmds_postTo ..).trans (congrArg _ h)

/-- HST_CMDS counts the end of a command, up to its highest value. -/
theorem g_complete_count (s : State) (c : Cmd) (status result : Nat) : (s.complete c status result).g .hst F.HST_CMDS_COUNT
    = min (s.g .hst F.HST_CMDS_COUNT + 1) (2 ^ F.HST_CMDS_COUNT.w - 1) := by
  have hr : s.agentsReport.g .hst F.HST_CMDS_COUNT = s.g .hst F.HST_CMDS_COUNT :=
    g_of_regs (congrArg State.regs (agentsReport_frame s)) _ _
  have h : ((s.agentsReport.inc .hst F.HST_CMDS_COUNT 1).ringFree c.ring).g .hst F.HST_CMDS_COUNT
      = min (s.g .hst F.HST_CMDS_COUNT + 1) (2 ^ F.HST_CMDS_COUNT.w - 1) := by
    rw [g_of_rd (rd_ringFree _ _ (by decide) (by decide)), State.inc, g_p_self _ _ _ _ (by decide), hr]
    exact Nat.mod_eq_of_lt (Nat.lt_of_le_of_lt (Nat.min_le_right ..) (by decide))
  unfold State.complete
  dsimp only
  split
  · exact h
  · exact (g_of_rd (rd_postTo _ _ _ (by decide) (by decide) (by decide))).trans h

theorem ended_complete (s : State) (c : Cmd) (status result : Nat) : Ended s c status result (s.complete c status result) where
  gone := by simp [cmds_complete]
  counted h := by
    rw [g_complete_count]
    omega
  posted := posted_complete s c status result

/-- The end of a command is told from any state with the same registers and rings. -/
theorem ended_complete_of {s u : State} (c : Cmd) (status result : Nat) (hg : u.regs = s.regs) (hr : u.rings = s.rings) :
    Ended s c status result (u.complete c status result) := by
  obtain ⟨gone, counted, posted⟩ := ended_complete u c status result
  rw [g_of_regs hg] at counted
  refine ⟨gone, counted, Posted.from posted ?_ ?_⟩
  · simp only [State.ring, hr]
  · simp only [State.hostUp, g_of_regs hg]

theorem complete_pages (s : State) (c : Cmd) (status result : Nat) : (s.complete c status result).pages = s.pages :=
  (congrArg State.pages (replies_complete (replies_refl (fun _ => false) s) c status result).rest :)

theorem complete_restores (s : State) (c : Cmd) (status result : Nat) : (s.complete c status result).restores = s.restores :=
  (congrArg State.restores (replies_complete (replies_refl (fun _ => false) s) c status result).rest :)

theorem complete_mem (s : State) (c : Cmd) (status result : Nat) : (s.complete c status result).mem = s.mem :=
  (congrArg State.mem (replies_complete (replies_refl (fun _ => false) s) c status result).rest :)

/-- A command refused ends with the code and nothing else. -/
theorem refuse_ends (s : State) (c : Cmd) (code : Nat) :
    Ended s c code 0 (s.refuse c code) ∧ OnlyReplies (fun _ => false) s (s.refuse c code) :=
  ⟨ended_complete s c code 0, replies_refuse (replies_refl _ s) c code⟩

/-! ### A command begins (R325) -/

theorem replies_tellAgents {R : Nat → Bool} {a s : State} (h : OnlyReplies R a s) : OnlyReplies R a s.tellAgents :=
  replies_ite (fun _ => h) fun _ => replies_foldl h _ _ fun _ _ _ ht => replies_line ht _ _

/-- A command that begins is in progress, and nothing has changed but the rings and the agents' lines. -/
theorem beginCmd_some {s s1 : State} {ring opcode : Nat} {e : Sqe} {c : Cmd} (h : s.beginCmd ring opcode e = some (s1, c)) :
    c ∈ s1.cmds ∧ OnlyReplies (fun _ => false) s s1 := by
  unfold State.beginCmd at h
  split at h
  · cases h
  · split at h
    · cases h
    · split at h
      · cases h
      · cases h
        exact ⟨List.mem_append_right _ (List.mem_singleton_self _),
          replies_with (replies_tellAgents (replies_setRing (replies_refl _ s) ..)) ..⟩

/-- What a beginning leaves readable: the fail-safe state, the control level and the grid. -/
theorem beginCmd_frame {s s1 : State} {ring opcode : Nat} {e : Sqe} {c : Cmd} (h : s.beginCmd ring opcode e = some (s1, c)) :
    s1.fatalSet = s.fatalSet ∧ s1.expert = s.expert ∧ s1.grid = s.grid := by
  obtain ⟨-, hs⟩ := beginCmd_some h
  exact ⟨gb_of_rd (hs.regs _ rfl (by decide)), gb_of_rd (hs.regs _ rfl (by decide)), (congrArg State.grid hs.rest :)⟩

/-- A command that has begun outside the fail-safe state and whose reserved words are zero has its own effect (R324). -/
theorem withCmd_runs {s s1 : State} {ring : RingId} {opcode : Nat} {e : Sqe} {c : Cmd} {sound : Bool} (f : Cmd → State → State)
    (hb : s.beginCmd ring.val opcode e = some (s1, c)) (hf : s.fatalSet = false) (hr : e.rsv = 0) (hs : sound = true) :
    s.withCmd ring opcode e sound f = f c s1 := by
  obtain ⟨hf1, -, -⟩ := beginCmd_frame hb
  unfold State.withCmd
  rw [hb]
  simp [hf1, hf, hr, hs]

/-- A command in progress that is changed stays in progress in its new form. -/
theorem mem_setCmd {s : State} {c : Cmd} (c' : Cmd) (h : c ∈ s.cmds) : c' ∈ (s.setCmd c c').cmds :=
  List.mem_map.2 ⟨c, h, if_pos rfl⟩

end Sys2Proof.Machine
end

section
/-! PROOFS. MAP and UNMAP (R244 to R248, R334), MEM_READ and MEM_WRITE with the copies that follow (R231, R238, R333). -/

namespace Sys2Proof.Machine

/-! ### Ends of a command beside a change of its own -/

/-- A command that ends beside a change of the page map changes nothing else. -/
theorem replies_complete_pages (s : State) (ps : List Page) (rs : List (Page × Nat)) (c : Cmd) (status result : Nat) :
    let t := State.complete { s with pages := ps, restores := rs } c status result
    OnlyReplies (fun _ => false) { s with pages := t.pages, restores := t.restores } t := by
  intro t
  have hp : t.pages = ps := complete_pages ..
  have hr : t.restores = rs := complete_restores ..
  rw [hp, hr]
  exact replies_complete (replies_refl _ _) c status result

/-! ### MAP -/

/-- MAP of as many entries as its count says, none with a reserved bit. -/
theorem exec_map_runs {s s1 : State} {ring : RingId} {e : Sqe} {c : Cmd} (bs : List Byte)
    (hb : s.beginCmd ring.val 0x10 e = some (s1, c)) (hf : s.fatalSet = false) (hr : e.rsv = 0) (hp : e.plain 20 = true)
    (h1 : 1 ≤ e.field 16 4) (h2 : e.field 16 4 ≤ 4096) :
    exec (.map ring e (.ok bs)) s = .next (s1.mapPages c bs (e.field 16 4)) := by
  refine next_eq ((withCmd_runs _ hb hf hr hp).trans ?_)
  refine if_neg ?_
  simp only [Bool.or_eq_true, decide_eq_true_eq]
  omega

/-- Entries that agree with the map are added to it. -/
theorem mapPages_fits {s : State} (c : Cmd) {bs : List Byte} {n : Nat} (hl : (entries 16 (bs.take (16 * n))).length = n)
    (hr : (entries 16 (bs.take (16 * n))).any pageReserved = false)
    (hfit : pagesFit s.pages ((entries 16 (bs.take (16 * n))).map decPage) = true) :
    ∃ rs, s.mapPages c bs n = State.complete { s with
      pages := s.pages ++ (entries 16 (bs.take (16 * n))).map decPage, restores := rs } c Code.success 0 := by
  unfold State.mapPages
  exact ⟨_, (if_neg (by simp [hl, hr])).trans ((if_neg (by simp [hfit])).trans rfl)⟩

/-- Entries that do not are refused. -/
theorem mapPages_conflict {s : State} (c : Cmd) {bs : List Byte} {n : Nat} (hl : (entries 16 (bs.take (16 * n))).length = n)
    (hr : (entries 16 (bs.take (16 * n))).any pageReserved = false)
    (hfit : pagesFit s.pages ((entries 16 (bs.take (16 * n))).map decPage) = false) :
    s.mapPages c bs n = s.refuse c Code.mapConflict := by
  unfold State.mapPages
  exact (if_neg (by simp [hl, hr])).trans (if_pos (by simp [hfit]))

/-! ### UNMAP -/

/-- Does a page meet the range of an UNMAP? -/
def Page.met (va len : Nat) (p : Page) : Bool := rangesMeet (p.va, p.size) (va, len)

/-- The pages of an UNMAP that the TLBs pin. -/
def State.pinnedIn (s : State) (va len : Nat) : List Page := (s.pages.filter (Page.met va len)).filter fun p => s.tlb.contains p

theorem mem_pinnedIn (s : State) (va len : Nat) (p : Page) :
    p ∈ s.pinnedIn va len ↔ p ∈ s.pages ∧ p.met va len = true ∧ p ∈ s.tlb := by
  simp only [State.pinnedIn, List.mem_filter, List.contains_iff_mem, and_assoc]

theorem pinnedIn_eq (s : State) (va len : Nat) :
    s.pinnedIn va len = s.pages.filter fun p => p.met va len && s.tlb.contains p := by
  simp only [State.pinnedIn, List.filter_filter, Bool.and_comm]

/-- Every page that the range of an UNMAP meets lies within it. -/
def State.unmapWhole (s : State) (va len : Nat) : Prop :=
  ∀ p ∈ s.pages, p.met va len = true → va ≤ p.va ∧ p.va + p.size ≤ va + len

/-- What UNMAP leaves of the map: the pages that its range does not meet, and those that are pinned. -/
def State.unmapped (s : State) (va len : Nat) : List Page := s.pages.filter fun p => !p.met va len || (s.pinnedIn va len).contains p

theorem mem_unmapped (s : State) (va len : Nat) (p : Page) :
    p ∈ s.unmapped va len ↔ p ∈ s.pages ∧ (p.met va len = false ∨ p ∈ s.tlb) := by
  simp only [State.unmapped, List.mem_filter, Bool.or_eq_true, Bool.not_eq_true', List.contains_iff_mem, mem_pinnedIn]
  cases p.met va len <;> simp

/-- UNMAP of a range that holds its pages whole: refused where a page is pinned and FORCE is not set, at once where none is, else
left to a knot for the pinned ones. -/
theorem unmapRange_whole {s : State} (c : Cmd) {va len : Nat} (force : Bool) (hw : s.unmapWhole va len) :
    ∃ rs, s.unmapRange c va len force =
      if !(s.pinnedIn va len).isEmpty && !force then s.refuse c Code.mapConflict
      else if (s.pinnedIn va len).isEmpty then State.complete { s with pages := s.unmapped va len, restores := rs } c Code.success 0
      else State.setCmd { s with
        pages := s.unmapped va len, restores := rs
        removals := s.removals ++ (s.pinnedIn va len).map fun p => (p.va, s.grid.time) } c { c with arg := s.grid.time } := by
  have whole : ((s.pages.filter (Page.met va len)).all fun p => decide (va ≤ p.va) && decide (p.va + p.size ≤ va + len)) = true := by
    rw [List.all_eq_true]
    intro p hp
    obtain ⟨hin, hmet⟩ := List.mem_filter.1 hp
    simpa using hw p hin hmet
  exact ⟨_, if_neg (by rw [Bool.not_eq_true', Bool.not_eq_false]; exact whole)⟩

/-- UNMAP of an aligned range, at the level that its flags need. -/
theorem exec_unmap_runs {s s1 : State} {ring : RingId} {e : Sqe} {c : Cmd} (hb : s.beginCmd ring.val 0x11 e = some (s1, c))
    (hf : s.fatalSet = false) (hr : e.rsv = 0) (hfl : e.flags = 0 ∨ e.flags = 1 ∧ s.expert = true) (hz : e.zero 24 64 = true)
    (hva : e.field 8 8 % 2 ^ 21 = 0) (hlen : e.field 16 8 % 2 ^ 21 = 0) (h0 : e.field 16 8 ≠ 0)
    (hend : e.field 8 8 + e.field 16 8 ≤ 2 ^ 48) :
    exec (.unmap ring e) s = .next (s1.unmapRange c (e.field 8 8) (e.field 16 8) (bit e.flags.toNat 0)) := by
  obtain ⟨-, hx, -⟩ := beginCmd_frame hb
  have small : (decide (e.flags.toNat < 2) && e.zero 24 64) = true := by
    rcases hfl with h | ⟨h, -⟩ <;> simp [h, hz]
  have level : ¬(bit e.flags.toNat 0 && !s1.expert) = true := by
    rcases hfl with h | ⟨h, he⟩
    · simp [h, bit]
    · simp [hx, he]
  refine next_eq ((withCmd_runs _ hb hf hr small).trans ((if_neg level).trans (if_neg ?_)))
  simp only [hva, hlen, h0, ne_eq, not_true_eq_false, decide_false, Bool.or_self, Bool.false_or, decide_eq_true_eq]
  omega

/-! ### MEM_READ and MEM_WRITE begin -/

section
variable {s s1 : State} {ring : RingId} {e : Sqe} {c : Cmd} (hf : s.fatalSet = false) (hr : e.rsv = 0)
  (hp : e.plain 28 = true) (hc : copyRefused e = none)
include hf hr hp hc

/-- MEM_READ of no bytes completes at once. -/
theorem exec_memRead_empty (hb : s.beginCmd ring.val 0x12 e = some (s1, c)) (h0 : e.field 24 4 = 0) :
    exec (.memRead ring e) s = .next (s1.complete c Code.success 0) := by
  refine next_eq ((withCmd_runs _ hb hf hr hp).trans ?_)
  dsimp only
  rw [hc]
  exact if_pos h0

/-- MEM_READ of a range without a page ends with MAPPING. -/
theorem exec_memRead_unmapped (hb : s.beginCmd ring.val 0x12 e = some (s1, c)) (h0 : e.field 24 4 ≠ 0)
    (hw : walkRange s1.pages false (e.field 8 8) (e.field 24 4) = none) :
    exec (.memRead ring e) s = .next (s1.refuse c Code.mapping) := by
  refine next_eq ((withCmd_runs _ hb hf hr hp).trans ?_)
  dsimp only
  rw [hc]
  refine (if_neg h0).trans ?_
  rw [hw]

/-- MEM_READ of a mapped range waits for its copy. -/
theorem exec_memRead_waits {rs : List (Nat × Nat)} (hb : s.beginCmd ring.val 0x12 e = some (s1, c)) (h0 : e.field 24 4 ≠ 0)
    (hw : walkRange s1.pages false (e.field 8 8) (e.field 24 4) = some rs) :
    exec (.memRead ring e) s = .next (s1.setCmd c
      { c with dva := e.field 8 8, haddr := e.field 16 8, len := e.field 24 4, runs := rs }) := by
  refine next_eq ((withCmd_runs _ hb hf hr hp).trans ?_)
  dsimp only
  rw [hc]
  refine (if_neg h0).trans ?_
  rw [hw]

/-- MEM_WRITE of no bytes completes at once. -/
theorem exec_memWrite_empty (data : HostRead) (hb : s.beginCmd ring.val 0x13 e = some (s1, c)) (h0 : e.field 24 4 = 0) :
    exec (.memWrite ring e data) s = .next (s1.complete c Code.success 0) := by
  refine next_eq ((withCmd_runs _ hb hf hr hp).trans ?_)
  dsimp only
  rw [hc]
  exact if_pos h0

/-- MEM_WRITE of a range that is mapped for writing and not protected keeps its data until the copy (log entry 47, DESIGN CHOICE). -/
theorem exec_memWrite_waits (bs : List Byte) {rs : List (Nat × Nat)} (hb : s.beginCmd ring.val 0x13 e = some (s1, c))
    (h0 : e.field 24 4 ≠ 0) (hw : walkRange s1.pages true (e.field 8 8) (e.field 24 4) = some rs)
    (hprot : s1.writeProtected (e.field 8 8) (e.field 24 4) rs = false) :
    exec (.memWrite ring e (.ok bs)) s = .next (s1.setCmd c { c with
      dva := e.field 8 8, haddr := e.field 16 8, len := e.field 24 4, data := fitBytes bs (e.field 24 4), runs := rs }) := by
  refine next_eq ((withCmd_runs _ hb hf hr hp).trans ?_)
  dsimp only
  rw [hc]
  refine (if_neg h0).trans ?_
  rw [hw]
  exact if_neg (by simp [hprot])

end

/-! ### The copies -/

/-- Memory after a write of bytes through walked runs, where no unit of it is bad. -/
def memWriteRuns : List Host.Cell → List (Nat × Nat) → List Byte → List Host.Cell
  | m, [], _ => m
  | m, r :: rs, bs => memWriteRuns (memWrite m r.1 (bs.take r.2)) rs (bs.drop r.2)

theorem writeRuns_sound {s : State} (hb : s.badPairs = []) (rs : List (Nat × Nat)) (bs : List Byte) :
    s.writeRuns rs bs = { s with mem := memWriteRuns s.mem rs bs } := by
  induction rs generalizing s bs with
  | nil => rfl
  | cons r rs ih =>
    have h : s.writeMem r.1 (bs.take r.2) = { s with mem := memWrite s.mem r.1 (bs.take r.2) } := if_pos hb
    rw [State.writeRuns, h, ih (by exact hb)]
    rfl

/-- A byte outside every run reads as before. -/
theorem tget_memWriteRuns_outside (m : List Host.Cell) (rs : List (Nat × Nat)) (bs : List Byte) {a : Nat}
    (h : ∀ r ∈ rs, a < r.1 ∨ r.1 + r.2 ≤ a) : tget memDefault (memWriteRuns m rs bs) a = tget memDefault m a := by
  induction rs generalizing m bs with
  | nil => rfl
  | cons r rs ih =>
    have hlen : (bs.take r.2).length ≤ r.2 := List.length_take_le ..
    rw [memWriteRuns, ih _ _ fun x hx => h x (List.mem_cons_of_mem _ hx), tget_memWrite_outside]
    have := h r (List.mem_cons_self ..)
    omega

/-- Below every cell a run reads the default byte. -/
theorem runOf_below (a n : Nat) {l : List Host.Cell} (h : ∀ x ∈ l, a + 1 ≤ x.1) :
    runOf a (n + 1) l = memDefault :: runOf (a + 1) n l := by
  cases l with
  | nil => rfl
  | cons x l =>
    have hx : x.1 ≠ a := by
      have := h x (List.mem_cons_self ..)
      omega
    exact if_neg hx

/-- The cells of consecutive bytes, read as a run, are the bytes. -/
theorem runOf_cellsOf (a : Nat) (bs : List Byte) : runOf a bs.length (cellsOf a bs) = bs := by
  induction bs generalizing a with
  | nil => rfl
  | cons b bs ih =>
    rw [cellsOf, List.length_cons]
    split
    · next hb => rw [runOf_below _ _ fun x hx => (cellsOf_mem _ _ x hx).1, ih, hb]
    · rw [runOf, if_pos rfl, ih]

/-- Bytes read back as they were written (R225). -/
theorem memRead_memWrite (m : List Host.Cell) (a : Nat) (bs : List Byte) : memRead (memWrite m a bs) a bs.length = bs := by
  have cells : (memWrite m a bs).filter (fun x => decide (a ≤ x.1) && decide (x.1 < a + bs.length)) = cellsOf a bs := by
    rw [memWrite, List.filter_append, List.filter_append, List.filter_eq_nil_iff.2, List.filter_eq_self.2, List.filter_eq_nil_iff.2,
      List.nil_append, List.append_nil]
    · intro x hx
      have := (List.mem_filter.1 hx).2
      simp only [decide_eq_true_eq] at this
      simp only [Bool.and_eq_true, decide_eq_true_eq]
      omega
    · intro x hx
      have := cellsOf_mem a bs x hx
      simp [this]
    · intro x hx
      have := (List.mem_filter.1 hx).2
      simp only [decide_eq_true_eq] at this
      simp only [Bool.and_eq_true, decide_eq_true_eq]
      omega
  rw [memRead, cells, runOf_cellsOf]

theorem badRuns_none {s : State} (hb : s.badPairs = []) (rs : List (Nat × Nat)) (off : Nat) : s.badRuns rs off = none := by
  induction rs generalizing off with
  | nil => rfl
  | cons r rs ih =>
    have h : s.badIn r.1 r.2 = none := by simp [State.badIn, hb]
    rw [State.badRuns, h]
    exact ih _

theorem settleUe_nothing {s : State} (kind : UeKind) (hu : s.ueHits = []) : s.settleUe kind = s := by
  unfold State.settleUe
  simp only [hu, List.foldl_nil]
  cases s
  subst hu
  rfl

theorem exec_hostCopyDone_found {s : State} {ring : RingId} {c : Cmd} (fin : CopyEnd)
    (h : s.cmds.find? (fun c => c.ring == ring.val && (c.opcode == 0x12 || c.opcode == 0x13)) = some c) :
    exec (.hostCopyDone ring fin) s = .next (s.copyDone c fin) := by
  show execHostCopyDone ring fin s = _
  unfold execHostCopyDone
  rw [h]

/-- A read that meets no bad unit sends the bytes of its runs. -/
theorem copyDone_read {s : State} {c : Cmd} (hb : s.badPairs = []) (hop : c.opcode = 0x12) :
    s.copyDone c .whole = (s.emit (.hostWrite c.haddr (s.readRuns c.runs))).complete c Code.success 0 := by
  have clean : s.copyBad c.runs none = none := by simp [State.copyBad, badRuns_none hb]
  unfold State.copyDone
  simp [hop, clean]

/-- A write of whole units changes memory and completes. -/
theorem copyDone_write {s : State} {c : Cmd} (hb : s.badPairs = []) (hu : s.ueHits = []) (hop : c.opcode = 0x13) :
    s.copyDone c .whole = State.complete { s with mem := memWriteRuns s.mem c.runs c.data } c Code.success 0 := by
  have h : (s.writeRuns c.runs c.data).settleUe .host = { s with mem := memWriteRuns s.mem c.runs c.data } := by
    rw [writeRuns_sound hb]
    exact settleUe_nothing _ hu
  exact (if_pos hop).trans (congrArg (State.complete · c Code.success 0) h)

/-! ### The clauses of O13 -/

/-- MAP where the entries agree with the map. -/
theorem exec_map_fits {s s1 : State} {ring : RingId} {e : Sqe} {c : Cmd} {bs : List Byte}
    (hrun : exec (.map ring e (.ok bs)) s = .next (s1.mapPages c bs (e.field 16 4)))
    (hl : (entries 16 (bs.take (16 * e.field 16 4))).length = e.field 16 4)
    (hr : (entries 16 (bs.take (16 * e.field 16 4))).any pageReserved = false)
    (hfit : pagesFit s1.pages ((entries 16 (bs.take (16 * e.field 16 4))).map decPage) = true) :
    ∃ t, exec (.map ring e (.ok bs)) s = .next t ∧ t.pages = s1.pages ++ (entries 16 (bs.take (16 * e.field 16 4))).map decPage
      ∧ Ended s1 c Code.success 0 t ∧ OnlyReplies (fun _ => false) { s1 with pages := t.pages, restores := t.restores } t := by
  obtain ⟨rs, h⟩ := mapPages_fits c hl hr hfit
  exact ⟨_, hrun.trans (next_eq h), complete_pages .., ended_complete_of c _ _ rfl rfl, replies_complete_pages s1 _ rs c _ _⟩

/-- UNMAP where nothing pins a page of the range. -/
theorem exec_unmap_free {s s1 : State} {ring : RingId} {e : Sqe} {c : Cmd} {va len : Nat} {force : Bool}
    (hrun : exec (.unmap ring e) s = .next (s1.unmapRange c va len force)) (hw : s1.unmapWhole va len)
    (hfree : ∀ p ∈ s1.pages, p.met va len = true → p ∉ s1.tlb) :
    ∃ t, exec (.unmap ring e) s = .next t ∧ (∀ p, p ∈ t.pages ↔ p ∈ s1.pages ∧ p.met va len = false)
      ∧ Ended s1 c Code.success 0 t ∧ OnlyReplies (fun _ => false) { s1 with pages := t.pages, restores := t.restores } t := by
  have none_ : s1.pinnedIn va len = [] := by
    refine List.eq_nil_iff_forall_not_mem.2 fun p hp => ?_
    obtain ⟨hin, hmet, htlb⟩ := (mem_pinnedIn s1 va len p).1 hp
    exact hfree p hin hmet htlb
  obtain ⟨rs, h⟩ := unmapRange_whole c force hw
  simp only [none_, List.isEmpty_nil, Bool.not_true, Bool.false_and, Bool.false_eq_true, if_false, if_true] at h
  refine ⟨_, hrun.trans (next_eq h), fun p => ?_, ended_complete_of c _ _ rfl rfl, replies_complete_pages s1 _ rs c _ _⟩
  rw [complete_pages, mem_unmapped]
  refine and_congr_right fun hin => ⟨fun h => h.elim id fun htlb => ?_, .inl⟩
  exact Bool.eq_false_iff.2 fun hmet => hfree p hin hmet htlb

/-- UNMAP where a page of the range is pinned: refused without FORCE, left to a knot with it. -/
theorem exec_unmap_pinned {s s1 : State} {ring : RingId} {e : Sqe} {c : Cmd} {va len : Nat} {force : Bool}
    (hrun : exec (.unmap ring e) s = .next (s1.unmapRange c va len force)) (hw : s1.unmapWhole va len)
    (hpin : ∃ p ∈ s1.pages, p.met va len = true ∧ p ∈ s1.tlb) :
    (force = false → exec (.unmap ring e) s = .next (s1.refuse c Code.mapConflict))
    ∧ (force = true → ∃ rs, exec (.unmap ring e) s = .next (State.setCmd { s1 with
        pages := s1.unmapped va len, restores := rs
        removals := s1.removals ++ (s1.pinnedIn va len).map fun p => (p.va, s1.grid.time) } c { c with arg := s1.grid.time })) := by
  have some_ : (s1.pinnedIn va len).isEmpty = false := by
    obtain ⟨p, hin, hmet, htlb⟩ := hpin
    exact List.isEmpty_eq_false_iff_exists_mem.2 ⟨p, (mem_pinnedIn s1 va len p).2 ⟨hin, hmet, htlb⟩⟩
  obtain ⟨rs, h⟩ := unmapRange_whole c force hw
  rw [some_] at h
  exact ⟨fun hf => hrun.trans (next_eq (h.trans (by simp [hf]))), fun hf => ⟨rs, hrun.trans (next_eq (h.trans (by simp [hf])))⟩⟩

/-- UNMAP with FORCE where a page of the range is pinned: the command waits for the knot with its pinned pages (R248). -/
theorem exec_unmap_forced {s s1 : State} {ring : RingId} {e : Sqe} {c : Cmd} {va len : Nat}
    (hb : s.beginCmd ring.val 0x11 e = some (s1, c)) (hrun : exec (.unmap ring e) s = .next (s1.unmapRange c va len true))
    (hw : s1.unmapWhole va len) (hpin : ∃ p ∈ s1.pages, p.met va len = true ∧ p ∈ s1.tlb) :
    ∃ t, exec (.unmap ring e) s = .next t ∧ { c with arg := s.grid.time } ∈ t.cmds
      ∧ (∀ p, p ∈ t.pages ↔ p ∈ s1.pages ∧ (p.met va len = false ∨ p ∈ s1.tlb))
      ∧ t.removals = s1.removals
          ++ (s1.pages.filter fun p => p.met va len && s1.tlb.contains p).map (fun p => (p.va, s.grid.time))
      ∧ t = { s1 with pages := t.pages, restores := t.restores, removals := t.removals, cmds := t.cmds } := by
  obtain ⟨hin, -⟩ := beginCmd_some hb
  obtain ⟨-, -, hgrid⟩ := beginCmd_frame hb
  obtain ⟨rs, h⟩ := (exec_unmap_pinned hrun hw hpin).2 rfl
  rw [← hgrid, ← pinnedIn_eq]
  exact ⟨_, h, mem_setCmd _ hin, mem_unmapped s1 va len, rfl, rfl⟩

/-- HOST_COPY_DONE of a read. -/
theorem exec_copy_read {s : State} {ring : RingId} {c : Cmd}
    (hrun : exec (.hostCopyDone ring .whole) s = .next (s.copyDone c .whole)) (hb : s.badPairs = []) (hop : c.opcode = 0x12)
    (hup : s.hostUp = true) : ∃ t, exec (.hostCopyDone ring .whole) s = .next t
      ∧ .hostWrite c.haddr (s.readRuns c.runs) ∈ t.out ∧ Ended s c Code.success 0 t ∧ OnlyReplies (fun _ => false) s t := by
  have sent : s.emit (.hostWrite c.haddr (s.readRuns c.runs)) = { s with out := .hostWrite c.haddr (s.readRuns c.runs) :: s.out } := by
    simp [State.emit, hup]
  rw [copyDone_read hb hop] at hrun
  refine ⟨_, hrun, ?_, ended_complete_of c _ _ (emit_regs ..) (by rw [sent]), replies_complete (replies_emit (replies_refl _ s) _) ..⟩
  rw [sent]
  exact (keep_complete (keep_refl _) c Code.success 0).out.subset (List.mem_cons_self ..)

/-- HOST_COPY_DONE of a write. -/
theorem exec_copy_write {s : State} {ring : RingId} {c : Cmd}
    (hrun : exec (.hostCopyDone ring .whole) s = .next (s.copyDone c .whole)) (hb : s.badPairs = []) (hu : s.ueHits = [])
    (hop : c.opcode = 0x13) : ∃ t, exec (.hostCopyDone ring .whole) s = .next t
      ∧ (∀ a, (∀ r ∈ c.runs, a < r.1 ∨ r.1 + r.2 ≤ a) → t.readByte a = s.readByte a)
      ∧ (Memory.wf s.mem → ∀ a n, c.runs = [(a, n)] → c.data.length = n → t.readMem a n = c.data)
      ∧ Ended s c Code.success 0 t ∧ OnlyReplies (fun _ => false) { s with mem := t.mem } t := by
  rw [copyDone_write hb hu hop] at hrun
  refine ⟨_, hrun, fun a ha => ?_, fun _ a n hruns hlen => ?_, ended_complete_of c _ _ rfl rfl, ?_⟩
  · rw [State.readByte, complete_mem]
    exact tget_memWriteRuns_outside _ _ _ ha
  · rw [State.readMem, complete_mem]
    subst hlen
    simp only [hruns, memWriteRuns, List.take_length]
    exact memRead_memWrite ..
  · rw [complete_mem]
    exact replies_complete (replies_refl _ _) ..

/-- Settles O13: each command runs as it has begun, and a copy at its end. -/
theorem pagesAndCopies : Obligations.PagesAndCopies := by
  refine ⟨fun s s1 ring e c hr hf => ⟨?_, ?_, ?_, ?_, ?_⟩, fun s ring c hfind hb hu =>
    ⟨fun hop hup => exec_copy_read (exec_hostCopyDone_found _ hfind) hb hop hup,
      fun hop => exec_copy_write (exec_hostCopyDone_found _ hfind) hb hu hop⟩⟩
  · intro bs hb hp h1 h2 hl hres
    have hrun := exec_map_runs bs hb hf hr hp h1 h2
    exact ⟨exec_map_fits hrun hl hres, fun hfit => ⟨_, hrun.trans (next_eq (mapPages_conflict c hl hres hfit)), refuse_ends ..⟩⟩
  · intro hb hfl hz hva hlen h0 hend hit hw
    have hrun := exec_unmap_runs hb hf hr hfl hz hva hlen h0 hend
    refine ⟨exec_unmap_free hrun hw, fun hpin => ⟨fun hflags => ?_, fun hflags => ?_⟩⟩
    · exact ⟨_, (exec_unmap_pinned hrun hw hpin).1 (by rw [hflags]; rfl), refuse_ends ..⟩
    · rw [show bit e.flags.toNat 0 = true by rw [hflags]; rfl] at hrun
      exact exec_unmap_forced hb hrun hw hpin
  · rintro x (rfl | ⟨data, rfl⟩) hb hp hc h0
    · exact ⟨_, exec_memRead_empty hf hr hp hc hb h0, ended_complete .., replies_complete (replies_refl _ s1) ..⟩
    · exact ⟨_, exec_memWrite_empty hf hr hp hc data hb h0, ended_complete .., replies_complete (replies_refl _ s1) ..⟩
  · intro hb hp hc h0
    exact ⟨fun rs hwalk => ⟨_, exec_memRead_waits hf hr hp hc hb h0 hwalk, mem_setCmd _ (beginCmd_some hb).1, rfl⟩,
      fun hwalk => ⟨_, exec_memRead_unmapped hf hr hp hc hb h0 hwalk, refuse_ends ..⟩⟩
  · intro bs rs hb hp hc h0 hwalk hprot
    exact ⟨_, exec_memWrite_waits hf hr hp hc bs hb h0 hwalk hprot, mem_setCmd _ (beginCmd_some hb).1, rfl⟩

end Sys2Proof.Machine
end
